-- ==== Sys2Proof/Word.lean ====
section
/-! DEFINITION. The plain words of the K4: bytes, the 128-bit element value word, and sparse tables. -/

namespace Sys2Proof

/-- One byte of a memory, container, record or queue (R1). -/
abbrev Byte := BitVec 8

/-- The 128-bit word of a file slot, latch or constant register (R32). -/
abbrev V128 := BitVec 128

/-- A q register, a system register or a virtual address word. -/
abbrev W64 := BitVec 64

/-- A sparse table: (key, value) pairs, keys rising, and no value equal to the table's default. -/
abbrev Tbl (α : Type) := List (Nat × α)

end Sys2Proof
end

