-- ==== Sys2Proof/Syntax.lean ====
section
/-! DEFINITION. The syntax of everything the K4 executes: element, port, generator and engine entries, sequencer
steps (04_encoding.md, R56 to R79), and the events of spec/opcode_table.json, one constructor of Instr a row. -/

namespace Sys2Proof

/-- Integer coding of TY (R63). -/
inductive ITy | i8 | i16 | i32 | i64 | n8 | n16 | n32 | n64
  deriving DecidableEq, Repr, Inhabited

/-- Floating-point coding of TY (R63). -/
inductive FTy | f32 | f16 | bf16 | f19 | f8e4 | f8e5
  deriving DecidableEq, Repr, Inhabited

/-- A lane type of either coding (R63, R71). -/
inductive LTy
  | int (t : ITy)
  | flt (t : FTy)
  deriving DecidableEq, Repr, Inhabited

/-- Rounding modes (R45). -/
inductive RMode | rne | rtz | rup | rdn | rna | sr
  deriving DecidableEq, Repr, Inhabited

/-- The scale tag an entry expects on every source it reads (R65). -/
inductive TagExp | any | unscaled | scaled
  deriving DecidableEq, Repr, Inhabited

/-- Integer compare conditions (R64). -/
inductive Cond | eq | ne | lt | le | gt | ge
  deriving DecidableEq, Repr, Inhabited

/-- Floating-point compare conditions (R229). -/
inductive FCond | eq | ne | lt | le | gt | ge | unordered | ordered
  deriving DecidableEq, Repr, Inhabited

/-- Conditions of `cmpq` (R78). -/
inductive QCond | eq | ne | lt | ge | ltu | geu
  deriving DecidableEq, Repr, Inhabited

/-- Conditions of `brs` (R78). -/
inductive BCond | z | nz | neg | nneg
  deriving DecidableEq, Repr, Inhabited

/-- Scopes, narrowest agents first (R69, R331). -/
inductive Scope | el | rg | co | gp | di | pk | sy | im
  deriving DecidableEq, Repr, Inhabited

/-- Operand format codes 0x00 to 0x1B (R31). -/
inductive Fmt
  | fp32 | fp19 | bf16 | fp16 | fp8e4 | fp8e5 | fp6e3 | fp6e2 | fp4
  | int16 | int8 | nat8 | int4 | nat4 | int2 | bin1 | tri5
  | mx8e4 | mx8e5 | mx6e3 | mx6e2 | mx4 | mxi8 | qn4 | bq4 | bi4 | bi8 | tris
  deriving DecidableEq, Repr, Inhabited

/-- A source selector (R60). -/
inductive Src
  | file (n : Nat)
  | L | N | E | S | W
  | k (n : Nat)
  | imm (v : Int)
  deriving DecidableEq, Repr, Inhabited

/-- A destination of shape D (R62, R66). -/
inductive Dst
  | file (n : Nat)
  | latch
  | both (n : Nat)
  deriving DecidableEq, Repr, Inhabited

/-- The header of R58: stamp, hold bit and guard. -/
structure Hdr where
  stamp : Nat
  hold : Bool
  pred : Nat
  pneg : Bool
  deriving DecidableEq, Repr, Inhabited

/-- Shape D A with MOD layout I. -/
structure OpI1 where
  h : Hdr
  ty : ITy
  d : Dst
  a : Src
  tag : TagExp
  deriving DecidableEq, Repr, Inhabited

/-- Shape D A B with MOD layout I. -/
structure OpI2 where
  h : Hdr
  ty : ITy
  d : Dst
  a : Src
  b : Src
  tag : TagExp
  deriving DecidableEq, Repr, Inhabited

/-- Shape D A B C with MOD layout I. -/
structure OpI3 where
  h : Hdr
  ty : ITy
  d : Dst
  a : Src
  b : Src
  c : Src
  tag : TagExp
  deriving DecidableEq, Repr, Inhabited

/-- `cmp`: shape P A B with MOD layout K. -/
structure OpCmp where
  h : Hdr
  ty : ITy
  p : Nat
  a : Src
  b : Src
  tag : TagExp
  cc : Cond
  deriving DecidableEq, Repr, Inhabited

/-- `test`: shape P A B with MOD layout I. -/
structure OpTest where
  h : Hdr
  ty : ITy
  p : Nat
  a : Src
  b : Src
  tag : TagExp
  deriving DecidableEq, Repr, Inhabited

/-- `mov`: shape D A with MOD zero. -/
structure OpMov where
  h : Hdr
  ty : ITy
  d : Dst
  a : Src
  deriving DecidableEq, Repr, Inhabited

/-- `movk`: shape A, the constant register in NUM. -/
structure OpMovk where
  h : Hdr
  ty : ITy
  k : Nat
  a : Src
  deriving DecidableEq, Repr, Inhabited

/-- `li`: layout W. -/
structure OpLi where
  h : Hdr
  ty : ITy
  d : Dst
  imm : Int
  deriving DecidableEq, Repr, Inhabited

/-- `tri5`: shape D A, the trit group in NUM, TY 0. -/
structure OpTri where
  h : Hdr
  d : Dst
  a : Src
  g : Nat
  deriving DecidableEq, Repr, Inhabited

/-- The packed formats of `pack` and `unpk` (R215). -/
inductive PFmt | int4 | nat4 | int2 | bin1
  deriving DecidableEq, Repr, Inhabited

/-- `pack`: shape D A B, layout Q with RM 0; TY follows from the format (R215). -/
structure OpPack where
  h : Hdr
  fmt : PFmt
  d : Dst
  a : Src
  b : Src
  deriving DecidableEq, Repr, Inhabited

/-- `unpk`: shape D A, layout Q with RM 0. -/
structure OpUnpk where
  h : Hdr
  fmt : PFmt
  d : Dst
  a : Src
  deriving DecidableEq, Repr, Inhabited

/-- `idx` and `dzero`: shape D, MOD zero. -/
structure OpD where
  h : Hdr
  ty : ITy
  d : Dst
  deriving DecidableEq, Repr, Inhabited

/-- Shape D A with MOD layout F. -/
structure OpF1 where
  h : Hdr
  ty : FTy
  d : Dst
  a : Src
  rm : RMode
  tag : TagExp
  deriving DecidableEq, Repr, Inhabited

/-- Shape D A B with MOD layout F. -/
structure OpF2 where
  h : Hdr
  ty : FTy
  d : Dst
  a : Src
  b : Src
  rm : RMode
  tag : TagExp
  deriving DecidableEq, Repr, Inhabited

/-- Shape D A B C with MOD layout F. -/
structure OpF3 where
  h : Hdr
  ty : FTy
  d : Dst
  a : Src
  b : Src
  c : Src
  rm : RMode
  tag : TagExp
  deriving DecidableEq, Repr, Inhabited

/-- `fabs`, `fneg`, `amax`: shape D A with MOD layout I, floating-point TY. -/
structure OpG1 where
  h : Hdr
  ty : FTy
  d : Dst
  a : Src
  tag : TagExp
  deriving DecidableEq, Repr, Inhabited

/-- `fmin`, `fmax`: shape D A B with MOD layout F and RM 0. -/
structure OpG2 where
  h : Hdr
  ty : FTy
  d : Dst
  a : Src
  b : Src
  tag : TagExp
  deriving DecidableEq, Repr, Inhabited

/-- `fcmp`: shape P A B with MOD layout K. -/
structure OpFcmp where
  h : Hdr
  ty : FTy
  p : Nat
  a : Src
  b : Src
  tag : TagExp
  cc : FCond
  deriving DecidableEq, Repr, Inhabited

/-- `fclass`: shape P A, class mask in NUM. -/
structure OpFclass where
  h : Hdr
  ty : FTy
  p : Nat
  a : Src
  mask : Nat
  deriving DecidableEq, Repr, Inhabited

/-- `cvt`: shape D A K with MOD layout C; the policy register is k`k`. -/
structure OpCvt where
  h : Hdr
  td : LTy
  ts : LTy
  d : Dst
  a : Src
  k : Nat
  rm : RMode
  deriving DecidableEq, Repr, Inhabited

/-- `cvtsr`: shape D A K C with MOD layout C and RM 0. -/
structure OpCvtsr where
  h : Hdr
  td : LTy
  ts : LTy
  d : Dst
  a : Src
  k : Nat
  c : Src
  deriving DecidableEq, Repr, Inhabited

/-- `quant`, `dequ`: shape D A K with MOD layout Q. -/
structure OpQuant where
  h : Hdr
  ty : FTy
  d : Dst
  a : Src
  k : Nat
  rm : RMode
  fmt : Fmt
  deriving DecidableEq, Repr, Inhabited

/-- `mxsc`: shape D A with MOD layout Q and RM 0. -/
structure OpMxsc where
  h : Hdr
  ty : FTy
  d : Dst
  a : Src
  fmt : Fmt
  deriving DecidableEq, Repr, Inhabited

/-- `rnd`: shape D, TY 0, MOD zero. -/
structure OpRnd where
  h : Hdr
  d : Dst
  deriving DecidableEq, Repr, Inhabited

/-- `rndn`: shape D with MOD layout F. -/
structure OpRndn where
  h : Hdr
  ty : FTy
  d : Dst
  rm : RMode
  tag : TagExp
  deriving DecidableEq, Repr, Inhabited

/-- `pand`, `por`, `pxor`: shape P a b. -/
structure OpP2 where
  h : Hdr
  p : Nat
  a : Nat
  b : Nat
  deriving DecidableEq, Repr, Inhabited

/-- `pnot`, `pmov`: shape P a. -/
structure OpP1 where
  h : Hdr
  p : Nat
  a : Nat
  deriving DecidableEq, Repr, Inhabited

/-- `bcast`, `lrot`, `dseed`, `dget`, `dput`: shape D A with a number. -/
structure OpNum where
  h : Hdr
  ty : ITy
  d : Dst
  a : Src
  n : Nat
  deriving DecidableEq, Repr, Inhabited

/-- `shuf`: shape D A B with MOD zero. -/
structure OpShuf where
  h : Hdr
  ty : ITy
  d : Dst
  a : Src
  b : Src
  deriving DecidableEq, Repr, Inhabited

/-- `drn.cut` (R254, R256). -/
structure OpCut where
  h : Hdr
  ty : FTy
  d : Dst
  deriving DecidableEq, Repr, Inhabited

/-- `drn.lin` (R254, R256). -/
structure OpLin where
  h : Hdr
  ty : FTy
  d : Dst
  a : Src
  b : Src
  c : Src
  deriving DecidableEq, Repr, Inhabited

/-- Tokens, barriers and `brk`: a header and a number. -/
structure OpN where
  h : Hdr
  n : Nat
  deriving DecidableEq, Repr, Inhabited

/-- A fence entry. -/
structure OpFence where
  h : Hdr
  scope : Scope
  deriving DecidableEq, Repr, Inhabited

/-- A port entry (R71). `size` is 0 for 128, 1 for 64 and 2 for 32 bits. -/
structure OpPort where
  h : Hdr
  ty : LTy
  agen : Nat
  bsel : Nat
  scope : Scope
  size : Nat
  pdef : Bool
  pol : Nat
  rm : RMode
  deriving DecidableEq, Repr, Inhabited

/-- `cnt` (IMM unsigned) and `step` (IMM signed) of a generator (R73, R74). -/
structure OpGen where
  h : Hdr
  ctr : Nat
  port : Nat
  imm : Int
  deriving DecidableEq, Repr, Inhabited

/-- Accumulator modes of a tile-step row and of the ring's head (R269, R279). -/
inductive Acc | f32 | w32 | s32
  deriving DecidableEq, Repr, Inhabited

/-- A tile-step row (R269). -/
structure OpRow where
  stamp : Nat
  hold : Bool
  m : Nat
  n : Nat
  k : Nat
  afmt : Option Fmt
  bfmt : Option Fmt
  acc : Acc
  rm : RMode
  z : Bool
  adv : Bool
  lra : Bool
  lrb : Bool
  as : Nat
  astep : Int
  ax : Nat
  bs : Nat
  bstep : Int
  bx : Nat
  rep : Nat
  repq : Option Nat
  deriving DecidableEq, Repr, Inhabited

/-- The epilogue configuration written by `epc` (R281). -/
structure EpCfg where
  ofmt : Fmt
  raw : Bool
  rm : RMode
  act : Nat
  scm : Nat
  bim : Nat
  otag : Bool
  scale : Nat
  pol : Nat
  deriving DecidableEq, Repr, Inhabited

/-- A stamp and hold bit: the header of an engine entry, whose guard is always true (R75). -/
structure EHdr where
  stamp : Nat
  hold : Bool
  deriving DecidableEq, Repr, Inhabited

/-- A data-moving copy-engine entry (R321); 0xFF is no binding. -/
structure OpCopy where
  h : EHdr
  dq : Nat
  sb : Nat
  db : Nat
  dop : Bool
  deriving DecidableEq, Repr, Inhabited

/-- `fxin`, `fxout`: samples and planes (R293). -/
structure OpFx where
  h : EHdr
  bsel : Nat
  oq : Nat
  sz : Nat
  lo : Nat
  width : Nat
  wire : Nat
  deriving DecidableEq, Repr, Inhabited

/-- One heap-window record of an address space (R142, R143). -/
structure Win where
  base : Nat
  limit : Nat
  offset : Nat
  attr : Nat
  deriving DecidableEq, Repr, Inhabited

/-- A memory or register access by a Reed core, a DMA engine or the host (R347): physical addresses. -/
inductive Access
  | load (pa : Nat) (n : Nat)
  | store (pa : Nat) (bytes : List Byte)
  deriving DecidableEq, Repr, Inhabited

/-- A mailbox command, as posted in a slot of the table-unit mailbox (R142, R164, R403). -/
inductive Cmd
  | aset (workid root : Nat) (wins : List Win)
  | pin (workid va size : Nat) (write : Bool)
  | unpin (workid va size : Nat) (write : Bool)
  | inval (workid va size : Nat) (wake replay : Bool)
  | reside (cont image : Nat) (wake : Bool)
  | evict (cont image : Nat)
  | modereq (mode : Nat)
  | endwork (workid : Nat)
  | resync (dest : Nat)
  | ctrread (die core slot mode entry : Nat)
  | ctrclr (die core slot mode entry : Nat)
  | reserved (op : Nat)
  deriving DecidableEq, Repr, Inhabited

/-- What an agent of a port die reads of the device's registers: a system register of R179 through the aperture of a
lane's die, a byte of the manifest (R95), the relocation table (R130), a register of a queue (R401: 0 BASE, 1 SIZE,
2 HEAD, 3 TAIL, 4 LOST, 5 DROPS), TU.BUSY of a mailbox slot (R403). -/
inductive RegRead
  | sys (lane sreg : Nat)
  | manifest (off n : Nat)
  | reloc (off n : Nat)
  | queue (q r : Nat)
  | busy (slot : Nat)
  deriving DecidableEq, Repr, Inhabited

/-- What a Reed core does to the device (R14, R121, R347, R403). -/
inductive ReedOp
  | mem (a : Access)
  | read (r : RegRead)
  | post (slot tag : Nat) (c : Cmd)
  | launch (bytes : List Byte)
  | queueHead (q v : Nat)
  deriving DecidableEq, Repr, Inhabited

/-- Power states of a compute die; RESET is the state after a function-level reset (R101, R406). -/
inductive Power | run | hold | park | off | reset
  deriving DecidableEq, Repr, Inhabited

/-- A register of a lane that a debugger reads or writes (R99): the step pointer, an element's file slot, latch,
predicate or constant of the active bank, a port tile's W latch. -/
inductive DebugReg
  | sp
  | file (unit slot : Nat)
  | latch (unit : Nat)
  | pred (unit p : Nat)
  | const (unit k : Nat)
  | port (row : Nat)
  deriving DecidableEq, Repr, Inhabited

/-- What a granted debug session asks of a die's work (R99, R103). `stepRegion` lets the counter of a halted region go on
by one counter cycle. -/
inductive DebugOp
  | observe
  | halt (lane : Nat)
  | stepRegion (lane : Nat)
  | readReg (lane : Nat) (r : DebugReg)
  | writeReg (lane : Nat) (r : DebugReg) (v : V128)
  | stepOne (lane : Nat)
  | readQ (lane q : Nat)
  | writeQ (lane q : Nat) (v : W64)
  | readMem (pa n : Nat)
  | writeMem (lane pa : Nat) (bytes : List Byte)
  deriving DecidableEq, Repr, Inhabited

/-- A gPTP Sync as received (R108, R109). -/
structure SyncMsg where
  port : Nat
  domain : Nat
  logInt : Int
  gptp : Nat
  gm : Nat
  deriving DecidableEq, Repr, Inhabited

/-- A gPTP Announce as received: the best-master vector as one number, lower is better (R108). -/
structure AnnMsg where
  port : Nat
  domain : Nat
  prio : Nat
  gm : Nat
  deriving DecidableEq, Repr, Inhabited

/-- States of a TDI (R98). -/
inductive Tdi | configUnlocked | configLocked | run | error
  deriving DecidableEq, Repr, Inhabited

/-- Why an elastic block is stopped (R383). -/
inductive StopWhy | firmStart | budget | yielded | page | image | modeChange
  deriving DecidableEq, Repr, Inhabited

/-- One constructor for each row of spec/opcode_table.json. -/
inductive Instr
  -- element entries, class 00 (R67)
  | nop (h : Hdr)
  | add (o : OpI2) | sub (o : OpI2) | adds (o : OpI2) | subs (o : OpI2)
  | neg (o : OpI1) | abs (o : OpI1) | min (o : OpI2) | max (o : OpI2) | avg (o : OpI2)
  | clamp (o : OpI3) | mul (o : OpI2) | mulh (o : OpI2) | mad (o : OpI3) | sad (o : OpI3) | dot4 (o : OpI3)
  | and (o : OpI2) | or (o : OpI2) | xor (o : OpI2) | andn (o : OpI2) | not (o : OpI1)
  | shl (o : OpI2) | shr (o : OpI2) | sha (o : OpI2) | rot (o : OpI2)
  | clz (o : OpI1) | pop (o : OpI1) | brev (o : OpI1) | bfx (o : OpI3) | bfi (o : OpI3)
  | cmp (o : OpCmp) | test (o : OpTest) | sel (o : OpI2) | mov (o : OpMov) | movk (o : OpMovk) | li (o : OpLi)
  | tri5 (o : OpTri) | pack (o : OpPack) | unpk (o : OpUnpk) | idx (o : OpD)
  -- element entries, class 01 (R68)
  | fadd (o : OpF2) | fsub (o : OpF2) | fmul (o : OpF2) | fma (o : OpF3) | fms (o : OpF3) | fnma (o : OpF3)
  | fmin (o : OpG2) | fmax (o : OpG2) | fabs (o : OpG1) | fneg (o : OpG1)
  | fcmp (o : OpFcmp) | fclass (o : OpFclass) | frnd (o : OpF1) | fscl (o : OpF2) | fdot2 (o : OpF3) | lsumf (o : OpF1)
  | cvt (o : OpCvt) | cvtsr (o : OpCvtsr) | quant (o : OpQuant) | dequ (o : OpQuant)
  | scl (o : OpF2) | uscl (o : OpF2) | amax (o : OpG1) | mxsc (o : OpMxsc) | rnd (o : OpRnd) | rndn (o : OpRndn)
  | fnExp2 (o : OpF1) | fnLog2 (o : OpF1) | fnRcp (o : OpF1) | fnRsq (o : OpF1)
  | fnSin (o : OpF1) | fnTanh (o : OpF1) | fnSig (o : OpF1) | fnGelu (o : OpF1)
  -- element entries, class 10 (R69)
  | pand (o : OpP2) | por (o : OpP2) | pxor (o : OpP2) | pnot (o : OpP1) | pmov (o : OpP1)
  | bcast (o : OpNum) | shuf (o : OpShuf) | lrot (o : OpNum) | lsum (o : OpI1) | lmax (o : OpI1)
  | drnCut (o : OpCut) | drnLin (o : OpLin) | dseed (o : OpNum) | dget (o : OpNum) | dput (o : OpNum) | dzero (o : OpD)
  | tokw (o : OpN) | toke (o : OpN) | barArrive (o : OpN) | barWait (o : OpN) | barAw (o : OpN)
  | fence (o : OpFence) | fenceSc (o : OpFence) | brk (o : OpN)
  -- port entries (R72)
  | ld (o : OpPort) | st (o : OpPort) | ldg (o : OpPort) | stg (o : OpPort)
  | aadd (o : OpPort) | amin (o : OpPort) | atomicMax (o : OpPort) | aand (o : OpPort) | aor (o : OpPort)
  | axor (o : OpPort) | axch (o : OpPort) | acas (o : OpPort) | radd (o : OpPort) | rmin (o : OpPort) | rmax (o : OpPort)
  -- generator entries (R74)
  | cnt (o : OpGen) | step (o : OpGen) | tokgo (o : OpN) | tokend (o : OpN)
  -- engine entries (R76)
  | mmz (h : EHdr) (acc : Acc) | mm (o : OpRow) | mms (o : OpRow) | radv (h : EHdr)
  | epc (h : EHdr) (c : EpCfg) | epi (h : EHdr) (row col : Nat) (pop : Bool)
  | epw (h : EHdr) (bsel : Nat) (pop pair : Bool) (oq pitch : Nat) | epd (h : EHdr) | epb (h : EHdr) (slot : Nat) (bias : Bool)
  | copy (o : OpCopy) | copyc (o : OpCopy) | fill (o : OpCopy) (vq : Nat) | prefetch (o : OpCopy) | wld (o : OpCopy)
  | drain (h : EHdr) (mem : Nat)
  | fldt (h : EHdr) (ctx bsel oq cell count : Nat) | fctx (h : EHdr) (ctx : Nat) | feval (h : EHdr) (cell count : Nat)
  | fxin (o : OpFx) | fxout (o : OpFx)
  | fpop (h : EHdr) (bsel oq wire gsize groups pitch : Nat) | fpopLat (h : EHdr) (wire gsize groups sample : Nat)
  | fclr (h : EHdr) (wire count : Nat) | fclrCtx (h : EHdr) (ctx : Nat)
  -- sequencer steps (R78)
  | stepNop | cfg (rs bank img : Nat) | cfgx (rs bank img rect : Nat) | swap (rs : Nat) | run (rs qt : Nat)
  | waitRegion (n : Nat) | waitFrame (g : Nat) | waitBarrier (b : Nat)
  | brs (qa : Nat) (c : BCond) (tgt len : Nat) | loop (qc last : Nat) | setq (qd : Nat) (imm : Int)
  | addq (qd qa qb : Nat) | addqImm (qd qa : Nat) (imm : Int) | cmpq (c : QCond) (qd qa qb : Nat)
  | ldq (qd qa : Nat) (off : Int) | stq (qs qa : Nat) (off : Int) | tick (qd : Nat) | mode (m : Nat) | spawn (qa : Nat)
  | yield | retire | trap (code : Nat) | freeze (rs : Nat) | thaw (rs : Nat)
  | sysr (qd sreg : Nat) | sysw (qa sreg : Nat) | claim (slot count : Nat) | free (slot count : Nat) | pub (buf : Nat)
  | barInit (b count : Nat) | stepBarArrive (b : Nat) | stepBarWait (b : Nat) | frame (g : Nat)
  | stepFence (sc : Scope) | stepFenceSc (sc : Scope) | stepBrk (code : Nat)
  -- events of issue, feeding and synchronisation
  | resultLand (lane : Nat) | memoryReply (id : Nat) | hotThreshold (core port page : Nat) | intervalWrap (lane : Nat)
  | frameWireEvent (workid group : Nat) | faceFlip (die flip : Nat) | regionEnd (lane : Nat) | bankReady (lane bank : Nat)
  | configPrefetch (lane entry : Nat) | matrixStepLand (core : Nat) | copyDone (core : Nat) | feltLoadDone (core : Nat)
  | writePerform (core port : Nat) | pageWalk (workid va : Nat) (store : Bool) | atomicResend (core port : Nat)
  | flitDelivery (flit : Nat) (late : Bool) | barrierArrivalLand (core arrival : Nat) | barrierRelease (round : Nat)
  | weightStoreRefresh (die group : Nat)
  -- events of interruption and of the table units
  | faultDecision (event : Nat) | entryRetry (lane : Nat) | blockRestart (lane : Nat) | killClear (lane : Nat)
  | blockStart (lane entry : Nat) | elasticRelease (lane entry : Nat) | elasticResume (lane : Nat)
  | elasticStop (lane : Nat) (why : StopWhy) | budgetExhausted (lane : Nat) | elasticSave (lane : Nat) | periodStart
  | overrun (lane : Nat) | fallbackOverrun (lane : Nat) | modeChange
  | launchPacket (bytes : List Byte) | admission (item : Nat) | pretranslationTimeout (item : Nat)
  | tableSetActivation | workEnd (workid : Nat)
  -- mailbox commands, acting at their decision tick; `slot` is the mailbox slot and `tag` the software's tag
  | aset (slot tag workid root : Nat) (wins : List Win)
  | pin (slot tag workid va size : Nat) (write : Bool) | unpin (slot tag workid va size : Nat) (write : Bool)
  | inval (slot tag workid va size : Nat) (wake replay : Bool)
  | reside (slot tag cont image : Nat) (wake : Bool) | evict (slot tag cont image : Nat)
  | modereq (slot tag mode : Nat) | endwork (slot tag workid : Nat) | resync (slot tag dest : Nat)
  | ctrread (slot tag die core lslot mode entry : Nat) | ctrclr (slot tag die core lslot mode entry : Nat)
  -- queues and registers
  | queueStagedWrite (q : Nat) | queueConfigWrite (q : Nat) (size : Bool) (v : Nat) | hotThreshWrite (die : Nat) (v : W64)
  | registerWrite (sreg : Nat) (v : W64)
  -- the Crown
  | containerVerify (addr size : Nat) | thermalRead (temps : List (List Int)) | powerStateChange (die : Nat)
  | d2FieldRestart (die : Nat) | functionLevelReset (fn : Nat) | commandCompletion (cmd : Nat) | powerStateReached (die : Nat)
  | dmaWrite (engine src dst bytes : Nat)
  | pwrgood | mapOut | tamper | holdover | lifecycleFuseBlow | pwrgoodFall
  -- what agents outside the compute dies ask for: these come as stimulus and are never made by the machine itself
  | powerStateRequest (slot die : Nat) (p : Power) | debugToken (bytes : List Byte) | brkResume (lane : Nat)
  | sync (m : SyncMsg) | announce (m : AnnMsg) | peerDelay (port delay : Nat)
  | getVersion (fn : Nat) | getCapabilities (fn : Nat) | negotiateAlgorithms (fn : Nat) (algs : List Nat) | getDigests (fn : Nat)
  | getCertificate (fn : Nat) | challenge (fn nonce : Nat) | getMeasurements (fn nonce : Nat) | keyExchange (fn pub : Nat)
  | finish (fn : Nat) (mac : Nat) | endSession (fn : Nat) | vendorDefinedRequest (fn : Nat) (req : List Byte)
  | ideKm (fn stream : Nat) (key : Nat) | tdispRequest (fn : Nat) (goal : Tdi)
  | reedCoreAccess (core : Nat) (op : ReedOp) | hostAccess (fn : Nat) (op : ReedOp)
  | debugRequest (die : Nat) (op : DebugOp) | recoveryImage (kind : Nat) (bytes : List Byte)
  deriving DecidableEq, Repr, Inhabited

end Sys2Proof
end

