-- ==== Sys2Proof/Config.lean ====
section
/-! DEFINITION. What the spec leaves to an implementation or leaves open, as constants with no body: nothing can be
proved of their values. A function of a Nat gives a fresh value for each reading of a counter in the state. -/

namespace Sys2Proof

/-! Times with no stated value (notes/assumptions: the free delays). -/

/-- Cycles a DRAM access takes beyond one; a firm one is cut at R316's bound. -/
opaque Config.dramDelay : Nat → Nat
/-- Cycles a page walk adds (R151: no stated bound). -/
opaque Config.walkDelay : Nat → Nat
/-- Cycles an access to host memory takes (R394: no stated bound). -/
opaque Config.hostDelay : Nat → Nat
/-- Cycles a command of the I/O stream takes from its decision to its completion. -/
opaque Config.commandDelay : Nat → Nat
/-- Cycles a DMA transfer of a port die takes. -/
opaque Config.dmaDelay : Nat → Nat
/-- Ticks a pre-translation takes (R154: no stated bound). -/
opaque Config.pretransTicks : Nat → Nat
/-- Cycles within R101's bound that a change of power state takes. -/
opaque Config.powerDelay : Nat → Nat
/-- Whether a flit needed more replays than R134 allows, and is late (R135). -/
opaque Config.flitLate : Nat → Bool
/-- Ticks beyond the first by which such a flit comes late. -/
opaque Config.lateTicks : Nat → Nat

/-! Values the spec does not state. -/

/-- What a line read under a key other than the one it was written with holds (R319): key, key written, address. -/
opaque Config.wrongKey : Nat → Nat → Nat → BitVec 8
/-- What a tested result with no stated value holds. -/
opaque Config.freeBits : Nat → Nat
/-- The element code of a value (numerator, denominator) under a derived block scale that is zero or no number (R52). -/
opaque Config.zeroScale : Int → Nat → Nat
/-- The E8M0 code of a block whose largest magnitude (numerator, denominator) gives one above 0xFE (R52). -/
opaque Config.bigScale : Int → Nat → Nat
/-- The QN4 element code of a value (numerator, denominator) that is no level of R44: the spec states no rounding onto
the codebook. The first argument is the rounding mode's code. -/
opaque Config.qn4Code : Nat → Int → Nat → Nat
/-- Where a stop not caused by a page leaves a copy between R325's bounds. -/
opaque Config.copyStop : Nat → Nat
/-- Which of the four reserved bits of a fault record's FFLAGS is the malformed bit (R150, R370). -/
opaque Config.malformedBit : Nat

/-! What the fuses hold, and what the device draws or keeps secret. -/

/-- The pairs of public signing keys, Ed25519 and ML-DSA-65, whose digests the fuses hold for images of a security state
(R88). -/
opaque Config.imageKeys : Nat → List (List (BitVec 8) × List (BitVec 8))
/-- The pairs for debug tokens. -/
opaque Config.debugKeys : Nat → List (List (BitVec 8) × List (BitVec 8))
/-- The device secret u of R93: the PUF response reduced by SHAKE256 with the fused salt. -/
opaque Config.deviceSecret : List (BitVec 8)
/-- The ML-DSA-65 public key of a 32-byte seed (R93): FIPS 204's key generation. -/
opaque Config.mlPublic : List (BitVec 8) → List (BitVec 8)
/-- An ML-DSA-65 signature (R97): the seed of the key, the message, and a draw, since FIPS 204 may hedge it. -/
opaque Config.mlSign : List (BitVec 8) → List (BitVec 8) → Nat → List (BitVec 8)
/-- The fused minimum security version of a kind of image (R89). -/
opaque Config.minSvn : Nat → Nat
/-- The boot nonce drawn at a start (R89). -/
opaque Config.bootNonce : Nat → BitVec 256
/-- Certificate chains and digests of a function (R97). -/
opaque Config.certChain : Nat → List (BitVec 8)
/-- The key a KEY_EXCHANGE agrees: function, requester's public value, draw (R97). -/
opaque Config.sharedKey : Nat → Nat → Nat → Nat
/-- The verification data a FINISH must carry (R97). -/
opaque Config.finishMac : Nat → Nat → Nat
/-- The bytes of an SPDM reply whose layout SPDM 1.3 and not this spec gives: request code, function, draw. -/
opaque Config.spdmReply : Nat → Nat → Nat → List (BitVec 8)

end Sys2Proof
end

