-- ==== Sys2Proof/WellFormed.lean ====
section
/-! DEFINITION. Which instructions are well formed: the limits R57 and the rules it gathers put on every field. -/

namespace Sys2Proof

/-- Lane width in bits of an integer type (R32). -/
def ITy.width : ITy → Nat
  | .i8 | .n8 => 8
  | .i16 | .n16 => 16
  | .i32 | .n32 => 32
  | .i64 | .n64 => 64

/-- i-types are signed (R192). -/
def ITy.signed : ITy → Bool
  | .i8 | .i16 | .i32 | .i64 => true
  | .n8 | .n16 | .n32 | .n64 => false

/-- Lane width in bits of a floating-point type (R32). -/
def FTy.width : FTy → Nat
  | .f32 | .f19 => 32
  | .f16 | .bf16 => 16
  | .f8e4 | .f8e5 => 8

def LTy.width : LTy → Nat
  | .int t => t.width
  | .flt t => t.width

/-- R59: a guard of p7 complemented is reserved. -/
def Hdr.wf (h : Hdr) : Bool := h.stamp < 4096 && h.pred < 8 && !(h.pred == 7 && h.pneg)

def EHdr.wf (h : EHdr) : Bool := h.stamp < 4096

/-- R60: the ranges of the source selectors. -/
def Src.wf : Src → Bool
  | .file n => n < 32
  | .k n => n < 16
  | .imm v => -32 ≤ v && v < 32
  | _ => true

/-- R62: v0 to v31. -/
def Dst.wf : Dst → Bool
  | .file n | .both n => n < 32
  | .latch => true

/-- MX formats (R43). -/
def Fmt.isMx : Fmt → Bool
  | .mx8e4 | .mx8e5 | .mx6e3 | .mx6e2 | .mx4 | .mxi8 => true
  | _ => false

/-- Block formats (R42). -/
def Fmt.isBlock : Fmt → Bool
  | .mx8e4 | .mx8e5 | .mx6e3 | .mx6e2 | .mx4 | .mxi8 | .qn4 | .bq4 | .bi4 | .bi8 | .tris => true
  | _ => false

/-- The formats of `quant` and `dequ` (R233). -/
def Fmt.isQuant : Fmt → Bool
  | .fp8e4 | .fp8e5 | .fp6e3 | .fp6e2 | .fp4 | .int8 | .nat8 | .int4 | .nat4 | .int2 | .bin1 | .tri5 => true
  | _ => false

/-- The pure-integer formats of R273. -/
def Fmt.isPureInt : Fmt → Bool
  | .int16 | .int8 | .nat8 | .int4 | .nat4 | .int2 | .bin1 | .tri5 => true
  | _ => false

/-- Largest K of one step (R271). -/
def Fmt.kLimit : Fmt → Nat
  | .fp32 => 6
  | .fp19 => 24
  | .bf16 | .fp16 | .int16 => 48
  | .fp8e4 | .fp8e5 | .int8 | .nat8 | .mx8e4 | .mx8e5 | .mxi8 | .bi8 => 96
  | .fp6e3 | .fp6e2 | .mx6e3 | .mx6e2 => 128
  | .fp4 | .int4 | .nat4 | .mx4 | .bq4 | .bi4 | .qn4 => 192
  | .int2 | .tri5 | .tris => 384
  | .bin1 => 768

def Fmt.isWide : Fmt → Bool
  | .fp32 | .fp19 => true
  | _ => false

def Fmt.isFpOrI16 : Fmt → Bool
  | .fp32 | .fp19 | .bf16 | .fp16 | .int16 => true
  | _ => false

/-- R273: the reserved combinations of a row, with both formats known; `mms` doubles the limit of A alone (R271). -/
def reservedRow (sparse : Bool) (a b : Fmt) (acc : Acc) (k : Nat) : Bool :=
  (acc != .f32 && !(a.isPureInt && b.isPureInt)) ||
  (a.isWide && !b.isFpOrI16) || (b.isWide && !a.isFpOrI16) ||
  k > min (if sparse then 2 * a.kLimit else a.kLimit) b.kLimit ||
  (sparse && (!(a == .int8 || a == .fp8e4 || a == .fp8e5 || a == .fp16 || a == .bf16) || k % 4 != 0))

def OpI1.wf (o : OpI1) : Bool := o.h.wf && o.d.wf && o.a.wf
def OpI2.wf (o : OpI2) : Bool := o.h.wf && o.d.wf && o.a.wf && o.b.wf
def OpI3.wf (o : OpI3) : Bool := o.h.wf && o.d.wf && o.a.wf && o.b.wf && o.c.wf
def OpF1.wf (o : OpF1) : Bool := o.h.wf && o.d.wf && o.a.wf
def OpF2.wf (o : OpF2) : Bool := o.h.wf && o.d.wf && o.a.wf && o.b.wf
def OpF3.wf (o : OpF3) : Bool := o.h.wf && o.d.wf && o.a.wf && o.b.wf && o.c.wf
def OpG1.wf (o : OpG1) : Bool := o.h.wf && o.d.wf && o.a.wf
def OpG2.wf (o : OpG2) : Bool := o.h.wf && o.d.wf && o.a.wf && o.b.wf
def OpP2.wf (o : OpP2) : Bool := o.h.wf && o.p < 7 && o.a < 8 && o.b < 8
def OpP1.wf (o : OpP1) : Bool := o.h.wf && o.p < 7 && o.a < 8
def OpNum.wf (o : OpNum) (lo hi : Nat) : Bool := o.h.wf && o.d.wf && o.a.wf && lo ≤ o.n && o.n ≤ hi
def OpN.wf (o : OpN) : Bool := o.h.wf && o.n < 256

/-- R254: TY 0 to 3 of the Drone instructions, and of `neg` and `abs` (R197). -/
def ITy.low (t : ITy) : Bool := t.signed

/-- The guard and hold bit a Drone header must carry (R256). -/
def Hdr.plain (h : Hdr) : Bool := h.pred == 7 && !h.pneg && !h.hold

/-- R71, R72, R301, R307: the limits every port entry meets. -/
def OpPort.wf (o : OpPort) : Bool :=
  o.h.wf && o.agen < 8 && o.bsel < 16 && o.size < 3 && o.pol < 256 && o.rm != .sr

def LTy.isInt : LTy → Bool
  | .int _ => true
  | .flt _ => false

def Scope.atomicOk : Scope → Bool
  | .co | .gp | .di | .pk | .sy => true
  | _ => false

def OpGen.wf (o : OpGen) : Bool := o.h.wf && o.ctr < 4 && o.port < 8

/-- R269, R270, R273: the static limits of a tile-step row. -/
def OpRow.wf (sparse : Bool) (o : OpRow) : Bool :=
  o.stamp < 4096 && 1 ≤ o.m && o.m ≤ 16 && 1 ≤ o.n && o.n ≤ 16 && 1 ≤ o.k && o.k ≤ 768 &&
  o.rm != .sr && (o.acc == .f32 || o.rm == .rne) &&
  o.as < 256 && -64 ≤ o.astep && o.astep < 64 && o.ax < 256 &&
  o.bs < 256 && -64 ≤ o.bstep && o.bstep < 64 && o.bx < 256 &&
  (match o.repq with
   | some q => q < 16 && o.rep == 1
   | none => 1 ≤ o.rep && o.rep ≤ 4096) &&
  (match o.afmt with
   | some f => sparse || f.isBlock || o.ax == 0
   | none => true) &&
  (match o.bfmt with
   | some f => f.isBlock || o.bx == 0
   | none => true)

/-- A static reserved combination of a row (R273): rejected with RESERVED_COMBO in place of ILLEGAL_ENTRY. -/
def OpRow.combo (sparse : Bool) (o : OpRow) : Bool :=
  match o.afmt, o.bfmt with
  | some a, some b => reservedRow sparse a b o.acc o.k
  | _, _ => false

/-- R281, R283: the limits of an `epc`. -/
def EpCfg.wf (c : EpCfg) : Bool :=
  c.rm != .sr && c.act < 6 && c.scm < 4 && c.bim < 3 && c.scale < 2 ^ 32 && c.pol < 256 &&
  !(c.ofmt == .tri5 || c.ofmt == .tris || c.ofmt == .qn4 || c.ofmt == .bi8)

def OpCopy.wf (o : OpCopy) : Bool :=
  o.h.wf && o.dq < 16 && o.sb < 256 && o.db < 256 && (!o.dop || o.db == 255)

/-- Sample size in bits of the Felt's SZ field (R293). -/
def szBits (sz : Nat) : Nat := 8 * 2 ^ sz

def OpFx.wf (o : OpFx) (wires : Nat) : Bool :=
  o.h.wf && o.bsel < 256 && o.oq < 16 && o.sz < 4 && 1 ≤ o.width && o.width ≤ 64 &&
  o.lo + o.width ≤ szBits o.sz && o.wire + o.width ≤ wires

/-- R79, R179: the numbers that are system registers. -/
def isSreg (n : Nat) : Bool :=
  n == 0 || (0x10 ≤ n && n ≤ 0x14) || n == 0x20 || n == 0x21 || (0x30 ≤ n && n ≤ 0x32) ||
  (0x100 ≤ n && n < 0x120) || n == 0x200 || n == 0x400 || n == 0x401 || (0x404 ≤ n && n ≤ 0x407) ||
  (0x410 ≤ n && n ≤ 0x417) || n == 0x420 || n == 0x421 || n == 0x430 || n == 0x431 || n == 0x440 ||
  n == 0x450 || (0x460 ≤ n && n ≤ 0x463) || (0x500 ≤ n && n < 0x600)

/-- The system registers a `sysw` may name: RGN.ORG, HWIN and BAR.LINK (R79, R179, R353). -/
def isSregRW (n : Nat) : Bool := n == 0x30 || (0x100 ≤ n && n < 0x120) || n == 0x450

/-- The well-formed instructions: what decoding may answer (R57). -/
def Instr.wf : Instr → Bool
  | .nop h => h.wf
  | .add o | .sub o | .adds o | .subs o | .min o | .max o | .avg o | .mul o | .mulh o => o.wf
  | .and o | .or o | .xor o | .andn o | .shl o | .shr o | .sha o | .rot o | .sel o => o.wf
  | .neg o | .abs o => o.wf && o.ty.low
  | .not o | .clz o | .pop o | .brev o | .lsum o | .lmax o => o.wf
  | .clamp o | .mad o | .sad o | .bfx o | .bfi o => o.wf
  | .dot4 o => o.wf && (o.ty == .i32 || o.ty == .n32)
  | .cmp o => o.h.wf && o.p < 7 && o.a.wf && o.b.wf
  | .test o => o.h.wf && o.p < 7 && o.a.wf && o.b.wf
  | .mov o => o.h.wf && o.d.wf && o.a.wf
  | .movk o => o.h.wf && o.k < 16 && o.a.wf
  | .li o => o.h.wf && o.d.wf && -268435456 ≤ o.imm && o.imm < 268435456
  | .tri5 o => o.h.wf && o.d.wf && o.a.wf && o.g < 5
  | .pack o => o.h.wf && o.d.wf && o.a.wf && o.b.wf
  | .unpk o => o.h.wf && o.d.wf && o.a.wf
  | .idx o => o.h.wf && o.d.wf
  | .fadd o | .fsub o | .fmul o | .fscl o | .scl o | .uscl o => o.wf
  | .fma o | .fms o | .fnma o => o.wf
  | .fdot2 o => o.wf && (o.ty == .f16 || o.ty == .bf16 || o.ty == .f8e4 || o.ty == .f8e5)
  | .fmin o | .fmax o => o.wf
  | .fabs o | .fneg o | .amax o => o.wf
  | .fcmp o => o.h.wf && o.p < 7 && o.a.wf && o.b.wf
  | .fclass o => o.h.wf && o.p < 7 && o.a.wf && o.mask < 256
  | .frnd o | .lsumf o | .fnExp2 o | .fnLog2 o | .fnRcp o | .fnRsq o | .fnSin o | .fnTanh o | .fnSig o | .fnGelu o => o.wf
  | .cvt o => o.h.wf && o.d.wf && o.a.wf && o.k < 16
  | .cvtsr o => o.h.wf && o.d.wf && o.a.wf && o.k < 16 && o.c.wf
  | .quant o | .dequ o => o.h.wf && o.d.wf && o.a.wf && o.k < 16 && o.fmt.isQuant
  | .mxsc o => o.h.wf && o.d.wf && o.a.wf && o.fmt.isMx
  | .rnd o => o.h.wf && o.d.wf
  | .rndn o => o.h.wf && o.d.wf && o.rm != .sr && (o.ty == .f32 || o.ty == .f16 || o.ty == .bf16 || o.ty == .f19)
  | .pand o | .por o | .pxor o => o.wf
  | .pnot o | .pmov o => o.wf
  | .bcast o | .lrot o => o.wf 0 (128 / o.ty.width - 1)
  | .shuf o => o.h.wf && o.d.wf && o.a.wf && o.b.wf
  | .drnCut o => o.h.wf && o.h.plain && o.d.wf
  | .drnLin o => o.h.wf && o.h.plain && o.d.wf && o.a.wf && o.b.wf && o.c.wf
  | .dseed o | .dget o | .dput o => o.wf 1 4 && o.ty.low
  | .dzero o => o.h.wf && o.d.wf && o.ty.low
  | .tokw o => o.wf && o.h.hold
  | .toke o => o.wf
  | .barArrive o => o.wf && !o.h.hold
  | .barWait o | .barAw o => o.wf && o.h.hold
  | .fence o => o.h.wf && o.h.hold
  | .fenceSc o => o.h.wf && o.h.hold && (o.scope == .pk || o.scope == .sy)
  | .brk o => o.wf && !o.h.hold
  | .ld o | .st o => o.wf && o.scope == .el
  | .ldg o | .stg o => o.wf && o.scope == .el && o.size == 1 && 16 ≤ o.ty.width
  | .aadd o | .amin o | .atomicMax o | .aand o | .aor o | .axor o | .axch o => o.wf && o.scope.atomicOk && o.ty.isInt
  | .acas o => o.wf && o.scope.atomicOk && o.ty.isInt && (o.size == 1 || o.size == 2)
  | .radd o | .rmin o | .rmax o => o.wf && o.scope.atomicOk
  | .cnt o => o.wf && 0 ≤ o.imm && o.imm < 4294967296
  | .step o => o.wf && -2147483648 ≤ o.imm && o.imm < 2147483648
  | .tokgo o | .tokend o => o.wf
  | .mmz h _ | .radv h | .epd h => h.wf
  | .mm o => o.wf false
  | .mms o => o.wf true
  | .epc h c => h.wf && c.wf
  | .epi h r c _ => h.wf && r < 16 && c < 8
  | .epw h b _ _ oq pitch => h.wf && b < 256 && oq < 16 && pitch < 2 ^ 24
  | .epb h s _ => h.wf && s < 256
  | .copy o | .copyc o => o.wf
  | .fill o vq => o.wf && o.sb == 0 && vq < 16
  | .prefetch o | .wld o => o.wf && o.db == 0 && !o.dop
  | .drain h m => h.wf && h.hold && m < 4
  | .fldt h ctx b oq cell n => h.wf && ctx < 4 && b < 256 && oq < 16 && 1 ≤ n && cell + n ≤ 4096
  | .fctx h ctx | .fclrCtx h ctx => h.wf && ctx < 4
  | .feval h cell n => h.wf && 1 ≤ n && cell + n ≤ 4096
  | .fxin o => o.wf 4096
  | .fxout o => o.wf 8192
  | .fpop h b oq w gs g pitch =>
      h.wf && b < 256 && oq < 16 && 1 ≤ gs && gs ≤ 4096 && 1 ≤ g && g ≤ 256 && w + g * gs ≤ 8192 && 2 * g ≤ pitch && pitch < 65536
  | .fpopLat h w gs g s0 => h.wf && 1 ≤ gs && gs ≤ 4096 && 1 ≤ g && g ≤ 8 && w + g * gs ≤ 8192 && s0 < 256
  | .fclr h w n => h.wf && 1 ≤ n && n ≤ 8192 && w + n ≤ 8192
  | .stepNop | .yield | .retire => true
  | .cfg rs bk im => rs < 4 && bk < 2 && im < 65536
  | .cfgx rs bk im r => rs < 4 && bk < 2 && im < 65536 && r < 128
  | .swap rs | .freeze rs | .thaw rs => rs < 4
  | .run rs q => rs < 4 && q < 16
  | .waitRegion n => n < 4
  | .waitFrame g | .waitBarrier g | .frame g | .mode g => g < 256
  | .brs q _ t l => q < 16 && t < 1024 && 1 ≤ l && l < 1024
  | .loop q e => q < 16 && e < 1024
  | .setq q v => q < 16 && -2097152 ≤ v && v < 2097152
  | .addq d a b => d < 16 && a < 16 && b < 16
  | .addqImm d a v => d < 16 && a < 16 && -65536 ≤ v && v < 65536
  | .cmpq _ d a b => d < 16 && a < 16 && b < 16
  | .ldq d a v | .stq d a v => d < 16 && a < 16 && -131072 ≤ v && v < 131072 && v % 8 == 0
  | .tick q | .spawn q => q < 16
  | .trap c | .stepBrk c | .pub c => c < 65536
  | .sysr q n => q < 16 && isSreg n
  | .sysw q n => q < 16 && isSregRW n
  | .claim s n | .free s n => s < 256 && 1 ≤ n && n ≤ 256 && s + n ≤ 256
  | .barInit b n => b < 256 && 1 ≤ n && n < 4096
  | .stepBarArrive b | .stepBarWait b => b < 256
  | .stepFence _ => true
  | .stepFenceSc sc => sc == .pk || sc == .sy
  -- events carry no encoding: the lane, core and die they name are in range
  | .resultLand l | .intervalWrap l | .regionEnd l | .entryRetry l | .blockRestart l | .killClear l => l < 256
  | .elasticResume l | .elasticStop l _ | .budgetExhausted l | .elasticSave l | .overrun l | .fallbackOverrun l => l < 256
  | .brkResume l => l < 256
  | .bankReady l b => l < 256 && b < 2
  | .configPrefetch l _ | .blockStart l _ | .elasticRelease l _ => l < 256
  | .memoryReply _ | .frameWireEvent _ _ | .flitDelivery _ _ | .barrierRelease _ | .faultDecision _ => true
  | .faceFlip d _ => d < 4
  | .hotThreshold c p _ => c < 64 && p < 8
  | .matrixStepLand c | .copyDone c | .feltLoadDone c => c < 64
  | .writePerform c p | .atomicResend c p => c < 64 && p < 8
  | .barrierArrivalLand c _ => c < 64
  | .pageWalk _ va _ => va < 2 ^ 48
  | .weightStoreRefresh d g => d < 4 && g < 8
  | .periodStart | .modeChange | .tableSetActivation => true
  | .launchPacket b => b.length == 576
  | .admission _ | .pretranslationTimeout _ | .workEnd _ | .commandCompletion _ => true
  | .aset s _ w _ ws => s < 20 && w < 65536 && ws.length == 8
  | .pin s _ w _ _ _ | .unpin s _ w _ _ _ | .inval s _ w _ _ _ _ => s < 20 && w < 65536
  | .reside s _ _ _ _ | .evict s _ _ _ | .modereq s _ _ | .endwork s _ _ | .resync s _ _ => s < 20
  | .ctrread s _ d c ls _ _ | .ctrclr s _ d c ls _ _ => s < 20 && d < 256 && c < 256 && ls < 256
  | .queueStagedWrite q | .queueConfigWrite q _ _ => q < 3
  | .hotThreshWrite d _ | .powerStateChange d | .d2FieldRestart d | .powerStateReached d | .debugRequest d _ => d < 4
  | .registerWrite _ _ => true
  | .pwrgood | .mapOut | .tamper | .lifecycleFuseBlow | .pwrgoodFall | .holdover => true
  | .containerVerify _ _ | .thermalRead _ | .debugToken _ | .sync _ | .announce _ | .recoveryImage _ _ | .peerDelay _ _ => true
  | .powerStateRequest s d _ => s < 16 && d < 4
  | .functionLevelReset f | .getVersion f | .getCapabilities f | .negotiateAlgorithms f _ | .getDigests f | .getCertificate f => f < 4
  | .challenge f _ | .getMeasurements f _ | .keyExchange f _ | .finish f _ | .endSession f | .vendorDefinedRequest f _ => f < 4
  | .ideKm f s _ => f < 4 && s < 5
  | .hostAccess f _ | .tdispRequest f _ => f < 4
  | .dmaWrite e _ _ _ => e < 8
  | .reedCoreAccess c _ => c < 16

end Sys2Proof
end

