-- ==== Sys2Proof/Decode.lean ====
section
/-! DEFINITION. Decoding of the five kinds of executable entry (04_encoding.md, R56 to R79), rejecting by name with the
bit position R57 asks for, and after it the encoder, written from the same tables. A rejection names the first
offending field in the order of the layout tables, from the top of the word down, the opcode before any other. -/

namespace Sys2Proof

/-- Why an entry or step is rejected (R57, R273); the number is the bit position of the offending field. -/
inductive Reject
  /-- The opcode is not listed in the maps of R67 to R78. -/
  | opcode
  /-- A reserved value, or a nonzero reserved bit, in a field. -/
  | reserved (bit : Nat)
  /-- An operand breaks the instruction's shape (R66). -/
  | shape (bit : Nat)
  /-- A value lies outside a field's stated limits. -/
  | limit (bit : Nat)
  /-- A reserved combination of a tile-step row (R273): RESERVED_COMBO. -/
  | combo
  deriving DecidableEq, Repr

/-- What a decoder answers. -/
abbrev Dec (α : Type) := Except Reject α

/-- Bits [lo + n - 1 : lo] of a word (R1). -/
def fld (w lo n : Nat) : Nat := w / 2 ^ lo % 2 ^ n

/-- Bit `lo` of a word. -/
def bit (w lo : Nat) : Bool := fld w lo 1 == 1

/-- The value of the low `n` bits of `v` read in two's complement. -/
def toSigned (n v : Nat) : Int := if v < 2 ^ (n - 1) then v else (v : Int) - 2 ^ n

/-- The low `n` bits of an integer. -/
def ofSigned (n : Nat) (v : Int) : Nat := (v % (2 ^ n : Int)).toNat

def b2n (b : Bool) : Nat := if b then 1 else 0

/-- Reject with `r` unless `c` holds. -/
def need (r : Reject) (c : Bool) : Dec Unit := if c then .ok () else .error r

/-- A reserved field must hold zero (R2). -/
def rsv (w lo n : Nat) : Dec Unit := need (.reserved lo) (fld w lo n == 0)

/-- A field the shape leaves unused must hold zero (R60, R62, R66). -/
def unused (w lo n : Nat) : Dec Unit := need (.shape lo) (fld w lo n == 0)

/-- Accept `i` when it is well formed; `p` is the position of the field whose limit is still open. -/
def accept (p : Nat) (i : Instr) : Dec Instr := if i.wf then .ok i else .error (.limit p)

/-- R63, the integer coding. -/
def ITy.code : ITy → Nat
  | .i8 => 0
  | .i16 => 1
  | .i32 => 2
  | .i64 => 3
  | .n8 => 4
  | .n16 => 5
  | .n32 => 6
  | .n64 => 7

/-- R63, the integer coding. -/
def ITy.ofCode (p : Nat) : Nat → Dec ITy
  | 0 => .ok .i8
  | 1 => .ok .i16
  | 2 => .ok .i32
  | 3 => .ok .i64
  | 4 => .ok .n8
  | 5 => .ok .n16
  | 6 => .ok .n32
  | 7 => .ok .n64
  | _ => .error (.reserved p)

/-- R63, the floating-point coding. -/
def FTy.code : FTy → Nat
  | .f32 => 0
  | .f16 => 1
  | .bf16 => 2
  | .f19 => 3
  | .f8e4 => 4
  | .f8e5 => 5

/-- R63, the floating-point coding. -/
def FTy.ofCode (p : Nat) : Nat → Dec FTy
  | 0 => .ok .f32
  | 1 => .ok .f16
  | 2 => .ok .bf16
  | 3 => .ok .f19
  | 4 => .ok .f8e4
  | 5 => .ok .f8e5
  | _ => .error (.reserved p)

/-- R45. -/
def RMode.code : RMode → Nat
  | .rne => 0
  | .rtz => 1
  | .rup => 2
  | .rdn => 3
  | .rna => 4
  | .sr => 5

/-- R45. -/
def RMode.ofCode (p : Nat) : Nat → Dec RMode
  | 0 => .ok .rne
  | 1 => .ok .rtz
  | 2 => .ok .rup
  | 3 => .ok .rdn
  | 4 => .ok .rna
  | 5 => .ok .sr
  | _ => .error (.reserved p)

/-- R65. -/
def TagExp.code : TagExp → Nat
  | .any => 0
  | .unscaled => 1
  | .scaled => 2

/-- R65. -/
def TagExp.ofCode (p : Nat) : Nat → Dec TagExp
  | 0 => .ok .any
  | 1 => .ok .unscaled
  | 2 => .ok .scaled
  | _ => .error (.reserved p)

/-- R64, CC of an integer compare. -/
def Cond.code : Cond → Nat
  | .eq => 0
  | .ne => 1
  | .lt => 2
  | .le => 3
  | .gt => 4
  | .ge => 5

/-- R64, CC of an integer compare. -/
def Cond.ofCode (p : Nat) : Nat → Dec Cond
  | 0 => .ok .eq
  | 1 => .ok .ne
  | 2 => .ok .lt
  | 3 => .ok .le
  | 4 => .ok .gt
  | 5 => .ok .ge
  | _ => .error (.reserved p)

/-- R64, CC of `fcmp`. -/
def FCond.code : FCond → Nat
  | .eq => 0
  | .ne => 1
  | .lt => 2
  | .le => 3
  | .gt => 4
  | .ge => 5
  | .unordered => 6
  | .ordered => 7

/-- R64, CC of `fcmp`. -/
def FCond.ofCode (p : Nat) : Nat → Dec FCond
  | 0 => .ok .eq
  | 1 => .ok .ne
  | 2 => .ok .lt
  | 3 => .ok .le
  | 4 => .ok .gt
  | 5 => .ok .ge
  | 6 => .ok .unordered
  | 7 => .ok .ordered
  | _ => .error (.reserved p)

/-- R78, CC of `cmpq`. -/
def QCond.code : QCond → Nat
  | .eq => 0
  | .ne => 1
  | .lt => 2
  | .ge => 3
  | .ltu => 4
  | .geu => 5

/-- R78, CC of `cmpq`. -/
def QCond.ofCode (p : Nat) : Nat → Dec QCond
  | 0 => .ok .eq
  | 1 => .ok .ne
  | 2 => .ok .lt
  | 3 => .ok .ge
  | 4 => .ok .ltu
  | 5 => .ok .geu
  | _ => .error (.reserved p)

/-- R78, CND of `brs`. -/
def BCond.code : BCond → Nat
  | .z => 0
  | .nz => 1
  | .neg => 2
  | .nneg => 3

/-- R78, CND of `brs`. -/
def BCond.ofCode (p : Nat) : Nat → Dec BCond
  | 0 => .ok .z
  | 1 => .ok .nz
  | 2 => .ok .neg
  | 3 => .ok .nneg
  | _ => .error (.reserved p)

/-- R69. -/
def Scope.code : Scope → Nat
  | .el => 0
  | .rg => 1
  | .co => 2
  | .gp => 3
  | .di => 4
  | .pk => 5
  | .sy => 6
  | .im => 7

/-- R69. -/
def Scope.ofCode (p : Nat) : Nat → Dec Scope
  | 0 => .ok .el
  | 1 => .ok .rg
  | 2 => .ok .co
  | 3 => .ok .gp
  | 4 => .ok .di
  | 5 => .ok .pk
  | 6 => .ok .sy
  | 7 => .ok .im
  | _ => .error (.reserved p)

/-- R31. -/
def Fmt.code : Fmt → Nat
  | .fp32 => 0
  | .fp19 => 1
  | .bf16 => 2
  | .fp16 => 3
  | .fp8e4 => 4
  | .fp8e5 => 5
  | .fp6e3 => 6
  | .fp6e2 => 7
  | .fp4 => 8
  | .int16 => 9
  | .int8 => 10
  | .nat8 => 11
  | .int4 => 12
  | .nat4 => 13
  | .int2 => 14
  | .bin1 => 15
  | .tri5 => 16
  | .mx8e4 => 17
  | .mx8e5 => 18
  | .mx6e3 => 19
  | .mx6e2 => 20
  | .mx4 => 21
  | .mxi8 => 22
  | .qn4 => 23
  | .bq4 => 24
  | .bi4 => 25
  | .bi8 => 26
  | .tris => 27

/-- R31. -/
def Fmt.ofCode (p : Nat) : Nat → Dec Fmt
  | 0 => .ok .fp32
  | 1 => .ok .fp19
  | 2 => .ok .bf16
  | 3 => .ok .fp16
  | 4 => .ok .fp8e4
  | 5 => .ok .fp8e5
  | 6 => .ok .fp6e3
  | 7 => .ok .fp6e2
  | 8 => .ok .fp4
  | 9 => .ok .int16
  | 10 => .ok .int8
  | 11 => .ok .nat8
  | 12 => .ok .int4
  | 13 => .ok .nat4
  | 14 => .ok .int2
  | 15 => .ok .bin1
  | 16 => .ok .tri5
  | 17 => .ok .mx8e4
  | 18 => .ok .mx8e5
  | 19 => .ok .mx6e3
  | 20 => .ok .mx6e2
  | 21 => .ok .mx4
  | 22 => .ok .mxi8
  | 23 => .ok .qn4
  | 24 => .ok .bq4
  | 25 => .ok .bi4
  | 26 => .ok .bi8
  | 27 => .ok .tris
  | _ => .error (.reserved p)

/-- R215. -/
def PFmt.code : PFmt → Nat
  | .int4 => 12
  | .nat4 => 13
  | .int2 => 14
  | .bin1 => 15

/-- R215. -/
def PFmt.ofCode (p : Nat) : Nat → Dec PFmt
  | 12 => .ok .int4
  | 13 => .ok .nat4
  | 14 => .ok .int2
  | 15 => .ok .bin1
  | _ => .error (.limit p)

/-- R269. -/
def Acc.code : Acc → Nat
  | .f32 => 0
  | .w32 => 1
  | .s32 => 2

/-- R269. -/
def Acc.ofCode (p : Nat) : Nat → Dec Acc
  | 0 => .ok .f32
  | 1 => .ok .w32
  | 2 => .ok .s32
  | _ => .error (.reserved p)

/-- The TY a packed format goes with (R215). -/
def PFmt.tyCode : PFmt → Nat
  | .nat4 => 4
  | .int4 | .int2 | .bin1 => 0

/-- R71: TY4 of a port entry. -/
def LTy.code4 : LTy → Nat
  | .int t => t.code
  | .flt t => 8 + t.code

def LTy.ofCode4 (p c : Nat) : Dec LTy :=
  if c < 8 then (ITy.ofCode p c).map .int else (FTy.ofCode p (c - 8)).map .flt

/-- R63, R64: a type in the coding a DSTI or SRCI bit selects. -/
def LTy.code : LTy → Nat
  | .int t => t.code
  | .flt t => t.code

def LTy.isI : LTy → Bool
  | .int _ => true
  | .flt _ => false

def LTy.ofCode (p : Nat) (isI : Bool) (c : Nat) : Dec LTy :=
  if isI then (ITy.ofCode p c).map .int else (FTy.ofCode p c).map .flt

/-- R60: the source selector. -/
def Src.code : Src → Nat
  | .file n => n
  | .L => 0x20
  | .N => 0x21
  | .E => 0x22
  | .S => 0x23
  | .W => 0x24
  | .k n => 0x30 + n
  | .imm v => 0x40 + ofSigned 6 v

def Src.ofCode (p c : Nat) : Dec Src :=
  if c < 0x20 then .ok (.file c)
  else if c < 0x40 then
    if 0x30 ≤ c then .ok (.k (c - 0x30))
    else match c with
      | 0x20 => .ok .L
      | 0x21 => .ok .N
      | 0x22 => .ok .E
      | 0x23 => .ok .S
      | 0x24 => .ok .W
      | _ => .error (.reserved p)
  else .ok (.imm (toSigned 6 (c - 0x40)))

/-- R62: the destination selector of shape D. -/
def Dst.code : Dst → Nat
  | .file n => n
  | .latch => 0x20
  | .both n => 0x40 + n

def Dst.ofCode (c : Nat) : Dec Dst :=
  if c < 0x20 then .ok (.file c)
  else if c < 0x40 then if c == 0x20 then .ok .latch else .error (.reserved 29)
  else if c < 0x60 then .ok (.both (c - 0x40))
  else .error (.shape 34)

/-- R58, R59: the header of an element, port or generator entry. -/
def decHdr (w : Nat) : Dec Hdr := do
  need (.reserved 47) (!(fld w 48 3 == 7 && bit w 47))
  return { stamp := fld w 52 12, hold := bit w 51, pred := fld w 48 3, pneg := bit w 47 }

def decTyI (w : Nat) : Dec ITy := ITy.ofCode 36 (fld w 36 3)
def decTyF (w : Nat) : Dec FTy := FTy.ofCode 36 (fld w 36 3)
def decDst (w : Nat) : Dec Dst := Dst.ofCode (fld w 29 7)
def decA (w : Nat) : Dec Src := Src.ofCode 22 (fld w 22 7)
def decB (w : Nat) : Dec Src := Src.ofCode 15 (fld w 15 7)
def decC (w : Nat) : Dec Src := Src.ofCode 8 (fld w 8 7)

/-- R62: a predicate destination, p0 to p6. -/
def decP (w : Nat) : Dec Nat := do
  need (.shape 34) (fld w 34 2 == 3)
  need (.reserved 29) (fld w 29 5 < 7)
  return fld w 29 5

/-- R66: shape letter K, a constant register k0 to k15. -/
def decK (w : Nat) : Dec Nat := do
  need (.shape 15) (fld w 19 3 == 3)
  return fld w 15 4

/-- R64: layout I. -/
def decModI (w : Nat) : Dec TagExp := do
  rsv w 5 3
  let t ← TagExp.ofCode 3 (fld w 3 2)
  rsv w 0 3
  return t

/-- R64: layout F. -/
def decModF (w : Nat) : Dec (RMode × TagExp) := do
  let r ← RMode.ofCode 5 (fld w 5 3)
  let t ← TagExp.ofCode 3 (fld w 3 2)
  rsv w 0 3
  return (r, t)

def decI1 (mk : OpI1 → Instr) (w : Nat) : Dec Instr := do
  let h ← decHdr w
  let ty ← decTyI w
  let d ← decDst w
  let a ← decA w
  unused w 15 7
  unused w 8 7
  let tag ← decModI w
  accept 36 (mk { h, ty, d, a, tag })

def decI2 (mk : OpI2 → Instr) (w : Nat) : Dec Instr := do
  let h ← decHdr w
  let ty ← decTyI w
  let d ← decDst w
  let a ← decA w
  let b ← decB w
  unused w 8 7
  let tag ← decModI w
  accept 36 (mk { h, ty, d, a, b, tag })

def decI3 (mk : OpI3 → Instr) (w : Nat) : Dec Instr := do
  let h ← decHdr w
  let ty ← decTyI w
  let d ← decDst w
  let a ← decA w
  let b ← decB w
  let c ← decC w
  let tag ← decModI w
  accept 36 (mk { h, ty, d, a, b, c, tag })

def decCmp (w : Nat) : Dec Instr := do
  let h ← decHdr w
  let ty ← decTyI w
  let p ← decP w
  let a ← decA w
  let b ← decB w
  unused w 8 7
  rsv w 5 3
  let tag ← TagExp.ofCode 3 (fld w 3 2)
  let cc ← Cond.ofCode 0 (fld w 0 3)
  accept 36 (.cmp { h, ty, p, a, b, tag, cc })

def decTest (w : Nat) : Dec Instr := do
  let h ← decHdr w
  let ty ← decTyI w
  let p ← decP w
  let a ← decA w
  let b ← decB w
  unused w 8 7
  let tag ← decModI w
  accept 36 (.test { h, ty, p, a, b, tag })

def decMov (w : Nat) : Dec Instr := do
  let h ← decHdr w
  let ty ← decTyI w
  let d ← decDst w
  let a ← decA w
  unused w 15 7
  unused w 8 7
  rsv w 0 8
  accept 36 (.mov { h, ty, d, a })

def decMovk (w : Nat) : Dec Instr := do
  let h ← decHdr w
  let ty ← decTyI w
  unused w 29 7
  let a ← decA w
  unused w 15 7
  unused w 8 7
  accept 0 (.movk { h, ty, k := fld w 0 8, a })

def decLi (w : Nat) : Dec Instr := do
  let h ← decHdr w
  let ty ← decTyI w
  let d ← decDst w
  accept 36 (.li { h, ty, d, imm := toSigned 29 (fld w 0 29) })

def decTri (w : Nat) : Dec Instr := do
  let h ← decHdr w
  need (.limit 36) (fld w 36 3 == 0)
  let d ← decDst w
  let a ← decA w
  unused w 15 7
  unused w 8 7
  accept 0 (.tri5 { h, d, a, g := fld w 0 8 })

def decPack (w : Nat) : Dec Instr := do
  let h ← decHdr w
  let d ← decDst w
  let a ← decA w
  let b ← decB w
  unused w 8 7
  need (.limit 5) (fld w 5 3 == 0)
  let fmt ← PFmt.ofCode 0 (fld w 0 5)
  need (.limit 36) (fld w 36 3 == fmt.tyCode)
  accept 0 (.pack { h, fmt, d, a, b })

def decUnpk (w : Nat) : Dec Instr := do
  let h ← decHdr w
  let d ← decDst w
  let a ← decA w
  unused w 15 7
  unused w 8 7
  need (.limit 5) (fld w 5 3 == 0)
  let fmt ← PFmt.ofCode 0 (fld w 0 5)
  need (.limit 36) (fld w 36 3 == fmt.tyCode)
  accept 0 (.unpk { h, fmt, d, a })

/-- Shape D alone, MOD zero. -/
def decD (mk : OpD → Instr) (w : Nat) : Dec Instr := do
  let h ← decHdr w
  let ty ← decTyI w
  let d ← decDst w
  unused w 22 7
  unused w 15 7
  unused w 8 7
  rsv w 0 8
  accept 36 (mk { h, ty, d })

def decF1 (mk : OpF1 → Instr) (w : Nat) : Dec Instr := do
  let h ← decHdr w
  let ty ← decTyF w
  let d ← decDst w
  let a ← decA w
  unused w 15 7
  unused w 8 7
  let (rm, tag) ← decModF w
  accept 36 (mk { h, ty, d, a, rm, tag })

def decF2 (mk : OpF2 → Instr) (w : Nat) : Dec Instr := do
  let h ← decHdr w
  let ty ← decTyF w
  let d ← decDst w
  let a ← decA w
  let b ← decB w
  unused w 8 7
  let (rm, tag) ← decModF w
  accept 36 (mk { h, ty, d, a, b, rm, tag })

def decF3 (mk : OpF3 → Instr) (w : Nat) : Dec Instr := do
  let h ← decHdr w
  let ty ← decTyF w
  let d ← decDst w
  let a ← decA w
  let b ← decB w
  let c ← decC w
  let (rm, tag) ← decModF w
  accept 36 (mk { h, ty, d, a, b, c, rm, tag })

def decG1 (mk : OpG1 → Instr) (w : Nat) : Dec Instr := do
  let h ← decHdr w
  let ty ← decTyF w
  let d ← decDst w
  let a ← decA w
  unused w 15 7
  unused w 8 7
  let tag ← decModI w
  accept 36 (mk { h, ty, d, a, tag })

def decG2 (mk : OpG2 → Instr) (w : Nat) : Dec Instr := do
  let h ← decHdr w
  let ty ← decTyF w
  let d ← decDst w
  let a ← decA w
  let b ← decB w
  unused w 8 7
  need (.limit 5) (fld w 5 3 == 0)
  let tag ← TagExp.ofCode 3 (fld w 3 2)
  rsv w 0 3
  accept 36 (mk { h, ty, d, a, b, tag })

def decFcmp (w : Nat) : Dec Instr := do
  let h ← decHdr w
  let ty ← decTyF w
  let p ← decP w
  let a ← decA w
  let b ← decB w
  unused w 8 7
  rsv w 5 3
  let tag ← TagExp.ofCode 3 (fld w 3 2)
  let cc ← FCond.ofCode 0 (fld w 0 3)
  accept 36 (.fcmp { h, ty, p, a, b, tag, cc })

def decFclass (w : Nat) : Dec Instr := do
  let h ← decHdr w
  let ty ← decTyF w
  let p ← decP w
  let a ← decA w
  unused w 15 7
  unused w 8 7
  accept 0 (.fclass { h, ty, p, a, mask := fld w 0 8 })

/-- `cvt`: layout C (R64, R231). -/
def decCvt (w : Nat) : Dec Instr := do
  let h ← decHdr w
  let td ← LTy.ofCode 36 (bit w 4) (fld w 36 3)
  let d ← decDst w
  let a ← decA w
  let k ← decK w
  unused w 8 7
  let rm ← RMode.ofCode 5 (fld w 5 3)
  let ts ← LTy.ofCode 0 (bit w 3) (fld w 0 3)
  accept 36 (.cvt { h, td, ts, d, a, k, rm })

def decCvtsr (w : Nat) : Dec Instr := do
  let h ← decHdr w
  let td ← LTy.ofCode 36 (bit w 4) (fld w 36 3)
  let d ← decDst w
  let a ← decA w
  let k ← decK w
  let c ← decC w
  need (.limit 5) (fld w 5 3 == 0)
  let ts ← LTy.ofCode 0 (bit w 3) (fld w 0 3)
  accept 36 (.cvtsr { h, td, ts, d, a, k, c })

def decQuant (mk : OpQuant → Instr) (w : Nat) : Dec Instr := do
  let h ← decHdr w
  let ty ← decTyF w
  let d ← decDst w
  let a ← decA w
  let k ← decK w
  unused w 8 7
  let rm ← RMode.ofCode 5 (fld w 5 3)
  let fmt ← Fmt.ofCode 0 (fld w 0 5)
  accept 0 (mk { h, ty, d, a, k, rm, fmt })

def decMxsc (w : Nat) : Dec Instr := do
  let h ← decHdr w
  let ty ← decTyF w
  let d ← decDst w
  let a ← decA w
  unused w 15 7
  unused w 8 7
  need (.limit 5) (fld w 5 3 == 0)
  let fmt ← Fmt.ofCode 0 (fld w 0 5)
  accept 0 (.mxsc { h, ty, d, a, fmt })

def decRnd (w : Nat) : Dec Instr := do
  let h ← decHdr w
  need (.limit 36) (fld w 36 3 == 0)
  let d ← decDst w
  unused w 22 7
  unused w 15 7
  unused w 8 7
  rsv w 0 8
  accept 29 (.rnd { h, d })

def decRndn (w : Nat) : Dec Instr := do
  let h ← decHdr w
  let ty ← decTyF w
  let d ← decDst w
  unused w 22 7
  unused w 15 7
  unused w 8 7
  let (rm, tag) ← decModF w
  accept 36 (.rndn { h, ty, d, rm, tag })

/-- A predicate source of shape letter a or b: bits [2:0] of the selector, bits [6:3] zero (R66). -/
def decPa (w : Nat) : Dec Nat := do
  unused w 25 4
  return fld w 22 3

def decPb (w : Nat) : Dec Nat := do
  unused w 18 4
  return fld w 15 3

def decP2 (mk : OpP2 → Instr) (w : Nat) : Dec Instr := do
  let h ← decHdr w
  need (.limit 36) (fld w 36 3 == 0)
  let p ← decP w
  let a ← decPa w
  let b ← decPb w
  unused w 8 7
  rsv w 0 8
  accept 29 (mk { h, p, a, b })

def decP1 (mk : OpP1 → Instr) (w : Nat) : Dec Instr := do
  let h ← decHdr w
  need (.limit 36) (fld w 36 3 == 0)
  let p ← decP w
  let a ← decPa w
  unused w 15 7
  unused w 8 7
  rsv w 0 8
  accept 29 (mk { h, p, a })

/-- Shape D A with layout N. -/
def decNum (mk : OpNum → Instr) (w : Nat) : Dec Instr := do
  let h ← decHdr w
  let ty ← decTyI w
  let d ← decDst w
  let a ← decA w
  unused w 15 7
  unused w 8 7
  accept 0 (mk { h, ty, d, a, n := fld w 0 8 })

def decShuf (w : Nat) : Dec Instr := do
  let h ← decHdr w
  let ty ← decTyI w
  let d ← decDst w
  let a ← decA w
  let b ← decB w
  unused w 8 7
  rsv w 0 8
  accept 36 (.shuf { h, ty, d, a, b })

/-- `drn`: KIND in MOD[7:6] (R254, R256). -/
def decDrn (w : Nat) : Dec Instr := do
  let h ← decHdr w
  let ty ← decTyF w
  let d ← decDst w
  need (.reserved 6) (fld w 6 2 < 2)
  rsv w 0 6
  if fld w 6 2 == 0 then do
    unused w 22 7
    unused w 15 7
    unused w 8 7
    accept 47 (.drnCut { h, ty, d })
  else do
    let a ← decA w
    let b ← decB w
    let c ← decC w
    accept 47 (.drnLin { h, ty, d, a, b, c })

/-- A header and a number, every operand field zero (R66, R218, R348, R390). -/
def decN (mk : OpN → Instr) (w : Nat) : Dec Instr := do
  let h ← decHdr w
  unused w 8 31
  accept 51 (mk { h, n := fld w 0 8 })

def decFence (mk : OpFence → Instr) (w : Nat) : Dec Instr := do
  let h ← decHdr w
  unused w 8 31
  need (.limit 0) (fld w 3 5 == 0)
  let scope ← Scope.ofCode 0 (fld w 0 3)
  accept 51 (mk { h, scope })

def decNop (w : Nat) : Dec Instr := do
  let h ← decHdr w
  unused w 8 31
  rsv w 0 8
  accept 47 (.nop h)

/-- R67: class 00, integer and logic. -/
def elementMap00 : List (Nat × (Nat → Dec Instr)) :=
  [(0x00, decNop),
   (0x01, decI2 .add),
   (0x02, decI2 .sub),
   (0x03, decI2 .adds),
   (0x04, decI2 .subs),
   (0x05, decI1 .neg),
   (0x06, decI1 .abs),
   (0x07, decI2 .min),
   (0x08, decI2 .max),
   (0x09, decI2 .avg),
   (0x0A, decI3 .clamp),
   (0x0B, decI2 .mul),
   (0x0C, decI2 .mulh),
   (0x0D, decI3 .mad),
   (0x0E, decI3 .sad),
   (0x0F, decI3 .dot4),
   (0x10, decI2 .and),
   (0x11, decI2 .or),
   (0x12, decI2 .xor),
   (0x13, decI2 .andn),
   (0x14, decI1 .not),
   (0x15, decI2 .shl),
   (0x16, decI2 .shr),
   (0x17, decI2 .sha),
   (0x18, decI2 .rot),
   (0x19, decI1 .clz),
   (0x1A, decI1 .pop),
   (0x1B, decI1 .brev),
   (0x1C, decI3 .bfx),
   (0x1D, decI3 .bfi),
   (0x20, decCmp),
   (0x21, decTest),
   (0x22, decI2 .sel),
   (0x28, decMov),
   (0x29, decMovk),
   (0x2A, decLi),
   (0x30, decTri),
   (0x31, decPack),
   (0x32, decUnpk),
   (0x33, decD .idx)]

/-- R68: class 01, floating point, conversion, functions and scales. -/
def elementMap01 : List (Nat × (Nat → Dec Instr)) :=
  [(0x40, decF2 .fadd),
   (0x41, decF2 .fsub),
   (0x42, decF2 .fmul),
   (0x43, decF3 .fma),
   (0x44, decF3 .fms),
   (0x45, decF3 .fnma),
   (0x46, decG2 .fmin),
   (0x47, decG2 .fmax),
   (0x48, decG1 .fabs),
   (0x49, decG1 .fneg),
   (0x4A, decFcmp),
   (0x4B, decFclass),
   (0x4C, decF1 .frnd),
   (0x4D, decF2 .fscl),
   (0x4E, decF3 .fdot2),
   (0x4F, decF1 .lsumf),
   (0x50, decCvt),
   (0x51, decCvtsr),
   (0x52, decQuant .quant),
   (0x53, decQuant .dequ),
   (0x54, decF2 .scl),
   (0x55, decF2 .uscl),
   (0x56, decG1 .amax),
   (0x57, decMxsc),
   (0x58, decRnd),
   (0x59, decRndn),
   (0x60, decF1 .fnExp2),
   (0x61, decF1 .fnLog2),
   (0x62, decF1 .fnRcp),
   (0x63, decF1 .fnRsq),
   (0x64, decF1 .fnSin),
   (0x65, decF1 .fnTanh),
   (0x66, decF1 .fnSig),
   (0x67, decF1 .fnGelu)]

/-- R69: class 10, lanes, predicates, the Drone, tokens and synchronisation. -/
def elementMap10 : List (Nat × (Nat → Dec Instr)) :=
  [(0x80, decP2 .pand),
   (0x81, decP2 .por),
   (0x82, decP2 .pxor),
   (0x83, decP1 .pnot),
   (0x84, decP1 .pmov),
   (0x88, decNum .bcast),
   (0x89, decShuf),
   (0x8A, decNum .lrot),
   (0x8B, decI1 .lsum),
   (0x8C, decI1 .lmax),
   (0x90, decDrn),
   (0x91, decNum .dseed),
   (0x92, decNum .dget),
   (0x93, decNum .dput),
   (0x94, decD .dzero),
   (0x98, decN .tokw),
   (0x99, decN .toke),
   (0xA0, decN .barArrive),
   (0xA1, decN .barWait),
   (0xA2, decN .barAw),
   (0xA8, decFence .fence),
   (0xA9, decFence .fenceSc),
   (0xBF, decN .brk)]

/-- Decode with the row of `m` that carries the opcode; an opcode not listed is rejected (R57, R70). -/
def viaMap (m : List (Nat × (Nat → Dec Instr))) (opc w : Nat) : Dec Instr :=
  match m.lookup opc with
  | some f => f w
  | none => .error .opcode

/-- R58, R67 to R70: decode an element entry; OPC[7:6] selects the class. -/
def decodeElement (w : Nat) : Dec Instr :=
  let opc := fld w 39 8
  match fld w 45 2 with
  | 0 => viaMap elementMap00 opc w
  | 1 => viaMap elementMap01 opc w
  | 2 => viaMap elementMap10 opc w
  | _ => .error .opcode

/-- R71: the fields of a port entry. -/
def decPort (mk : OpPort → Instr) (w : Nat) : Dec Instr := do
  let h ← decHdr w
  let ty ← LTy.ofCode4 35 (fld w 35 4)
  let scope ← Scope.ofCode 25 (fld w 25 3)
  need (.reserved 23) (fld w 23 2 < 3)
  let rm ← RMode.ofCode 11 (fld w 11 3)
  rsv w 0 11
  accept 25 (mk { h, ty, agen := fld w 32 3, bsel := fld w 28 4, scope, size := fld w 23 2,
                  pdef := bit w 22, pol := fld w 14 8, rm })

/-- R72: the port opcodes. -/
def portMap : List (Nat × (Nat → Dec Instr)) :=
  [(0x01, decPort .ld), (0x02, decPort .st), (0x03, decPort .ldg), (0x04, decPort .stg),
   (0x10, decPort .aadd), (0x11, decPort .amin), (0x12, decPort .atomicMax), (0x13, decPort .aand),
   (0x14, decPort .aor), (0x15, decPort .axor), (0x16, decPort .axch), (0x17, decPort .acas),
   (0x18, decPort .radd), (0x19, decPort .rmin), (0x1A, decPort .rmax)]

def decodePort (w : Nat) : Dec Instr := viaMap portMap (fld w 39 8) w

/-- R73: `cnt` and `step`. -/
def decGen (mk : OpGen → Instr) (signed : Bool) (w : Nat) : Dec Instr := do
  let h ← decHdr w
  rsv w 32 2
  accept 0 (mk { h, ctr := fld w 37 2, port := fld w 34 3,
                 imm := if signed then toSigned 32 (fld w 0 32) else (fld w 0 32 : Int) })

/-- R74: `tokgo` and `tokend`; CTR and IMM[31:8] are zero, and PORT is unused. -/
def decGenTok (mk : OpN → Instr) (w : Nat) : Dec Instr := do
  let h ← decHdr w
  need (.shape 37) (fld w 37 2 == 0)
  need (.shape 34) (fld w 34 3 == 0)
  rsv w 32 2
  need (.limit 8) (fld w 8 24 == 0)
  accept 0 (mk { h, n := fld w 0 8 })

def genMap : List (Nat × (Nat → Dec Instr)) :=
  [(0x01, decGen .cnt false), (0x02, decGen .step true), (0x03, decGenTok .tokgo), (0x04, decGenTok .tokend)]

def decodeGen (w : Nat) : Dec Instr := viaMap genMap (fld w 39 8) w

/-! ## Engine entries: one number, the first word in bits [63:0] and the second in bits [127:64] -/

/-- R75: the header of an engine entry; PRED is 7 and PNEG 0. -/
def decEHdr (w : Nat) : Dec EHdr := do
  need (.limit 47) (fld w 47 4 == 14)
  return { stamp := fld w 52 12, hold := bit w 51 }

/-- The second word is zero. -/
def noSecond (w : Nat) : Dec Unit := rsv w 64 64

def decMmz (w : Nat) : Dec Instr := do
  let h ← decEHdr w
  rsv w 9 30
  let acc ← Acc.ofCode 7 (fld w 7 2)
  rsv w 0 7
  noSecond w
  accept 52 (.mmz h acc)

/-- A row's format field: `SFMT` of the slot when the select bit is set, and the field then zero (R269). -/
def decRowFmt (w lo sel : Nat) : Dec (Option Fmt) :=
  if bit w sel then do
    need (.limit lo) (fld w lo 5 == 0)
    return none
  else (Fmt.ofCode lo (fld w lo 5)).map some

/-- R269: a tile-step row. -/
def decRow (mk : OpRow → Instr) (sparse : Bool) (w : Nat) : Dec Instr := do
  let h ← decEHdr w
  let afmt ← decRowFmt w 16 10
  let bfmt ← decRowFmt w 11 9
  let acc ← Acc.ofCode 7 (fld w 7 2)
  let rm ← RMode.ofCode 4 (fld w 4 3)
  rsv w 88 1
  need (.limit 68) (!bit w 112 || fld w 68 12 == 0)
  need (.limit 64) (bit w 112 || fld w 64 4 == 0)
  let o : OpRow :=
    { stamp := h.stamp, hold := h.hold, m := fld w 35 4 + 1, n := fld w 31 4 + 1, k := fld w 21 10 + 1,
      afmt, bfmt, acc, rm, z := bit w 2, adv := bit w 3, lra := bit w 1, lrb := bit w 0,
      as := fld w 120 8, astep := toSigned 7 (fld w 113 7), ax := fld w 104 8,
      bs := fld w 96 8, bstep := toSigned 7 (fld w 89 7), bx := fld w 80 8,
      rep := fld w 68 12 + 1, repq := if bit w 112 then some (fld w 64 4) else none }
  need .combo (!o.combo sparse)
  accept 4 (mk o)

def decRadv (w : Nat) : Dec Instr := do
  let h ← decEHdr w
  rsv w 0 39
  noSecond w
  accept 52 (.radv h)

/-- R281: `epc`. -/
def decEpc (w : Nat) : Dec Instr := do
  let h ← decEHdr w
  let ofmt ← Fmt.ofCode 34 (fld w 34 5)
  let rm ← RMode.ofCode 30 (fld w 30 3)
  need (.reserved 26) (fld w 26 4 < 6)
  need (.reserved 22) (fld w 22 2 < 3)
  rsv w 0 21
  rsv w 64 24
  accept 34 (.epc h { ofmt, raw := bit w 33, rm, act := fld w 26 4, scm := fld w 24 2, bim := fld w 22 2,
                      otag := bit w 21, scale := fld w 96 32, pol := fld w 88 8 })

def decEpi (w : Nat) : Dec Instr := do
  let h ← decEHdr w
  rsv w 0 31
  noSecond w
  accept 32 (.epi h (fld w 35 4) (fld w 32 3) (bit w 31))

def decEpw (w : Nat) : Dec Instr := do
  let h ← decEHdr w
  rsv w 0 25
  rsv w 88 40
  accept 31 (.epw h (fld w 31 8) (bit w 30) (bit w 29) (fld w 25 4) (fld w 64 24))

def decEpd (w : Nat) : Dec Instr := do
  let h ← decEHdr w
  rsv w 0 39
  noSecond w
  accept 52 (.epd h)

def decEpb (w : Nat) : Dec Instr := do
  let h ← decEHdr w
  rsv w 0 30
  noSecond w
  accept 31 (.epb h (fld w 31 8) (bit w 30))

/-- R321: the data-moving copy entries. A field the form does not list is reserved. -/
def decCopy (mk : OpCopy → Instr) (useS useD : Bool) (w : Nat) : Dec Instr := do
  let h ← decEHdr w
  need (.reserved 27) (useS || fld w 27 8 == 0)
  need (.reserved 18) (useD || fld w 18 9 == 0)
  rsv w 0 18
  noSecond w
  accept 18 (mk { h, dq := fld w 35 4, sb := fld w 27 8, db := fld w 19 8, dop := bit w 18 })

def decFill (w : Nat) : Dec Instr := do
  let h ← decEHdr w
  rsv w 27 8
  rsv w 0 18
  rsv w 68 60
  accept 18 (.fill { h, dq := fld w 35 4, sb := 0, db := fld w 19 8, dop := bit w 18 } (fld w 64 4))

def decDrain (w : Nat) : Dec Instr := do
  let h ← decEHdr w
  rsv w 0 37
  noSecond w
  accept 51 (.drain h (fld w 37 2))

/-- R293: the Felt entries. -/
def decFldt (w : Nat) : Dec Instr := do
  let h ← decEHdr w
  rsv w 0 1
  noSecond w
  accept 13 (.fldt h (fld w 37 2) (fld w 29 8) (fld w 25 4) (fld w 13 12) (fld w 1 12 + 1))

def decFctx (w : Nat) : Dec Instr := do
  let h ← decEHdr w
  rsv w 0 37
  noSecond w
  accept 37 (.fctx h (fld w 37 2))

def decFeval (w : Nat) : Dec Instr := do
  let h ← decEHdr w
  rsv w 0 15
  noSecond w
  accept 27 (.feval h (fld w 27 12) (fld w 15 12 + 1))

def decFxin (w : Nat) : Dec Instr := do
  let h ← decEHdr w
  rsv w 0 1
  noSecond w
  accept 19 (.fxin { h, bsel := fld w 31 8, oq := fld w 27 4, sz := fld w 25 2, lo := fld w 19 6,
                     width := fld w 13 6 + 1, wire := fld w 1 12 })

def decFxout (w : Nat) : Dec Instr := do
  let h ← decEHdr w
  noSecond w
  accept 19 (.fxout { h, bsel := fld w 31 8, oq := fld w 27 4, sz := fld w 25 2, lo := fld w 19 6,
                      width := fld w 13 6 + 1, wire := fld w 0 13 })

def decFpop (w : Nat) : Dec Instr := do
  let h ← decEHdr w
  rsv w 0 1
  rsv w 64 32
  if bit w 26 then do
    need (.limit 31) (fld w 31 8 == 0)
    need (.limit 27) (fld w 27 4 == 0)
    need (.limit 96) (fld w 96 16 == 0)
    accept 13 (.fpopLat h (fld w 13 13) (fld w 1 12 + 1) (fld w 120 8 + 1) (fld w 112 8))
  else do
    need (.limit 112) (fld w 112 8 == 0)
    accept 13 (.fpop h (fld w 31 8) (fld w 27 4) (fld w 13 13) (fld w 1 12 + 1) (fld w 120 8 + 1) (fld w 96 16))

def decFclr (w : Nat) : Dec Instr := do
  let h ← decEHdr w
  noSecond w
  if bit w 38 then do
    rsv w 0 36
    accept 36 (.fclrCtx h (fld w 36 2))
  else do
    rsv w 0 12
    accept 25 (.fclr h (fld w 25 13) (fld w 12 13 + 1))

/-- R76: the engine opcodes, each engine's range its high digit. -/
def engineMap : List (Nat × (Nat → Dec Instr)) :=
  [(0x01, decMmz), (0x02, decRow .mm false), (0x03, decRow .mms true), (0x04, decRadv),
   (0x10, decEpc), (0x11, decEpi), (0x12, decEpw), (0x13, decEpd), (0x14, decEpb),
   (0x20, decCopy .copy true true), (0x21, decCopy .copyc true true), (0x22, decFill),
   (0x23, decCopy .prefetch true false), (0x24, decCopy .wld true false), (0x25, decDrain),
   (0x30, decFldt), (0x31, decFctx), (0x32, decFeval), (0x33, decFxin), (0x34, decFxout),
   (0x35, decFpop), (0x36, decFclr)]

/-- R76: decode an entry of engine `e` (0 matrix, 1 epilogue, 2 copy, 3 Felt), which decodes only its own range. -/
def decodeEngine (e w : Nat) : Dec Instr :=
  if fld w 43 4 = e then viaMap engineMap (fld w 39 8) w else .error .opcode

/-! ## Sequencer steps (R77, R78) -/

/-- A step with no operand. -/
def decS0 (i : Instr) (w : Nat) : Dec Instr := do
  rsv w 0 26
  accept 26 i

/-- RS at [25:24] alone. -/
def decSrs (mk : Nat → Instr) (w : Nat) : Dec Instr := do
  rsv w 0 24
  accept 24 (mk (fld w 24 2))

def decScfg (w : Nat) : Dec Instr := do
  rsv w 16 7
  accept 0 (.cfg (fld w 24 2) (fld w 23 1) (fld w 0 16))

def decScfgx (w : Nat) : Dec Instr :=
  accept 0 (.cfgx (fld w 24 2) (fld w 23 1) (fld w 0 16) (fld w 16 7))

def decSrun (w : Nat) : Dec Instr := do
  rsv w 0 20
  accept 20 (.run (fld w 24 2) (fld w 20 4))

def decSwait (w : Nat) : Dec Instr := do
  need (.reserved 24) (fld w 24 2 < 3)
  rsv w 8 16
  match fld w 24 2 with
  | 0 => accept 0 (.waitRegion (fld w 0 8))
  | 1 => accept 0 (.waitFrame (fld w 0 8))
  | _ => accept 0 (.waitBarrier (fld w 0 8))

def decSbrs (w : Nat) : Dec Instr := do
  let c ← BCond.ofCode 20 (fld w 20 2)
  accept 0 (.brs (fld w 22 4) c (fld w 10 10) (fld w 0 10))

def decSloop (w : Nat) : Dec Instr := do
  rsv w 10 12
  accept 0 (.loop (fld w 22 4) (fld w 0 10))

def decSsetq (w : Nat) : Dec Instr :=
  accept 0 (.setq (fld w 22 4) (toSigned 22 (fld w 0 22)))

def decSaddq (w : Nat) : Dec Instr :=
  if bit w 17 then accept 0 (.addqImm (fld w 22 4) (fld w 18 4) (toSigned 17 (fld w 0 17)))
  else do
    rsv w 0 13
    accept 13 (.addq (fld w 22 4) (fld w 18 4) (fld w 13 4))

def decScmpq (w : Nat) : Dec Instr := do
  let c ← QCond.ofCode 11 (fld w 11 3)
  rsv w 0 11
  accept 14 (.cmpq c (fld w 22 4) (fld w 18 4) (fld w 14 4))

/-- `ldq` and `stq`. -/
def decSmem (mk : Nat → Nat → Int → Instr) (w : Nat) : Dec Instr :=
  accept 0 (mk (fld w 22 4) (fld w 18 4) (toSigned 18 (fld w 0 18)))

/-- One q register at [25:22]. -/
def decSq (mk : Nat → Instr) (w : Nat) : Dec Instr := do
  rsv w 0 22
  accept 22 (mk (fld w 22 4))

def decSmode (w : Nat) : Dec Instr := do
  rsv w 8 18
  accept 0 (.mode (fld w 0 8))

/-- A 16-bit number in [15:0]. -/
def decS16 (mk : Nat → Instr) (w : Nat) : Dec Instr := do
  rsv w 16 10
  accept 0 (mk (fld w 0 16))

/-- `sysr` and `sysw`. -/
def decSsys (mk : Nat → Nat → Instr) (w : Nat) : Dec Instr := do
  rsv w 16 6
  accept 0 (mk (fld w 22 4) (fld w 0 16))

/-- `claim` and `free`. -/
def decSslot (mk : Nat → Nat → Instr) (w : Nat) : Dec Instr := do
  rsv w 0 9
  accept 9 (mk (fld w 18 8) (fld w 9 9))

def decSbarInit (w : Nat) : Dec Instr := do
  rsv w 12 6
  accept 0 (.barInit (fld w 18 8) (fld w 0 12))

/-- A barrier number at [25:18]. -/
def decSbar (mk : Nat → Instr) (w : Nat) : Dec Instr := do
  rsv w 0 18
  accept 18 (mk (fld w 18 8))

def decSframe (w : Nat) : Dec Instr := do
  rsv w 8 18
  accept 0 (.frame (fld w 0 8))

def decSfence (mk : Scope → Instr) (w : Nat) : Dec Instr := do
  rsv w 3 23
  let s ← Scope.ofCode 0 (fld w 0 3)
  accept 0 (mk s)

/-- R78: the sequencer opcodes. -/
def stepMap : List (Nat × (Nat → Dec Instr)) :=
  [(0x00, decS0 .stepNop), (0x01, decScfg), (0x02, decScfgx), (0x03, decSrs .swap), (0x04, decSrun),
   (0x05, decSwait), (0x06, decSbrs), (0x07, decSloop), (0x08, decSsetq), (0x09, decSaddq), (0x0A, decScmpq),
   (0x0B, decSmem .ldq), (0x0C, decSmem .stq), (0x0D, decSq .tick), (0x0E, decSmode), (0x0F, decSq .spawn),
   (0x10, decS0 .yield), (0x11, decS0 .retire), (0x12, decS16 .trap), (0x13, decSrs .freeze), (0x14, decSrs .thaw),
   (0x15, decSsys .sysr), (0x16, decSsys .sysw), (0x17, decSslot .claim), (0x18, decSslot .free), (0x19, decS16 .pub),
   (0x1A, decSbarInit), (0x1B, decSbar .stepBarArrive), (0x1C, decSbar .stepBarWait), (0x1D, decSframe),
   (0x1E, decSfence .stepFence), (0x1F, decSfence .stepFenceSc), (0x20, decS16 .stepBrk)]

/-- R77, R78: decode a sequencer step. -/
def decodeStep (w : Nat) : Dec Instr := viaMap stepMap (fld w 26 6) w

/-! ## Bytes -/

/-- The number little-endian bytes stand for (R1). -/
def leNat : List Byte → Nat
  | [] => 0
  | b :: bs => b.toNat + 256 * leNat bs

/-- The low `n` bytes of a number, least significant first (R1). -/
def leBytes : Nat → Nat → List Byte
  | 0, _ => []
  | n + 1, v => BitVec.ofNat 8 v :: leBytes n (v / 256)

/-- What the decoder reads from an instruction of `nbits` bits whose bits are `w`: the words stand in memory as R1
stores them, and the opcode space is the one the length leaves (R56): 32 bits a sequencer step, 128 an engine entry,
64 an element entry, or else a port or a generator entry. -/
def decodeTableWord (nbits w : Nat) : Option Instr :=
  let read (f : Nat → Dec Instr) (v : Nat) : Option Instr :=
    match f v with
    | .ok i => some i
    | .error _ => none
  if nbits ≤ 32 then read decodeStep (leNat (leBytes 4 w))
  else if nbits ≤ 64 then
    let v := leNat (leBytes 8 w)
    (read decodeElement v).orElse fun _ => (read decodePort v).orElse fun _ => read decodeGen v
  else
    let v := leNat (leBytes 16 w)
    read (decodeEngine (fld v 43 4)) v

/-! ## The encoder -/

def Hdr.bits (h : Hdr) (opc : Nat) : Nat :=
  h.stamp * 2 ^ 52 + b2n h.hold * 2 ^ 51 + h.pred * 2 ^ 48 + b2n h.pneg * 2 ^ 47 + opc * 2 ^ 39

def EHdr.bits (h : EHdr) (opc : Nat) : Nat :=
  h.stamp * 2 ^ 52 + b2n h.hold * 2 ^ 51 + 14 * 2 ^ 47 + opc * 2 ^ 39

def modI (t : TagExp) : Nat := t.code * 2 ^ 3
def modF (r : RMode) (t : TagExp) : Nat := r.code * 2 ^ 5 + t.code * 2 ^ 3

/-- TY, DST, SA, SB and SC of an element entry. -/
def elemBits (ty dst a b c : Nat) : Nat := ty * 2 ^ 36 + dst * 2 ^ 29 + a * 2 ^ 22 + b * 2 ^ 15 + c * 2 ^ 8

def OpI1.bits (o : OpI1) (opc : Nat) : Nat := o.h.bits opc + elemBits o.ty.code o.d.code o.a.code 0 0 + modI o.tag
def OpI2.bits (o : OpI2) (opc : Nat) : Nat :=
  o.h.bits opc + elemBits o.ty.code o.d.code o.a.code o.b.code 0 + modI o.tag
def OpI3.bits (o : OpI3) (opc : Nat) : Nat :=
  o.h.bits opc + elemBits o.ty.code o.d.code o.a.code o.b.code o.c.code + modI o.tag
def OpF1.bits (o : OpF1) (opc : Nat) : Nat :=
  o.h.bits opc + elemBits o.ty.code o.d.code o.a.code 0 0 + modF o.rm o.tag
def OpF2.bits (o : OpF2) (opc : Nat) : Nat :=
  o.h.bits opc + elemBits o.ty.code o.d.code o.a.code o.b.code 0 + modF o.rm o.tag
def OpF3.bits (o : OpF3) (opc : Nat) : Nat :=
  o.h.bits opc + elemBits o.ty.code o.d.code o.a.code o.b.code o.c.code + modF o.rm o.tag
def OpG1.bits (o : OpG1) (opc : Nat) : Nat := o.h.bits opc + elemBits o.ty.code o.d.code o.a.code 0 0 + modI o.tag
def OpG2.bits (o : OpG2) (opc : Nat) : Nat :=
  o.h.bits opc + elemBits o.ty.code o.d.code o.a.code o.b.code 0 + modI o.tag

/-- DST of a predicate destination (R62). -/
def pdst (p : Nat) : Nat := 0x60 + p

def OpP2.bits (o : OpP2) (opc : Nat) : Nat := o.h.bits opc + elemBits 0 (pdst o.p) o.a o.b 0
def OpP1.bits (o : OpP1) (opc : Nat) : Nat := o.h.bits opc + elemBits 0 (pdst o.p) o.a 0 0
def OpNum.bits (o : OpNum) (opc : Nat) : Nat := o.h.bits opc + elemBits o.ty.code o.d.code o.a.code 0 0 + o.n
def OpD.bits (o : OpD) (opc : Nat) : Nat := o.h.bits opc + elemBits o.ty.code o.d.code 0 0 0
def OpN.bits (o : OpN) (opc : Nat) : Nat := o.h.bits opc + o.n
def OpFence.bits (o : OpFence) (opc : Nat) : Nat := o.h.bits opc + o.scope.code
def OpQuant.bits (o : OpQuant) (opc : Nat) : Nat :=
  o.h.bits opc + elemBits o.ty.code o.d.code o.a.code (0x30 + o.k) 0 + o.rm.code * 2 ^ 5 + o.fmt.code

/-- MOD of layout C. -/
def modC (rm : Nat) (d s : LTy) : Nat := rm * 2 ^ 5 + b2n d.isI * 2 ^ 4 + b2n s.isI * 2 ^ 3 + s.code

def OpPort.bits (o : OpPort) (opc : Nat) : Nat :=
  o.h.bits opc + o.ty.code4 * 2 ^ 35 + o.agen * 2 ^ 32 + o.bsel * 2 ^ 28 + o.scope.code * 2 ^ 25 + o.size * 2 ^ 23 +
  b2n o.pdef * 2 ^ 22 + o.pol * 2 ^ 14 + o.rm.code * 2 ^ 11

def OpGen.bits (o : OpGen) (opc : Nat) : Nat :=
  o.h.bits opc + o.ctr * 2 ^ 37 + o.port * 2 ^ 34 + ofSigned 32 o.imm

def fmtBits : Option Fmt → Nat
  | some f => f.code
  | none => 0

def OpRow.bits (o : OpRow) (opc : Nat) : Nat :=
  (EHdr.mk o.stamp o.hold).bits opc + (o.m - 1) * 2 ^ 35 + (o.n - 1) * 2 ^ 31 + (o.k - 1) * 2 ^ 21 +
  fmtBits o.afmt * 2 ^ 16 + fmtBits o.bfmt * 2 ^ 11 + b2n o.afmt.isNone * 2 ^ 10 + b2n o.bfmt.isNone * 2 ^ 9 +
  o.acc.code * 2 ^ 7 + o.rm.code * 2 ^ 4 + b2n o.adv * 2 ^ 3 + b2n o.z * 2 ^ 2 + b2n o.lra * 2 + b2n o.lrb +
  (o.as * 2 ^ 56 + ofSigned 7 o.astep * 2 ^ 49 + b2n o.repq.isSome * 2 ^ 48 + o.ax * 2 ^ 40 + o.bs * 2 ^ 32 +
   ofSigned 7 o.bstep * 2 ^ 25 + o.bx * 2 ^ 16 + (o.rep - 1) * 2 ^ 4 + o.repq.getD 0) * 2 ^ 64

def OpCopy.bits (o : OpCopy) (opc : Nat) : Nat :=
  o.h.bits opc + o.dq * 2 ^ 35 + o.sb * 2 ^ 27 + o.db * 2 ^ 19 + b2n o.dop * 2 ^ 18

def OpFx.bits (o : OpFx) (opc wsh : Nat) : Nat :=
  o.h.bits opc + o.bsel * 2 ^ 31 + o.oq * 2 ^ 27 + o.sz * 2 ^ 25 + o.lo * 2 ^ 19 + (o.width - 1) * 2 ^ 13 + o.wire * 2 ^ wsh

/-- The size in bits and the word of an instruction that has an encoding; the events of the table have none. -/
def encode : Instr → Option (Nat × Nat)
  | .nop h => some (64, h.bits 0)
  | .add o => some (64, o.bits 0x01)
  | .sub o => some (64, o.bits 0x02)
  | .adds o => some (64, o.bits 0x03)
  | .subs o => some (64, o.bits 0x04)
  | .neg o => some (64, o.bits 0x05)
  | .abs o => some (64, o.bits 0x06)
  | .min o => some (64, o.bits 0x07)
  | .max o => some (64, o.bits 0x08)
  | .avg o => some (64, o.bits 0x09)
  | .clamp o => some (64, o.bits 0x0A)
  | .mul o => some (64, o.bits 0x0B)
  | .mulh o => some (64, o.bits 0x0C)
  | .mad o => some (64, o.bits 0x0D)
  | .sad o => some (64, o.bits 0x0E)
  | .dot4 o => some (64, o.bits 0x0F)
  | .and o => some (64, o.bits 0x10)
  | .or o => some (64, o.bits 0x11)
  | .xor o => some (64, o.bits 0x12)
  | .andn o => some (64, o.bits 0x13)
  | .not o => some (64, o.bits 0x14)
  | .shl o => some (64, o.bits 0x15)
  | .shr o => some (64, o.bits 0x16)
  | .sha o => some (64, o.bits 0x17)
  | .rot o => some (64, o.bits 0x18)
  | .clz o => some (64, o.bits 0x19)
  | .pop o => some (64, o.bits 0x1A)
  | .brev o => some (64, o.bits 0x1B)
  | .bfx o => some (64, o.bits 0x1C)
  | .bfi o => some (64, o.bits 0x1D)
  | .sel o => some (64, o.bits 0x22)
  | .idx o => some (64, o.bits 0x33)
  | .fadd o => some (64, o.bits 0x40)
  | .fsub o => some (64, o.bits 0x41)
  | .fmul o => some (64, o.bits 0x42)
  | .fma o => some (64, o.bits 0x43)
  | .fms o => some (64, o.bits 0x44)
  | .fnma o => some (64, o.bits 0x45)
  | .fmin o => some (64, o.bits 0x46)
  | .fmax o => some (64, o.bits 0x47)
  | .fabs o => some (64, o.bits 0x48)
  | .fneg o => some (64, o.bits 0x49)
  | .frnd o => some (64, o.bits 0x4C)
  | .fscl o => some (64, o.bits 0x4D)
  | .fdot2 o => some (64, o.bits 0x4E)
  | .lsumf o => some (64, o.bits 0x4F)
  | .quant o => some (64, o.bits 0x52)
  | .dequ o => some (64, o.bits 0x53)
  | .scl o => some (64, o.bits 0x54)
  | .uscl o => some (64, o.bits 0x55)
  | .amax o => some (64, o.bits 0x56)
  | .fnExp2 o => some (64, o.bits 0x60)
  | .fnLog2 o => some (64, o.bits 0x61)
  | .fnRcp o => some (64, o.bits 0x62)
  | .fnRsq o => some (64, o.bits 0x63)
  | .fnSin o => some (64, o.bits 0x64)
  | .fnTanh o => some (64, o.bits 0x65)
  | .fnSig o => some (64, o.bits 0x66)
  | .fnGelu o => some (64, o.bits 0x67)
  | .pand o => some (64, o.bits 0x80)
  | .por o => some (64, o.bits 0x81)
  | .pxor o => some (64, o.bits 0x82)
  | .pnot o => some (64, o.bits 0x83)
  | .pmov o => some (64, o.bits 0x84)
  | .bcast o => some (64, o.bits 0x88)
  | .lrot o => some (64, o.bits 0x8A)
  | .lsum o => some (64, o.bits 0x8B)
  | .lmax o => some (64, o.bits 0x8C)
  | .dseed o => some (64, o.bits 0x91)
  | .dget o => some (64, o.bits 0x92)
  | .dput o => some (64, o.bits 0x93)
  | .dzero o => some (64, o.bits 0x94)
  | .tokw o => some (64, o.bits 0x98)
  | .toke o => some (64, o.bits 0x99)
  | .barArrive o => some (64, o.bits 0xA0)
  | .barWait o => some (64, o.bits 0xA1)
  | .barAw o => some (64, o.bits 0xA2)
  | .fence o => some (64, o.bits 0xA8)
  | .fenceSc o => some (64, o.bits 0xA9)
  | .brk o => some (64, o.bits 0xBF)
  | .cmp o => some (64, o.h.bits 0x20 + elemBits o.ty.code (pdst o.p) o.a.code o.b.code 0 + o.tag.code * 2 ^ 3 + o.cc.code)
  | .test o => some (64, o.h.bits 0x21 + elemBits o.ty.code (pdst o.p) o.a.code o.b.code 0 + modI o.tag)
  | .mov o => some (64, o.h.bits 0x28 + elemBits o.ty.code o.d.code o.a.code 0 0)
  | .movk o => some (64, o.h.bits 0x29 + elemBits o.ty.code 0 o.a.code 0 0 + o.k)
  | .li o => some (64, o.h.bits 0x2A + elemBits o.ty.code o.d.code 0 0 0 + ofSigned 29 o.imm)
  | .tri5 o => some (64, o.h.bits 0x30 + elemBits 0 o.d.code o.a.code 0 0 + o.g)
  | .pack o => some (64, o.h.bits 0x31 + elemBits o.fmt.tyCode o.d.code o.a.code o.b.code 0 + o.fmt.code)
  | .unpk o => some (64, o.h.bits 0x32 + elemBits o.fmt.tyCode o.d.code o.a.code 0 0 + o.fmt.code)
  | .fcmp o => some (64, o.h.bits 0x4A + elemBits o.ty.code (pdst o.p) o.a.code o.b.code 0 + o.tag.code * 2 ^ 3 + o.cc.code)
  | .fclass o => some (64, o.h.bits 0x4B + elemBits o.ty.code (pdst o.p) o.a.code 0 0 + o.mask)
  | .cvt o => some (64, o.h.bits 0x50 + elemBits o.td.code o.d.code o.a.code (0x30 + o.k) 0 + modC o.rm.code o.td o.ts)
  | .cvtsr o => some (64, o.h.bits 0x51 + elemBits o.td.code o.d.code o.a.code (0x30 + o.k) o.c.code + modC 0 o.td o.ts)
  | .mxsc o => some (64, o.h.bits 0x57 + elemBits o.ty.code o.d.code o.a.code 0 0 + o.fmt.code)
  | .rnd o => some (64, o.h.bits 0x58 + elemBits 0 o.d.code 0 0 0)
  | .rndn o => some (64, o.h.bits 0x59 + elemBits o.ty.code o.d.code 0 0 0 + modF o.rm o.tag)
  | .shuf o => some (64, o.h.bits 0x89 + elemBits o.ty.code o.d.code o.a.code o.b.code 0)
  | .drnCut o => some (64, o.h.bits 0x90 + elemBits o.ty.code o.d.code 0 0 0)
  | .drnLin o => some (64, o.h.bits 0x90 + elemBits o.ty.code o.d.code o.a.code o.b.code o.c.code + 2 ^ 6)
  | .ld o => some (64, o.bits 0x01)
  | .st o => some (64, o.bits 0x02)
  | .ldg o => some (64, o.bits 0x03)
  | .stg o => some (64, o.bits 0x04)
  | .aadd o => some (64, o.bits 0x10)
  | .amin o => some (64, o.bits 0x11)
  | .atomicMax o => some (64, o.bits 0x12)
  | .aand o => some (64, o.bits 0x13)
  | .aor o => some (64, o.bits 0x14)
  | .axor o => some (64, o.bits 0x15)
  | .axch o => some (64, o.bits 0x16)
  | .acas o => some (64, o.bits 0x17)
  | .radd o => some (64, o.bits 0x18)
  | .rmin o => some (64, o.bits 0x19)
  | .rmax o => some (64, o.bits 0x1A)
  | .cnt o => some (64, o.bits 0x01)
  | .step o => some (64, o.bits 0x02)
  | .tokgo o => some (64, o.bits 0x03)
  | .tokend o => some (64, o.bits 0x04)
  | .mmz h acc => some (128, h.bits 0x01 + acc.code * 2 ^ 7)
  | .mm o => some (128, o.bits 0x02)
  | .mms o => some (128, o.bits 0x03)
  | .radv h => some (128, h.bits 0x04)
  | .epc h c => some (128, h.bits 0x10 + c.ofmt.code * 2 ^ 34 + b2n c.raw * 2 ^ 33 + c.rm.code * 2 ^ 30 + c.act * 2 ^ 26 +
      c.scm * 2 ^ 24 + c.bim * 2 ^ 22 + b2n c.otag * 2 ^ 21 + c.scale * 2 ^ 96 + c.pol * 2 ^ 88)
  | .epi h r c pop => some (128, h.bits 0x11 + r * 2 ^ 35 + c * 2 ^ 32 + b2n pop * 2 ^ 31)
  | .epw h b pop pair oq pitch => some (128, h.bits 0x12 + b * 2 ^ 31 + b2n pop * 2 ^ 30 + b2n pair * 2 ^ 29 + oq * 2 ^ 25 + pitch * 2 ^ 64)
  | .epd h => some (128, h.bits 0x13)
  | .epb h s bias => some (128, h.bits 0x14 + s * 2 ^ 31 + b2n bias * 2 ^ 30)
  | .copy o => some (128, o.bits 0x20)
  | .copyc o => some (128, o.bits 0x21)
  | .fill o vq => some (128, o.bits 0x22 + vq * 2 ^ 64)
  | .prefetch o => some (128, o.bits 0x23)
  | .wld o => some (128, o.bits 0x24)
  | .drain h m => some (128, h.bits 0x25 + m * 2 ^ 37)
  | .fldt h c b oq cell n => some (128, h.bits 0x30 + c * 2 ^ 37 + b * 2 ^ 29 + oq * 2 ^ 25 + cell * 2 ^ 13 + (n - 1) * 2)
  | .fctx h c => some (128, h.bits 0x31 + c * 2 ^ 37)
  | .feval h cell n => some (128, h.bits 0x32 + cell * 2 ^ 27 + (n - 1) * 2 ^ 15)
  | .fxin o => some (128, o.bits 0x33 1)
  | .fxout o => some (128, o.bits 0x34 0)
  | .fpop h b oq w gs g pitch => some (128, h.bits 0x35 + b * 2 ^ 31 + oq * 2 ^ 27 + w * 2 ^ 13 + (gs - 1) * 2 +
      (g - 1) * 2 ^ 120 + pitch * 2 ^ 96)
  | .fpopLat h w gs g s0 => some (128, h.bits 0x35 + 2 ^ 26 + w * 2 ^ 13 + (gs - 1) * 2 + (g - 1) * 2 ^ 120 + s0 * 2 ^ 112)
  | .fclr h w n => some (128, h.bits 0x36 + w * 2 ^ 25 + (n - 1) * 2 ^ 12)
  | .fclrCtx h c => some (128, h.bits 0x36 + 2 ^ 38 + c * 2 ^ 36)
  | .stepNop => some (32, 0x00 * 2 ^ 26)
  | .cfg rs b i => some (32, 0x01 * 2 ^ 26 + rs * 2 ^ 24 + b * 2 ^ 23 + i)
  | .cfgx rs b i r => some (32, 0x02 * 2 ^ 26 + rs * 2 ^ 24 + b * 2 ^ 23 + r * 2 ^ 16 + i)
  | .swap rs => some (32, 0x03 * 2 ^ 26 + rs * 2 ^ 24)
  | .run rs q => some (32, 0x04 * 2 ^ 26 + rs * 2 ^ 24 + q * 2 ^ 20)
  | .waitRegion n => some (32, 0x05 * 2 ^ 26 + n)
  | .waitFrame g => some (32, 0x05 * 2 ^ 26 + 2 ^ 24 + g)
  | .waitBarrier b => some (32, 0x05 * 2 ^ 26 + 2 * 2 ^ 24 + b)
  | .brs q c t n => some (32, 0x06 * 2 ^ 26 + q * 2 ^ 22 + c.code * 2 ^ 20 + t * 2 ^ 10 + n)
  | .loop q e => some (32, 0x07 * 2 ^ 26 + q * 2 ^ 22 + e)
  | .setq q v => some (32, 0x08 * 2 ^ 26 + q * 2 ^ 22 + ofSigned 22 v)
  | .addq d a b => some (32, 0x09 * 2 ^ 26 + d * 2 ^ 22 + a * 2 ^ 18 + b * 2 ^ 13)
  | .addqImm d a v => some (32, 0x09 * 2 ^ 26 + d * 2 ^ 22 + a * 2 ^ 18 + 2 ^ 17 + ofSigned 17 v)
  | .cmpq c d a b => some (32, 0x0A * 2 ^ 26 + d * 2 ^ 22 + a * 2 ^ 18 + b * 2 ^ 14 + c.code * 2 ^ 11)
  | .ldq d a v => some (32, 0x0B * 2 ^ 26 + d * 2 ^ 22 + a * 2 ^ 18 + ofSigned 18 v)
  | .stq d a v => some (32, 0x0C * 2 ^ 26 + d * 2 ^ 22 + a * 2 ^ 18 + ofSigned 18 v)
  | .tick q => some (32, 0x0D * 2 ^ 26 + q * 2 ^ 22)
  | .mode m => some (32, 0x0E * 2 ^ 26 + m)
  | .spawn q => some (32, 0x0F * 2 ^ 26 + q * 2 ^ 22)
  | .yield => some (32, 0x10 * 2 ^ 26)
  | .retire => some (32, 0x11 * 2 ^ 26)
  | .trap c => some (32, 0x12 * 2 ^ 26 + c)
  | .freeze rs => some (32, 0x13 * 2 ^ 26 + rs * 2 ^ 24)
  | .thaw rs => some (32, 0x14 * 2 ^ 26 + rs * 2 ^ 24)
  | .sysr q n => some (32, 0x15 * 2 ^ 26 + q * 2 ^ 22 + n)
  | .sysw q n => some (32, 0x16 * 2 ^ 26 + q * 2 ^ 22 + n)
  | .claim s n => some (32, 0x17 * 2 ^ 26 + s * 2 ^ 18 + n * 2 ^ 9)
  | .free s n => some (32, 0x18 * 2 ^ 26 + s * 2 ^ 18 + n * 2 ^ 9)
  | .pub b => some (32, 0x19 * 2 ^ 26 + b)
  | .barInit b n => some (32, 0x1A * 2 ^ 26 + b * 2 ^ 18 + n)
  | .stepBarArrive b => some (32, 0x1B * 2 ^ 26 + b * 2 ^ 18)
  | .stepBarWait b => some (32, 0x1C * 2 ^ 26 + b * 2 ^ 18)
  | .frame g => some (32, 0x1D * 2 ^ 26 + g)
  | .stepFence s => some (32, 0x1E * 2 ^ 26 + s.code)
  | .stepFenceSc s => some (32, 0x1F * 2 ^ 26 + s.code)
  | .stepBrk c => some (32, 0x20 * 2 ^ 26 + c)
  | .resultLand .. | .memoryReply .. | .hotThreshold .. | .intervalWrap .. | .frameWireEvent .. | .faceFlip .. | .regionEnd ..
  | .bankReady .. | .configPrefetch .. | .matrixStepLand .. | .copyDone .. | .feltLoadDone .. | .writePerform .. | .pageWalk ..
  | .atomicResend .. | .flitDelivery .. | .barrierArrivalLand .. | .barrierRelease .. | .weightStoreRefresh .. | .faultDecision .. | .entryRetry ..
  | .blockRestart .. | .killClear .. | .blockStart .. | .elasticRelease .. | .elasticResume .. | .elasticStop .. | .budgetExhausted ..
  | .elasticSave .. | .periodStart | .overrun .. | .fallbackOverrun .. | .modeChange | .launchPacket .. | .admission ..
  | .pretranslationTimeout .. | .tableSetActivation | .workEnd .. | .aset .. | .pin .. | .unpin .. | .inval ..
  | .reside .. | .evict .. | .modereq .. | .endwork .. | .resync .. | .ctrread .. | .ctrclr ..
  | .queueStagedWrite .. | .queueConfigWrite .. | .hotThreshWrite .. | .registerWrite .. | .pwrgood | .mapOut | .containerVerify ..
  | .tamper | .thermalRead .. | .powerStateRequest .. | .powerStateChange .. | .debugToken .. | .d2FieldRestart .. | .brkResume ..
  | .functionLevelReset .. | .sync .. | .announce .. | .holdover | .getVersion .. | .getCapabilities .. | .negotiateAlgorithms ..
  | .getDigests .. | .getCertificate .. | .challenge .. | .getMeasurements .. | .keyExchange .. | .finish .. | .endSession ..
  | .vendorDefinedRequest .. | .ideKm .. | .dmaWrite .. | .commandCompletion .. | .powerStateReached .. | .reedCoreAccess .. | .hostAccess ..
  | .debugRequest .. | .tdispRequest .. | .recoveryImage .. | .peerDelay .. | .lifecycleFuseBlow | .pwrgoodFall => none

end Sys2Proof
end

