-- ==== Sys2Proof/Machine/State.lean ====
section
/-! DEFINITION. The state of the K4 as plain data: everything the spec gives the machine, and State.reset.

Numbering: a lane is die * 64 + core * 4 + slot (R111), a core die * 16 + core, a unit of a core's array is row * 8 +
col for an element, 64 + row for a port tile, 72 + row for a generator tile and 80 + e for an engine (0 matrix,
1 epilogue, 2 copy, 3 Felt). Sparse tables list only entries that differ from the named default. -/

namespace Sys2Proof.Machine

/-! ## Containers, parsed once at verification (R15 to R29) -/

structure Block where
  num : Nat
  fallback : Nat
  flags : Nat
  dwmask : Nat
  fgroup : Nat
  seq : Nat
  imgFirst : Nat
  imgCount : Nat
  bindFirst : Nat
  bindCount : Nat
  engFirst : Nat
  engCount : Nat
  wc : Nat
  deriving DecidableEq, Repr, Inhabited

/-- A rectangle record (R19). -/
structure Rect where
  kind : Nat
  row : Nat
  col : Nat
  rows : Nat
  cols : Nat
  pat : Nat
  deriving DecidableEq, Repr, Inhabited

/-- A pattern: 1 or 2 words an entry, and the entries as whole numbers (R19). -/
structure Pattern where
  words : Nat
  entries : List Nat
  deriving DecidableEq, Repr, Inhabited

structure Image where
  rows : Nat
  cols : Nat
  ii : Nat
  frameInt : Nat
  afgar : Bool
  size : Nat
  offset : Nat
  rects : List Rect
  pats : List Pattern
  deriving DecidableEq, Repr, Inhabited

/-- An engine-list record (R21); `eng` is a mask. -/
structure EngRec where
  img : Nat
  eng : Nat
  slots : Nat
  ring : Nat
  fctx : Nat
  deriving DecidableEq, Repr, Inhabited

/-- A buffer descriptor (R22): mode 0 WHOLE, 1 MERGE, 2 LIVE; mem 0 scratchpad, 1 buffer, 2 weight store, 3 DRAM. -/
structure Buf where
  id : Nat
  mode : Nat
  mem : Nat
  pubScope : Nat
  diff : Bool
  strict : Bool
  init : Nat
  size : Nat
  vaddr : Nat
  deriving DecidableEq, Repr, Inhabited

structure Bind where
  buf : Nat
  img : Nat
  tile : Nat
  dir : Nat
  hwin : Nat
  dramPk : Nat
  linkPk : Nat
  deriving DecidableEq, Repr, Inhabited

structure Wc where
  ticks : Nat
  holdT : Nat
  saveB : Nat
  deriving DecidableEq, Repr, Inhabited

structure Resv where
  dslots : Nat
  links : Nat
  lflits : Nat
  deriving DecidableEq, Repr, Inhabited

/-- A table fragment (R113); entries are the 256-bit words of R115. -/
structure Frag where
  tset : Nat
  mode : Nat
  dies : Nat
  period : Nat
  chg : List Nat
  resv : List Resv
  entries : List Nat
  deriving DecidableEq, Repr, Inhabited

/-- A constant record (R166). -/
structure ConstRec where
  img : Nat
  rect : Nat
  k : Nat
  value : V128
  deriving DecidableEq, Repr, Inhabited

/-- A violation of a container's structure: the byte `off` of the container at or in which it stands, the bit counted
from that byte (of a reserved field its first nonzero bit, of an entry or step the first offending field), whether it is
a reserved combination (R273), and what R20 and R57 name: block, image, rectangle record, pattern, entry index, program
and step index. -/
structure Viol where
  off : Nat
  bit : Nat := 0
  combo : Bool := false
  block : Option Nat := none
  image : Option Nat := none
  rect : Option Nat := none
  pattern : Option Nat := none
  entry : Option Nat := none
  program : Option Nat := none
  step : Option Nat := none
  deriving DecidableEq, Repr, Inhabited

/-- A container whose signatures verified: the copies of R29. `reject` is the first structural violation of one that
was verified and rejected (R28). -/
structure Container where
  digest : Nat
  contId : Nat
  minDies : Nat
  addr : Nat
  total : Nat
  reject : Option Viol
  blocks : List Block
  images : List Image
  engs : List EngRec
  bufs : List Buf
  binds : List Bind
  progs : List (List Nat)
  wcs : List Wc
  frags : List Frag
  template : List Byte
  inits : List (Nat × Nat)
  consts : List ConstRec
  /-- The verified sections that are copied, as (offset, bytes), the bytes they take together, and where the copy
  stands in partition 15 (R164). -/
  copySecs : List (Nat × Nat)
  copyBytes : Nat
  copied : Bool
  copyAt : Nat := 0
  /-- Its pages are read-only (R29). -/
  ro : Bool
  deriving DecidableEq, Repr, Inhabited

/-! ## Values, elements and tiles -/

/-- A 128-bit value with its scale tag and its tangent planes d1 to d4, default 0 (R189, R247). -/
structure Val where
  bits : V128 := 0
  scaled : Bool := false
  planes : Tbl V128 := []
  deriving DecidableEq, Repr, Inhabited

/-- A latch an edge unit presents, with its FRESH bit (R183). -/
structure EdgeLatch where
  val : Val := {}
  fresh : Bool := false
  deriving DecidableEq, Repr, Inhabited

/-- An arrival record of a barrier (R354): ARR and AP. `stood` is the barrier's count of releases when a wait entry
first stood at its stamp, and `arrived` says that a `bar.aw` standing there has made its arrival. -/
structure ArrRec where
  arr : Bool := false
  ap : Bool := false
  stood : Option Nat := none
  arrived : Bool := false
  deriving DecidableEq, Repr, Inhabited

/-- What a `drn` prefix captured (R256). -/
structure DrnCap where
  lin : Bool
  stamp : Nat
  a : V128
  b : V128
  c : V128
  deriving DecidableEq, Repr, Inhabited

/-- An element: rotating file (physical slots), own latch, predicates, constants keyed bank * 16 + k, pending token
counts, arrival records keyed by barrier, and a captured Drone prefix. -/
structure Elem where
  file : Tbl Val := []
  latch : Val := {}
  preds : Tbl (BitVec 16) := []
  consts : Tbl Val := []
  tokens : Tbl Nat := []
  recs : Tbl ArrRec := []
  drn : Option DrnCap := none
  deriving DecidableEq, Repr, Inhabited

/-- A counter of a generator tile (R304), with values pending until the sequence ends. -/
structure GenCtr where
  n : Nat := 1
  s : Int := 0
  i : Nat := 0
  pn : Option Nat := none
  ps : Option Int := none
  deriving DecidableEq, Repr, Inhabited

/-- Sequence states of a generator (R304). -/
inductive GenSt | idle | run | ended
  deriving DecidableEq, Repr, Inhabited

structure GenTile where
  ctrs : Tbl GenCtr := []
  st : GenSt := .idle
  goSent : Bool := false
  endSent : Bool := false
  latch : EdgeLatch := {}
  /-- Takes made, and addresses its lookahead has emitted, in all (R152). -/
  taken : Nat := 0
  seen : Nat := 0
  deriving DecidableEq, Repr, Inhabited

/-- An address that a generator's lookahead has emitted and no entry has issued yet (R152): the generator, the take's
number, the address, and when its translation is there. -/
structure Ahead where
  gen : Nat
  take : Nat
  va : Nat
  ready : Nat
  deriving DecidableEq, Repr, Inhabited

/-- A cached translation (R151): work, page base and size, the leaf as the walker saw it, R155's locks (the number of
admitted works' entries, and of PINs), R160's counters, and the order of last use. -/
structure TlbEnt where
  workid : Nat
  va : Nat
  size : Nat
  leaf : Nat
  locks : Nat := 0
  pins : Nat := 0
  heat : Nat := 0
  deliv : Nat := 0
  used : Nat := 0
  deriving DecidableEq, Repr, Inhabited

/-- What a queued write does at its home (R308, R309). -/
inductive WKind | store | aadd | amin | amax | aand | aor | axor | axch | acas | rmin | rmax | radd
  deriving DecidableEq, Repr, Inhabited

/-- One run of bytes of a write or a load: virtual and physical address and length, the bytes to write (for acas the
comparands in `cmp`), the bytes read in `got`, and what the translation gave: data key, compression, blocked writes,
format and policy. `alt` is the live face's address of a MERGE buffer read (R333), `map` the byte and bit of its dirty
map, and `altV` and `mapV` the virtual addresses of the two. `lane` and `plane` are the lane and tangent plane it serves, `page` the counted page's base plus 1 (R160). -/
structure Piece where
  va : Nat := 0
  pa : Nat := 0
  n : Nat := 0
  data : List Byte := []
  cmp : List Byte := []
  got : List Byte := []
  key : Nat := 0
  ful : Bool := false
  wblk : Bool := false
  alt : Option Nat := none
  map : Option (Nat × Nat) := none
  altV : Nat := 0
  mapV : Nat := 0
  fmt : Nat := 0
  pol : Nat := 0
  page : Nat := 0
  lane : Nat := 0
  plane : Nat := 0
  done : Bool := false
  /-- The cycle at which the access performs at its home, once it is known. -/
  due : Option Nat := none
  deriving DecidableEq, Repr, Inhabited

/-- An entry of a port's write queue (R310). `bind` is the binding in the block's order, `arr` the cycle it reaches its
bank, `sent` when it was sent and `tag` its sequence tag (R359), `req` the request an atomic's old value goes to, and
`applied` that only the performance at its scope is awaited. -/
structure WEnt where
  id : Nat
  lane : Nat
  bind : Nat
  kind : WKind
  ty : LTy
  rm : RMode
  scope : Nat
  size : Nat
  pieces : List Piece
  entry : Nat
  arr : Nat
  sent : Option Nat := none
  tag : Option Nat := none
  req : Option Nat := none
  applied : Bool := false
  deriving DecidableEq, Repr, Inhabited

structure PortTile where
  latch : EdgeLatch := {}
  queue : List WEnt := []
  tlb : List TlbEnt := []
  ahead : List Ahead := []
  deriving DecidableEq, Repr, Inhabited

/-! ## Results in flight (R184, R187) -/

/-- What a result does when it lands. -/
inductive Land
  /-- An element's file slot and latch: bits under a mask, tag, planes. -/
  | elem (u : Nat) (slot : Option Nat) (latch : Bool) (mask : V128) (bits : Option V128) (tag : Option Bool)
      (planes : List (Nat × V128))
  | pred (u p : Nat) (mask bits : BitVec 16)
  | const (u bank k : Nat) (mask bits : V128) (tag : Bool)
  | token (ch : Nat)
  /-- A generator's count or stride; `run` that its sequence ran when the entry fired. -/
  | gen (tile ctr : Nat) (stride run : Bool) (imm : Int)
  /-- The reply of memory request `req`, presented on the W latch of a port tile. -/
  | port (row req : Nat)
  /-- An edge latch: the north latch of a column (`north`), or the south latch. -/
  | edge (north : Bool) (col : Nat) (val : Val)
  /-- Step `j` of row instance `inst`. -/
  | row (inst j : Nat)
  | mmz (acc : Acc)
  | radv
  | pop (n : Nat)
  | epc (c : EpCfg)
  /-- A scale or bias vector, with its tangent planes. -/
  | vec (bias : Bool) (v : List Nat) (planes : List (Nat × List Nat))
  /-- The writes of an `epw`, and the tiles it pops. -/
  | epw (bsel : Nat) (pieces : List Piece) (pops : Nat)
  | fctx (ctx : Nat)
  | wires (first : Nat) (planes : List (BitVec 256))
  | fxin (o : OpFx) (req : Nat)
  | fxout (bsel : Nat) (pieces : List Piece)
  | fpop (bsel : Nat) (pieces : List Piece)
  | fclrCtx (ctx : Nat)
  /-- A barrier arrival of record `key` (an element, or 256 for the step context). -/
  | arrive (key bar : Nat)
  | none
  deriving DecidableEq, Repr, Inhabited

/-- A result in flight: the counter position it is due at, the flags it raises there, and whether its entry has HOLD. -/
structure Flight where
  id : Nat
  due : Nat
  land : Land
  nflags : Nat := 0
  tflags : Nat := 0
  entry : Nat := 0
  unit : Nat := 0
  hold : Bool := false
  deriving DecidableEq, Repr, Inhabited

/-- An operand-memory slot's states (R266). -/
inductive SlotSt | free | empty | filling | full
  deriving DecidableEq, Repr, Inhabited

/-- An operand slot (R266): its 1,536 bytes as a table from byte offset, default 0. -/
structure OpSlot where
  st : SlotSt := .free
  sfmt : Nat := 0
  strict : Bool := false
  tz : Bool := false
  bytes : Tbl Byte := []
  deriving DecidableEq, Repr, Inhabited

/-- Modes of a ring tile: RING.STATE.HMODE (R279). -/
inductive TileMode | unset | f32 | w32 | s32
  deriving DecidableEq, Repr, Inhabited

/-- A ring tile: mode, extent, accumulators keyed row * 16 + column as integers (the FP32 word, or the INT32 value with
its guard bits), and the sticky overflow signs of R276 (1 positive, 2 negative). -/
structure Tile where
  mode : TileMode := .unset
  m : Nat := 0
  n : Nat := 0
  acc : Tbl Int := []
  gov : Tbl Nat := []
  deriving DecidableEq, Repr, Inhabited

/-- A row entry's instance (R274, R288): its bank and entry, its step count, the steps landed, whether it is unretired
(`active`), whether its last firing faulted and whether any did (R278), and the operand slots that steps fired and not
yet landed read, keyed by step. -/
structure RowInst where
  id : Nat
  bank : Nat
  entry : Nat
  lane : Nat
  row : OpRow
  sparse : Bool
  rep : Nat
  j : Nat
  done : Nat
  active : Bool
  code : Bool
  strictCode : Bool
  fault : Bool
  everFault : Bool
  reads : Tbl (List OpSlot)
  deriving DecidableEq, Repr, Inhabited

/-- A copy's stage. -/
inductive CopySt | queued | running | stopped | faulted
  deriving DecidableEq, Repr, Inhabited

/-- A copy descriptor (R320): counts and strides, dimension 0 first. -/
structure CopyDesc where
  saddr : Nat
  daddr : Nat
  pol : Nat
  pdef : Bool
  rm : Nat
  dfmt : Nat
  dims : List (Nat × Int × Int)
  deriving DecidableEq, Repr, Inhabited

/-- An entry of the copy engine's queue (R323): op 0 copy, 1 copyc, 2 fill, 3 prefetch, 4 wld. `sface` and `dface` are
the byte bases of its source and destination, `wins` the windows it translates by, and `next` the cycle its next bytes
may move. -/
structure CopyOp where
  id : Nat
  lane : Nat
  entry : Nat
  op : Nat
  sb : Nat
  db : Nat
  dop : Bool
  desc : CopyDesc
  vq : Nat
  wins : List Win
  sface : Nat
  dface : Nat
  st : CopySt
  outIdx : Nat
  chunk : Nat
  code : Bool
  strictCode : Bool
  next : Nat
  /-- The first output whose source bytes are not yet asked for. -/
  rdIdx : Nat := 0
  /-- What was asked for and not yet used: outputs, and the request that reads their source (0 for none). -/
  legs : List (Nat × Nat) := []
  /-- The cycle until which a translation keeps the next source bytes from being asked for (R151). -/
  rdNext : Nat := 0
  /-- A page under WBLK holds it until a REPLAY (R163). -/
  blocked : Bool := false
  /-- Bytes for DRAM lines that are not complete (R328). -/
  lines : List Piece := []
  /-- Operand slots it has touched (R322). -/
  touched : List Nat := []
  /-- Every output below this one is known to have been written (R325). -/
  low : Nat := 0
  /-- The cycle at which a stop of its block stops it (R325, R383). -/
  haltAt : Option Nat := none
  deriving DecidableEq, Repr, Inhabited

/-- States of a Felt context (R289). -/
inductive CtxSt | empty | loading | ready | bad
  deriving DecidableEq, Repr, Inhabited

/-- A Felt cell of a context: truth table, selectors and BAD bit (R289, R291). -/
structure Cell where
  tt : Nat := 0
  sel : List Nat := []
  bad : Bool := false
  deriving DecidableEq, Repr, Inhabited

/-- A load in flight (R292, R299); of a stopped one `due` counts the cycles it had still to wait. -/
structure FeltLoad where
  lane : Nat
  entry : Nat
  ctx : Nat
  bind : Nat
  base : Nat
  face : Nat
  first : Nat
  last : Nat
  next : Nat
  due : Nat
  stopped : Bool
  deriving DecidableEq, Repr, Inhabited

structure Felt where
  wires : Tbl (BitVec 256) := []
  ctxs : Tbl CtxSt := []
  cells : Tbl Cell := []
  active : Option Nat := none
  pendAct : Option Nat := none
  loads : List FeltLoad := []
  prog : Nat := 0
  deriving DecidableEq, Repr, Inhabited

/-- A barrier of a core (R353). -/
structure Bar where
  cnt : Nat := 0
  pend : Nat := 0
  pcnt : Nat := 0
  scope : Nat := 0
  waitg : Bool := false
  ph : Bool := false
  init : Bool := false
  owner : Nat := 0
  /-- Releases that the waiters have seen, and the phase as they see it (R355). -/
  rels : Nat := 0
  phv : Bool := false
  deriving DecidableEq, Repr, Inhabited

/-- An arrival whose result time has come and whose earlier accesses are not yet performed at the scope (R354). -/
structure Arrival where
  id : Nat
  lane : Nat
  key : Nat
  bar : Nat
  entry : Nat
  deriving DecidableEq, Repr, Inhabited

/-- A memory request of a port tile or a step (R184): its pieces, when it reaches its bank and with which priority, and
whether its reply has come. `unit` is the port tile, or 255 for a step; `mask` the guarded lanes, `indexed` an `ldg`,
`hold` the HOLD bit of its entry, `store` a write, `late` that it comes in a late flit, `ecc` a reserved tag. -/
structure Req where
  id : Nat
  lane : Nat
  unit : Nat
  entry : Nat
  pieces : List Piece
  ty : LTy
  pol : Option Nat
  rm : RMode
  size : Nat
  mask : Nat
  arr : Nat
  prio : Nat
  spad : Bool
  ready : Bool := false
  readyAt : Nat := 0
  store : Bool := false
  atomic : Bool := false
  indexed : Bool := false
  hold : Bool := false
  late : Bool := false
  ecc : Bool := false
  /-- Replies on their way over the links. -/
  away : Nat := 0
  /-- The firing an engine's write belongs to. -/
  src : Nat := 0
  deriving DecidableEq, Repr, Inhabited

/-- A contribution in a slot's reduction buffer, in counter order (R360, R361): location, type, mode, lane value. -/
structure Partial where
  unit : Nat
  entry : Nat
  pa : Nat
  ty : FTy
  rm : RMode
  bits : Nat
  key : Nat
  ful : Bool
  scope : Nat
  workid : Nat
  fgroup : Nat
  deriving DecidableEq, Repr, Inhabited

/-- A core: owners and timed lists of its units (lists keyed unit * 2 + bank, owners slot + 1, default 0), tiles,
operand memory, ring, epilogue, copy engine, Felt, barriers, requests and the core TLB. -/
structure Core where
  owner : Tbl Nat := []
  lists : Tbl (List Nat) := []
  /-- The image each list was loaded from, one more than its index, keyed as the lists. -/
  srcs : Tbl Nat := []
  elems : Tbl Elem := []
  ports : Tbl PortTile := []
  gens : Tbl GenTile := []
  north : Tbl EdgeLatch := []
  south : Tbl EdgeLatch := []
  opm : Tbl OpSlot := []
  ring : Tbl Tile := []
  head : Nat := 0
  tail : Nat := 0
  full : Nat := 0
  rows : List RowInst := []
  epc : Option EpCfg := none
  scale : List Nat := []
  bias : List Nat := []
  /-- Tangent planes of the bias vector (R263). -/
  biasT : Tbl (List Nat) := []
  /-- Row steps whose result time has come: instance and step. -/
  landing : List (Nat × Nat) := []
  copies : List CopyOp := []
  prog : Nat := 0
  chunk : Nat := 0
  felt : Felt := {}
  bars : Tbl Bar := []
  arrivals : List Arrival := []
  reqs : List Req := []
  tlb : List TlbEnt := []
  /-- The translations of the pages that the copy at work is on, of its source and of its destination (R153). -/
  srcXl : List TlbEnt := []
  dstXl : List TlbEnt := []
  /-- Scratchpad banks the engines took in this cycle (R311). -/
  taken : List Nat := []
  deriving DecidableEq, Repr, Inhabited

/-! ## Lanes: a region slot with its step context (R168 to R190) -/

/-- Bank states of RGN.STATE (R168). -/
inductive BankSt | empty | loading | ready
  deriving DecidableEq, Repr, Inhabited

/-- A bank of a region slot: state, the image header loaded into it, and R385's DIRTY bit. -/
structure Bank where
  st : BankSt := .empty
  rows : Nat := 0
  cols : Nat := 0
  ii : Nat := 1
  frameInt : Nat := 1
  afgar : Bool := false
  img : Nat := 0xFFFF
  dirty : Bool := false
  readyAt : Nat := 0
  deriving DecidableEq, Repr, Inhabited

/-- An entry of the loop stack (R178); `src` is the step that pushed it. -/
structure LoopEnt where
  src : Nat
  start : Nat
  last : Nat
  n : Nat
  deriving DecidableEq, Repr, Inhabited

/-- What a step context is doing (R173). -/
inductive SeqSt
  | idle
  | run
  /-- A step waits since the cycle given. -/
  | wait (since : Nat)
  /-- A loop of count 0 idles for so many own cycles. -/
  | skip (left last : Nat)
  /-- A step faulted and its context is stopped. -/
  | faulted
  /-- The context is stopped: its block is stopped, halted or retired. -/
  | stopped
  deriving DecidableEq, Repr, Inhabited

/-- Kinds of release on a lane (R116, R379). -/
inductive RelKind | firm | fallback | elastic
  deriving DecidableEq, Repr, Inhabited

/-- A table entry as installed (R115), placed. -/
structure Entry where
  idx : Nat
  mode : Nat
  workid : Nat
  lane : Nat
  vregion : Nat
  start : Nat
  deadline : Nat
  fbend : Nat
  block : Nat
  fblock : Nat
  dw : Nat
  elastic : Bool
  optim : Bool
  ovpol : Nat
  ovmode : Nat
  shared : Bool
  fgroup : Nat
  seedsel : Nat
  ctroff : Nat
  ctrlen : Nat
  resv : Option Resv
  ovr : Nat := 0
  deriving DecidableEq, Repr, Inhabited

/-- The current or last release of a lane (R382, R400). `pubs` are the buffers published and `wrote` those written
since their last pub. -/
structure Release where
  entry : Entry
  kind : RelKind
  block : Nat
  start : Nat
  fstart : Nat
  mode : Nat
  pidx : Nat
  period : Nat
  stops : Nat := 0
  held : Nat := 0
  retries : Tbl Nat := []
  overran : Bool := false
  killed : Bool := false
  wrote : List Nat := []
  published : Option Bool := none
  publishedBufs : List Nat := []
  primFlags : Nat × Nat := (0, 0)
  deriving DecidableEq, Repr, Inhabited

/-- Whether a lane's elastic block is being stopped or restored. -/
inductive Stop
  | none
  /-- Its stop falls due at the next tick (R383). -/
  | due (why : StopWhy)
  /-- Stopping, and saving in the tick given (R383, R384). -/
  | saving (tick_ : Nat) (why : StopWhy)
  /-- Restoring until the cycle given (R387). -/
  | restoring (until_ : Nat)
  deriving DecidableEq, Repr, Inhabited

/-- A captured face of a binding (R334, R381). -/
structure Capture where
  face : Nat := 0
  pstat : Bool := false
  deriving DecidableEq, Repr, Inhabited

/-- A lane. -/
structure Lane where
  q : Tbl W64 := []
  sp : Nat := 0
  loops : List LoopEnt := []
  arm : Option (Nat × Nat) := none
  seq : SeqSt := .idle
  prog : List Nat := []
  nextProg : List Nat := []
  fbProg : List Nat := []
  org : Nat × Nat := (0, 0)
  nflags : Nat := 0
  tflags : Nat := 0
  banks : Tbl Bank := []
  act : Nat := 0
  armed : Bool := false
  frozen : Bool := false
  run : Bool := false
  faultHold : Bool := false
  /-- The cycle from which a faulted region thaws, and from which a faulted step counts as completed (R372, R375); 0 none. -/
  thawAt : Nat := 0
  stepAt : Nat := 0
  /-- Faulted entries to fire again: unit (255 a step), entry, tick (R373); `refire` that they do so now. -/
  retry : List (Nat × Nat × Nat) := []
  refire : Bool := false
  /-- A kill or restart decided for the release with this start: its start, its fallback's start (R374). -/
  doom : List (Nat × Nat) := []
  /-- No step issues before this cycle. -/
  goAt : Nat := 0
  halted : Bool := false
  /-- A debugger lets the halted region's counter go on by one counter cycle (R99). -/
  nudge : Bool := false
  intdone : Nat := 0
  blockInt : Nat := 0
  ccyc : Nat := 0
  pos : Nat := 0
  base : Nat := 0
  trips : Nat := 0
  startAt : Nat := 0
  ended : Bool := false
  fired : Bool := false
  /-- The counter stands still throughout this cycle: frozen, halted, stopped or restoring, or its die is not running. -/
  still : Bool := false
  substep : Nat := 0
  frameLeft : Nat := 0
  awaitFrame : Bool := false
  arrived : Bool := false
  waitGen : Nat := 0
  flights : List Flight := []
  hwin : List Win := []
  cwin : List Win := []
  caps : Tbl Capture := []
  barLink : Nat × Nat := (1, 2)
  recs : Tbl ArrRec := []
  rel : Option Release := none
  stop : Stop := .none
  partials : List Partial := []
  mxHold : Nat := 0
  fwdWrites : List Nat := []
  ovtot : Nat := 0
  budget : Tbl Nat := []
  /-- The entry, by its key, whose step 0 the table unit has performed ahead of its start (R172). -/
  prefetched : Option Nat := none
  /-- The address of a step's store that a blocked page holds until a REPLAY (R163). -/
  blockedVa : Option Nat := none
  retired : Bool := false
  fenceAt : Option Nat := none
  /-- A `pub` under way: the accesses it waits for, and when its MERGE copy ends (R335). -/
  pubSt : Option (Nat × Option Nat) := none
  /-- The bytes a `spawn` has read (R176). -/
  spawnBuf : List Byte := []
  /-- FACE is to be captured at the counter cycle 0 at which the counter stands (R334). -/
  capNew : Bool := false
  /-- PSTAT as last captured through each binding of the block (R381). -/
  fb : Tbl Bool := []
  /-- The elastic release that runs here. -/
  erun : Option Nat := none
  heldReq : Option Nat := none
  /-- Translations awaited at issue, by unit: address and the cycle they stand (R151, R152). -/
  xl : Tbl (Nat × Nat) := []
  /-- What the block is suspended on when it is stopped for a page or an image (R157, R167). -/
  suspVa : Nat := 0
  suspImg : Nat × Nat := (0, 0)
  deriving DecidableEq, Repr, Inhabited

/-- What the save frame of a stopped block keeps (R385): its step and region state, and the state of the units it owns. -/
structure Saved where
  frame : Nat
  since : Nat
  lane : Lane
  core : Core
  deriving DecidableEq, Repr, Inhabited

/-- A released elastic entry (R116, R117): its release, what it is suspended on, its saved state, and whether a mode
without its entry is in force (R120). -/
structure ERel where
  id : Nat
  entry : Entry
  rel : Release
  page : Option Nat := none
  image : Option (Nat × Nat) := none
  absent : Bool := false
  saved : Option Saved := none
  deriving DecidableEq, Repr, Inhabited

/-! ## Dies -/

/-- The trace of D1 (R99, R390): code, tick, lane, counter cycle. -/
structure TraceEv where
  code : Nat
  tick : Nat
  lane : Nat
  ccyc : Nat
  deriving DecidableEq, Repr, Inhabited

/-- A resident region image in partition 15 (R164). -/
structure Resident where
  cont : Nat
  img : Nat
  offset : Nat
  size : Nat
  deriving DecidableEq, Repr, Inhabited

/-- A compute die. -/
structure Die where
  power : Power := .run
  /-- The requested power state, and the cycle its request arrived in (R101, R104). -/
  powerReq : Option Power := none
  reqAt : Nat := 0
  /-- A change to RUN under way, and the cycle the last change is complete in (R101). -/
  waking : Bool := false
  reachAt : Nat := 0
  debug : Nat := 0
  d1 : Bool := false
  thermalWarn : Bool := false
  flrReset : Bool := false
  /-- One more than the cycle of the table unit's last fault decision (R375). -/
  decided : Nat := 0
  lost : Bool := false
  hotThresh : Nat := 256
  /-- The four junction-temperature sensors as they stand (R12). -/
  temps : List Int := []
  trace : List TraceEv := []
  tlb : List TlbEnt := []
  saves : List (Nat × Nat × Nat) := []
  bist : Bool := true
  dramTrain : Bool := true
  deriving DecidableEq, Repr, Inhabited

/-! ## The table unit and the port dies -/

/-- A window record set and root of an address space (R142). -/
structure Space where
  root : Nat := 0
  wins : List Win := []
  deriving DecidableEq, Repr, Inhabited

/-- A buffer of a running work: face and PSTAT as each die sees them, and what it has pending (R332, R335, R381). -/
structure BufSt where
  workid : Nat
  id : Nat
  faces : Tbl Nat := []
  pstats : Tbl Bool := []
  pending : Bool := false
  deriving DecidableEq, Repr, Inhabited

/-- A hierarchy level of a launch record (R121). -/
structure Level where
  domain : Nat
  scope : Nat
  policy : Nat
  count : Nat
  deriving DecidableEq, Repr, Inhabited

/-- A seed record (R121). -/
structure Seed where
  seed : Nat
  first : Nat
  last : Nat
  shared : Bool
  deriving DecidableEq, Repr, Inhabited

/-- A parsed launch record. -/
structure Launch where
  digest : Nat
  tset : Nat
  dies : Nat
  nlevel : Nat
  modes : Nat
  phase : Nat
  budget : Nat
  levels : List Level
  seeds : List Seed
  dmask : List Nat
  cmode : Nat
  deriving DecidableEq, Repr, Inhabited

/-- A reduction tree: MAN.RTREE (R362). -/
structure Tree where
  workid : Nat
  fgroup : Nat
  nvd : Nat
  cmask : List Nat
  smask : List Nat
  deriving DecidableEq, Repr, Inhabited

/-- A running work: its launch, placement (virtual die to die; virtual die * 16 + virtual core to core) and entries. -/
structure Work where
  workid : Nat
  parent : Nat
  cont : Nat
  launch : Launch
  vmap : List Nat
  cmap : Tbl Nat
  entries : List Entry
  points : List (Nat × List Nat)
  firstPeriod : Nat
  ending : Bool := false
  /-- Its record's place in the relocation table (R130). -/
  slot : Nat := 0
  deriving DecidableEq, Repr, Inhabited

/-- The active table set (R111). -/
structure TSet where
  num : Nat
  a : Nat
  period : Nat
  mode : Nat
  dies : Nat
  keyGen : Nat
  version : Nat
  /-- The tick under way is one of its mode-change points (R118, R405). -/
  atPoint : Bool := false
  /-- Its last work has ended: the set ends with the next tick (R112). -/
  ending : Bool := false
  deriving DecidableEq, Repr, Inhabited

/-- A pending mode request (R118): source 1 overrun, 2 step, 3 Reed core. -/
structure ModeReq where
  mode : Nat
  src : Nat
  tick : Nat
  die : Nat
  core : Nat
  order : Nat
  workid : Nat
  deriving DecidableEq, Repr, Inhabited

/-- An item of the I/O stream (R121): a launch packet or a mailbox command, and its decision tick. -/
structure Item where
  id : Nat
  packet : Option (List Byte)
  slot : Nat
  tag : Nat
  cmd : Option Cmd
  accepted : Nat
  decision : Option Nat
  pretrans : Option Bool := none
  deriving DecidableEq, Repr, Inhabited

/-- A command acted on and not yet complete (INVAL, RESIDE, RESYNC, PIN ...). -/
structure Pend where
  id : Nat
  slot : Nat
  tag : Nat
  cmd : Cmd
  when_ : Nat
  result : Nat
  status : Nat
  deriving DecidableEq, Repr, Inhabited

/-- A fault event (R369): lane, unit, entry, position, code, INFO, when, and whether it is precise, of a step, or was
raised after its entry fired. `mates` are the units and entries that faulted in the same cycle. -/
structure FaultEv where
  id : Nat
  lane : Nat
  unit : Nat
  entry : Nat
  pos : Nat
  code : Nat
  info : Nat
  time : Nat
  intv : Nat
  ccyc : Nat
  precise : Bool
  step : Bool
  late : Bool
  workid : Nat
  block : Nat
  relStart : Nat
  relFstart : Nat
  pidx : Nat
  mode : Nat
  fb : Bool
  el : Bool
  mates : List (Nat × Nat × Nat × Nat × Nat)
  decideAt : Nat
  deriving DecidableEq, Repr, Inhabited

/-- A flip (R335, R336): when its `pub` completed, its publish point, or none while that is the next event of frame
group `group`, and the dies that have still to see it. -/
structure Flip where
  id : Nat
  workid : Nat
  buf : Nat
  lane : Nat
  group : Nat
  pkScope : Bool
  pstat : Bool
  done : Nat
  when_ : Option Nat
  dies : List Nat
  deriving DecidableEq, Repr, Inhabited

/-- A frame group of a work (R349): the time of its next event, its events so far, the sequencer contexts that have
arrived, and whether an arrival has been made since the last event. -/
structure Group where
  workid : Nat
  g : Nat
  event : Option Nat := none
  last : Nat := 0
  evAt : Nat := 0
  count : Nat := 0
  steps : List Nat := []
  made : Bool := false
  deriving DecidableEq, Repr, Inhabited

/-- A round of a linked barrier (R355). -/
structure Round where
  id : Nat
  bar : Nat
  scope : Nat
  inst : Nat
  pcnt : Nat
  cores : List Nat
  last : Nat
  due : Option Nat
  bad : Bool
  deriving DecidableEq, Repr, Inhabited

/-- Who sent a write in transit. -/
inductive Sender
  | port (core port ent : Nat)
  | copy (core id : Nat)
  | epw (core id : Nat)
  | felt (core id : Nat)
  | step (lane : Nat)
  deriving DecidableEq, Repr, Inhabited

/-- A write sent to its home and not yet arrived (R134, R312, R342): its home die (4 and 5 are port dies), the cycle it
arrives, its bytes, and whether it is held in the sending die's outbound stage, which answers the die's own reads. -/
structure Flit where
  id : Nat
  src : Nat
  dst : Nat
  posted : Nat
  due : Nat
  staged : Bool
  sender : Sender
  lane : Nat
  pieces : List Piece
  /-- Bytes that later flits of its route have already delivered (R135). -/
  overtaken : List Nat := []
  deriving DecidableEq, Repr, Inhabited

/-- What the flits of a message carry: a write (by its identity), a request for data to its home, the reply to one, data
to or from host memory, whose accesses have times of their own (R394), or the I/O network's own traffic (R137). -/
inductive Cargo
  | write (flit : Nat)
  | ask (core req : Nat)
  | answer (core req : Nat)
  | host
  | control
  deriving DecidableEq, Repr, Inhabited

/-- The flits of one message on the route from `src` to `dst` (R13, R134, R137): `n` in all, `left` of them still to be
carried over hop `hop`, where they wait from slot `slot` on; `due` is the tick from which the message can be read at `dst`
once its last hop is made; `late` that it was held beyond the bound of R134. -/
structure Train where
  id : Nat
  src : Nat
  dst : Nat
  lane : Nat
  n : Nat
  left : Nat
  hop : Nat
  slot : Nat
  due : Option Nat
  late : Bool
  cargo : Cargo
  deriving DecidableEq, Repr, Inhabited

/-- An access of the unreserved share that awaits its slots on a DRAM channel (R315). -/
structure DramWait where
  core : Nat
  slots : Nat
  cargo : Cargo
  deriving DecidableEq, Repr, Inhabited

/-- The reserved turn of a lane on a DRAM channel (R316): the tick whose slots it has come to, how many of them it has
taken, and its DSLOTS. -/
structure DramTurn where
  tick : Nat := 0
  used : Nat := 0
  cap : Nat := 0
  deriving DecidableEq, Repr, Inhabited

/-- The wheel of a DRAM channel (R315): the lanes' reserved turns; the tick up to which unreserved slots are counted and
those used in it; what waits; and the core served last. -/
structure DramCh where
  turns : Tbl DramTurn := []
  tick : Nat := 0
  used : Nat := 0
  waits : List DramWait := []
  last : Nat := 0
  deriving DecidableEq, Repr, Inhabited

/-- A record posted and not yet handed to its queue (R402): its tick, its die, whether it is a HOT record, its bytes. -/
structure Rec where
  tick_ : Nat
  die : Nat
  hot : Bool
  bytes : List Byte
  deriving DecidableEq, Repr, Inhabited

/-- A reporting queue (R401, R402). `soon` are the records posted, in the order they are to reach it. -/
structure Queue where
  soon : List Rec := []
  base : Nat := 0
  size : Nat := 0
  head : Nat := 0
  tail : Nat := 0
  lost : Nat := 0
  staged : List (List Byte) := []
  drops : Nat := 0
  irqs : Nat := 0
  deriving DecidableEq, Repr, Inhabited

/-- A home's record of an applied atomic (R359): source lane and port, tag, old value. -/
structure Applied where
  core : Nat
  port : Nat
  lane : Nat
  tag : Nat
  old : List Byte
  deriving DecidableEq, Repr, Inhabited

/-- A DMA transfer of a port die (R347, R396). -/
structure Dma where
  engine : Nat
  src : Nat
  dst : Nat
  n : Nat
  refused : Bool
  deriving DecidableEq, Repr, Inhabited

/-- A host function (R97, R98, R407). -/
structure HostFn where
  responds : Bool := true
  version : Bool := false
  caps : Bool := false
  algs : Bool := false
  session : Option Nat := none
  finished : Bool := false
  keyPub : Nat := 0
  transcript : Nat := 0
  ide : Tbl Nat := []
  tdi : Tdi := .configUnlocked
  replies : List (List Byte) := []
  deriving DecidableEq, Repr, Inhabited

/-- The state of gPTP discipline: STATE of PTIME.STAT (R107 to R109). -/
structure PTime where
  epoch : Nat := 0
  st : Nat := 0
  far : Bool := false
  gmchg : Bool := false
  rate : Int := 0
  synced : Bool := false
  gm : Nat := 0
  good : Nat := 0
  lastSync : Nat := 0
  port : Option Nat := none
  prios : Tbl (Nat × Nat) := []
  delays : Tbl Nat := []
  deriving DecidableEq, Repr, Inhabited

/-- A line of the Crown's log. -/
inductive LogEv
  | supplyFault
  | slotFailed (slot : Nat)
  | imageFailed (kind : Nat)
  | quarantine
  | mapOut (die : Nat)
  | contRejected (contId : Nat) (first : Viol)
  | contFailed (contId check : Nat)
  | tokenRefused (reason : Nat)
  | serviceTokenFailed
  | haltRefused (lane : Nat)
  | imageSvn (kind svn : Nat)
  | pd0Failed
  deriving DecidableEq, Repr, Inhabited

/-- A notification of the Crown to the Reed cores. -/
inductive Notice
  | thermal (die : Nat)
  | far
  | gmchg
  deriving DecidableEq, Repr, Inhabited

/-- What a debug request answers (R99, R103): its refusal; D1's table trace and the overrun counters of the die's lanes;
a register or bytes read; the Crown's log. -/
inductive DebugReply
  | refused (die : Nat)
  | trace (die : Nat) (evs : List TraceEv) (counters : List Nat)
  | value (v : V128)
  | bytes (bs : List Byte)
  | log (l : List LogEv)
  deriving DecidableEq, Repr, Inhabited

/-- The Crown and the package: R14, R87 to R106. Security states are coded as MAN.STATE.SEC: 0 FIELD, 1 SERVICE,
2 DEVELOPMENT, 3 QUARANTINE. -/
structure Crown where
  up : Bool := false
  sec : Nat := 0
  live : Nat := 0
  portLive : Nat := 0
  mapped : Bool := false
  fssvn : Nat := 0
  modeChg : Nat := 0
  dbgHi : Nat := 0
  intervened : Bool := false
  tamper : Bool := false
  lifecycleBlown : Bool := true
  bootCount : Nat := 0
  slotA : List Byte := []
  slotB : List Byte := []
  recovery : List Byte := []
  token : List Byte := []
  usedSlot : Nat := 0
  crownDebug : Nat := 0
  /-- D2 grants of FIELD that wait for a mode-change point: the die and the cycle the token arrived in (R104, R105). -/
  d2Pending : List (Nat × Nat) := []
  /-- The attestation keys are held, and the digest of the first stage they are derived from (R90, R93). -/
  attest : Bool := false
  stage : List Byte := []
  pd0Ok : Bool := true
  pd1Ok : Bool := true
  /-- Reed firmware that recovery has written to boot flash (R90). -/
  firmware : List Byte := []
  /-- The signed DRAM training results in boot flash (R91). -/
  training : List Byte := []
  /-- The links of R13, by their places, that fail training at this start (R133); the environment's. -/
  badLinks : List Nat := []
  /-- What debug requests have answered. -/
  debugOut : List DebugReply := []
  /-- Notifications to the Reed cores that have no record layout (R12, R109). -/
  notices : List Notice := []
  log : List LogEv := []
  rebootAsked : Bool := false
  deriving DecidableEq, Repr, Inhabited

/-- What an agent of a port die is answered (R14, R139, R347, R403): bytes read, or PERMISSION. -/
inductive Answer
  | bytes (bs : List Byte)
  | permission
  deriving DecidableEq, Repr, Inhabited

/-- A mailbox slot (R403). -/
structure MSlot where
  busy : Bool := false
  tag : Nat := 0
  cmd : Option Cmd := none
  deriving DecidableEq, Repr, Inhabited

/-! ## The machine -/

/-- What the machine does next within the current cycle. -/
inductive Todo
  /-- A lane's sequencer issues the step at its step pointer. -/
  | issue (lane : Nat)
  /-- Entry `idx` of the timed list of `unit` fires for `lane`. -/
  | fire (lane unit idx : Nat)
  /-- An event of the opcode table happens. -/
  | event (i : Instr)
  deriving DecidableEq, Repr, Inhabited

/-- Which lane, unit and entry the instruction under way belongs to; `retry` marks a firing made again (R373). -/
structure Cursor where
  lane : Nat := 0
  unit : Nat := 0
  idx : Nat := 0
  deriving DecidableEq, Repr, Inhabited

/-- The whole machine. -/
structure State where
  /-- Arithmetic cycles since the rising edge of PWRGOOD; the tick is now / 120 (R4, R107). -/
  now : Nat
  phase : Nat
  agenda : List Todo
  cur : Cursor
  /-- Events due at a cycle, in order of posting. -/
  evq : List (Nat × Instr)
  /-- What agents outside the compute dies will do, and when: the world's stimulus as data. -/
  inputs : List (Nat × Instr)
  /-- The model's own counter of free values. -/
  freeCtr : Nat
  nextId : Nat
  powered : Bool
  /-- Every supply rail has been within tolerance for the time R9 asks; the environment's. -/
  rails : Bool
  /-- Every DRAM channel is in self-refresh (R102). -/
  selfRefresh : Bool
  /-- Every memory-and-link domain is unpowered (R102). -/
  memOff : Bool
  /-- Physical memory: DRAM, buffers, weight stores, scratchpads, host memory (R138). -/
  mem : List Host.Cell
  /-- Fulling tag of each DRAM line, default RAW (R317). -/
  tags : Tbl Nat
  /-- The key each DRAM line was written under, default 0 none (R319). -/
  lineKeys : Tbl Nat
  /-- DRAM slots used, read and written: the counts R318 charges. -/
  dramSlots : Nat
  crown : Crown
  ptime : PTime
  dies : Tbl Die
  cores : Tbl Core
  lanes : Tbl Lane
  conts : List Container
  resident : List Resident
  works : List Work
  tset : Option TSet
  keyGens : Nat
  spaces : Tbl Space
  bufs : List BufSt
  trees : List Tree
  /-- Released elastic entries, and the queue of each lane by their identities (R117). -/
  elastics : List ERel
  queues : Tbl (List Nat)
  modeReqs : List ModeReq
  stream : List Item
  /-- The decision tick of the last item of the I/O stream (R121). -/
  ioLast : Nat
  pends : List Pend
  lnchBuf : List (List Byte)
  mail : Tbl MSlot
  faults : List FaultEv
  flips : List Flip
  groups : List Group
  rounds : List Round
  flits : List Flit
  /-- For each late flit delivered and not yet read, its bytes that nothing has written since (R135). -/
  lateData : List (List Nat)
  /-- Messages on the die-to-die links, in the order they were posted (R134, R137). -/
  trains : List Train
  /-- The source die whose unreserved flit each link direction carried last (R137). -/
  linkLast : Tbl Nat
  /-- The wheels of the DRAM channels (R315). -/
  drams : Tbl DramCh
  applied : List Applied
  tagNext : Tbl Nat
  fq : Queue
  nq : Queue
  rq : Queue
  generation : Nat
  /-- Stores to the memories of a die in HOLD or PARK, until it runs again (R102). -/
  heldStores : List (Nat × List Byte)
  dmas : List Dma
  fns : Tbl HostFn
  /-- What the agents of the port dies have been answered, by mailbox slot: 0 to 15 Reed cores, 16 to 19 host functions. -/
  answers : List (Nat × Answer)
  /-- Loads of agents that await a die in HOLD or PARK (R102): slot, address, bytes. -/
  sleeping : List (Nat × Nat × Nat)
  deriving DecidableEq, Repr, Inhabited

/-- Why a step stops with a fault. The spec's own faults are no stops: they are fault events that the machine takes
(R368), so this type names only what no rule of the spec lets happen. -/
inductive Fault
  /-- Raised by `step` when a timed list or a program store holds a word that does not decode: safe. R57 says that no
  undecodable entry ever reaches a unit or a sequencer, so no rule says what would happen. -/
  | undecodable (unit word : Nat)
  /-- Raised by a port or engine entry whose block has no binding of the number it names: safe. R57, R72 and R321
  reject a container with such an entry, so no rule says what would happen. -/
  | unbound (unit : Nat)
  deriving DecidableEq, Repr

/-- Why a step is refused. -/
inductive Refusal
  /-- Raised by an arm of `exec` for an instruction that has no meaning yet: safe. -/
  | notModelled (mnemonic : String)
  deriving DecidableEq, Repr

/-- The machine at the rising edge of PWRGOOD: package time zero, every register at the value the spec gives, memory
and flash listing nothing, and the start of R89 the first thing to happen. -/
def State.reset : State :=
  { now := 0, phase := 0, agenda := [.event .pwrgood], cur := {}, evq := [], inputs := [], freeCtr := 0, nextId := 1,
    powered := true, rails := true, selfRefresh := false, memOff := false, mem := [], tags := [], lineKeys := [], dramSlots := 0, crown := {}, ptime := {}, dies := [],
    cores := [], lanes := [], conts := [], resident := [], works := [], tset := none, keyGens := 0, spaces := [],
    bufs := [], trees := [], elastics := [], queues := [], modeReqs := [], stream := [], ioLast := 0, pends := [], lnchBuf := [], mail := [],
    faults := [], flips := [], groups := [], rounds := [], flits := [], lateData := [], trains := [], linkLast := [], drams := [], applied := [], tagNext := [], fq := {},
    nq := {}, rq := {}, generation := 0, heldStores := [], dmas := [], fns := [], answers := [], sleeping := [] }

end Sys2Proof.Machine
end

