-- ==== Sys2Proof/Machine/Ops.lean ====
section
/-! DEFINITION. The named operations over the state: sparse tables, memory, lanes, cores and units, posting events and
records, and raising a fault (the one way this machine takes an exception, R368 to R375). -/

namespace Sys2Proof.Machine

open Host (Outcome)

/-! ## Sparse tables -/

/-- The entry of key `k`, or the default. -/
def tblGet {α : Type} (d : α) : Tbl α → Nat → α
  | [], _ => d
  | (j, v) :: t, k => if j = k then v else tblGet d t k

/-- The table without key `k`. -/
def tblDel {α : Type} : Tbl α → Nat → Tbl α
  | [], _ => []
  | (j, v) :: t, k => if j = k then tblDel t k else (j, v) :: tblDel t k

/-- Put a pair in key order. -/
def tblIns {α : Type} : Tbl α → Nat → α → Tbl α
  | [], k, v => [(k, v)]
  | (j, w) :: t, k, v => if k < j then (k, v) :: (j, w) :: t else (j, w) :: tblIns t k v

/-- The table with `v` at key `k`. -/
def tblPut {α : Type} (t : Tbl α) (k : Nat) (v : α) : Tbl α := tblIns (tblDel t k) k v

/-- The table with `v` at key `k`; the default is not listed, so that equal tables are equal data. -/
def tblSet {α : Type} [DecidableEq α] (d : α) (t : Tbl α) (k : Nat) (v : α) : Tbl α :=
  if v = d then tblDel t k else tblIns (tblDel t k) k v

/-! ## Memory -/

/-- What an address that the list does not name reads as. -/
def unlisted : Byte := 0

/-- The byte of memory at a physical address. -/
def memGet (m : List Host.Cell) (a : Nat) : Byte := tblGet unlisted m a

/-- Memory with byte `b` at address `a`. -/
def memSet (m : List Host.Cell) (a : Nat) (b : Byte) : List Host.Cell := tblSet unlisted m a b

/-- `n` bytes from address `a`. -/
def memRead (m : List Host.Cell) (a : Nat) : Nat → List Byte
  | 0 => []
  | n + 1 => memGet m a :: memRead m (a + 1) n

/-- Memory with the bytes from address `a`. -/
def memWrite (m : List Host.Cell) (a : Nat) : List Byte → List Host.Cell
  | [] => m
  | b :: bs => memWrite (memSet m a b) (a + 1) bs

/-- Memory without the bytes from `lo` to `hi - 1`: they read as unlisted. -/
def memDrop (m : List Host.Cell) (lo hi : Nat) : List Host.Cell := m.filter fun c => c.1 < lo || hi ≤ c.1

/-- The canonical form: addresses strictly rising and no byte that reads as an unlisted one. -/
def Memory.wf : List Host.Cell → Bool
  | [] => true
  | [(_, b)] => b != unlisted
  | (a, b) :: (c, x) :: t => b != unlisted && decide (a < c) && Memory.wf ((c, x) :: t)

/-! ## Lanes, cores, units -/

def coreOf (lane : Nat) : Nat := lane / 4
def slotOf (lane : Nat) : Nat := lane % 4
def dieOf (lane : Nat) : Nat := lane / 64
def laneOf (core slot : Nat) : Nat := core * 4 + slot

/-- The block is stopped, being saved or being restored. -/
def Lane.away (l : Lane) : Bool :=
  match l.stop with
  | .saving _ _ | .restoring _ => true
  | _ => false

/-- The key of an installed entry: its work, its mode and its index in that mode's fragment. Events name entries by it. -/
def entryKey (e : Entry) : Nat := e.workid * 2 ^ 24 + e.mode * 2 ^ 16 + e.idx

def uElem (row col : Nat) : Nat := row * 8 + col
def uPort (row : Nat) : Nat := 64 + row
def uGen (row : Nat) : Nat := 72 + row
def uEng (e : Nat) : Nat := 80 + e

def State.lane (s : State) (l : Nat) : Lane := tblGet {} s.lanes l
def State.core (s : State) (c : Nat) : Core := tblGet {} s.cores c
def State.die (s : State) (d : Nat) : Die := tblGet {} s.dies d

def State.setLane (s : State) (l : Nat) (x : Lane) : State := { s with lanes := tblPut s.lanes l x }
def State.setCore (s : State) (c : Nat) (x : Core) : State := { s with cores := tblPut s.cores c x }
def State.setDie (s : State) (d : Nat) (x : Die) : State := { s with dies := tblPut s.dies d x }

def State.modLane (s : State) (l : Nat) (f : Lane → Lane) : State := s.setLane l (f (s.lane l))
def State.modCore (s : State) (c : Nat) (f : Core → Core) : State := s.setCore c (f (s.core c))
def State.modDie (s : State) (d : Nat) (f : Die → Die) : State := s.setDie d (f (s.die d))

def Core.elem (c : Core) (u : Nat) : Elem := tblGet {} c.elems u
def Core.setElem (c : Core) (u : Nat) (e : Elem) : Core := { c with elems := tblPut c.elems u e }
def Core.port (c : Core) (r : Nat) : PortTile := tblGet {} c.ports r
def Core.setPort (c : Core) (r : Nat) (p : PortTile) : Core := { c with ports := tblPut c.ports r p }
def Core.gen (c : Core) (r : Nat) : GenTile := tblGet {} c.gens r
def Core.setGen (c : Core) (r : Nat) (g : GenTile) : Core := { c with gens := tblPut c.gens r g }
def Core.slot (c : Core) (n : Nat) : OpSlot := tblGet {} c.opm n
def Core.setSlot (c : Core) (n : Nat) (x : OpSlot) : Core := { c with opm := tblPut c.opm n x }
def Core.tile (c : Core) (n : Nat) : Tile := tblGet {} c.ring n
def Core.setTile (c : Core) (n : Nat) (x : Tile) : Core := { c with ring := tblPut c.ring n x }
def Core.bar (c : Core) (n : Nat) : Bar := tblGet {} c.bars n
def Core.setBar (c : Core) (n : Nat) (x : Bar) : Core := { c with bars := tblPut c.bars n x }
def Core.list (c : Core) (u bank : Nat) : List Nat := tblGet [] c.lists (u * 2 + bank)
def Core.setList (c : Core) (u bank : Nat) (x : List Nat) : Core := { c with lists := tblPut c.lists (u * 2 + bank) x }
/-- The image a unit's list came from: none where no load has filled it. -/
def Core.srcOf (c : Core) (u bank : Nat) : Option Nat :=
  match tblGet 0 c.srcs (u * 2 + bank) with
  | 0 => none
  | n + 1 => some n
def Core.setSrc (c : Core) (u bank img : Nat) : Core := { c with srcs := tblPut c.srcs (u * 2 + bank) (img + 1) }
/-- The slot that owns a unit (R169). -/
def Core.ownedBy (c : Core) (u slot : Nat) : Bool := tblGet 0 c.owner u == slot + 1

def Lane.bank (l : Lane) (b : Nat) : Bank := tblGet {} l.banks b
def Lane.setBank (l : Lane) (b : Nat) (x : Bank) : Lane := { l with banks := tblPut l.banks b x }
/-- The active bank's header (R168). -/
def Lane.hdr (l : Lane) : Bank := l.bank l.act
def Lane.getQ (l : Lane) (r : Nat) : W64 := tblGet 0 l.q r
def Lane.setQ (l : Lane) (r : Nat) (v : W64) : Lane := { l with q := tblPut l.q r v }

/-- The drone width in planes of a DW code (R115). -/
def planesOf (dw : Nat) : Nat := if dw = 3 then 4 else dw
def Lane.width (l : Lane) : Nat := (l.rel.map fun r => planesOf r.entry.dw).getD 0

/-- The three figures R246 gives for a drone width: k(w), M(w), T(w). -/
def stretch (w : Nat) : Nat := if w = 2 then 2 else if w = 4 then 4 else 1
def slotLimit (w : Nat) : Nat := if w = 0 then 256 else if w = 1 then 128 else if w = 2 then 64 else 32
def tileLimit (w : Nat) : Nat := if w = 0 then 32 else if w = 1 then 16 else if w = 2 then 8 else 4

/-- The tick of the current cycle (R4, R107). -/
def State.tick (s : State) : Nat := s.now / 120

/-- A number not given out before. -/
def State.fresh (s : State) : Nat × State := (s.nextId, { s with nextId := s.nextId + 1 })

/-- The next reading of a free value. -/
def State.free (s : State) : Nat × State := (s.freeCtr, { s with freeCtr := s.freeCtr + 1 })

/-! ## Live dies, hops and times -/

/-- The live compute dies in ascending order (R92). -/
def State.live (s : State) : List Nat := (List.range 4).filter fun d => s.crown.live.testBit d

def isLive (s : State) (d : Nat) : Bool := if d < 4 then s.crown.live.testBit d else s.crown.portLive.testBit (d - 4)

/-- The links of R13; dies 4 and 5 are PD0 and PD1. -/
def links : List (Nat × Nat) := [(0, 1), (1, 3), (3, 2), (2, 0), (0, 4), (1, 4), (2, 5), (3, 5), (4, 5)]

def linked (a b : Nat) : Bool := links.contains (a, b) || links.contains (b, a)

/-- Routes of exactly `n` hops over live dies, in lexicographic order (R131). -/
def routesOf (s : State) : Nat → Nat → Nat → List (List Nat)
  | 0, a, b => if a = b then [[a]] else []
  | n + 1, a, b =>
    (List.range 6).flatMap fun c =>
      if linked a c && isLive s c then (routesOf s n c b).map (a :: ·) else []

/-- The route of R131 from `a` to `b`: the first of the shortest. A route back is the reverse, so it is found from the
lower-numbered end. -/
def route (s : State) (a b : Nat) : List Nat :=
  let f (x y : Nat) : List Nat :=
    (((List.range 6).map fun n => routesOf s n x y).find? (fun l => !l.isEmpty)).bind List.head? |>.getD []
  if a ≤ b then f a b else (f b a).reverse

/-- Hops of the route between two dies. -/
def hops (s : State) (a b : Nat) : Nat := (route s a b).length - 1

/-- The first cycle of a tick. -/
def tickStart (t : Nat) : Nat := t * 120

/-! ## Posting events -/

/-- Insert an event by time, after those of the same time. -/
def insertEv (t : Nat) (i : Instr) : List (Nat × Instr) → List (Nat × Instr)
  | [] => [(t, i)]
  | (u, j) :: r => if t < u then (t, i) :: (u, j) :: r else (u, j) :: insertEv t i r

/-- Let event `i` happen at cycle `t`. -/
def State.post (s : State) (t : Nat) (i : Instr) : State := { s with evq := insertEv t i s.evq }

/-- Let event `i` happen next within the current cycle. -/
def State.soon (s : State) (i : Instr) : State := { s with agenda := s.agenda ++ [.event i] }

/-! ## Records and queues (R401, R402) -/

/-- Little-endian fields in order: (bytes, value). -/
def packFields : List (Nat × Nat) → List Byte
  | [] => []
  | (n, v) :: r => leBytes n v ++ packFields r

def Queue.room (q : Queue) : Bool := q.size != 0 && (q.tail + 2 ^ 32 - q.head) % 2 ^ 32 != q.size

def satInc (n : Nat) : Nat := if n < 2 ^ 32 - 1 then n + 1 else n

/-- R402: records reach a queue by tick, then by die, then as posted. -/
def insertRec (r : Rec) : List Rec → List Rec
  | [] => [r]
  | x :: l => if r.tick_ < x.tick_ || (r.tick_ == x.tick_ && decide (r.die < x.die)) then r :: x :: l else x :: insertRec r l

/-- Bytes `off` to `off + n - 1` of a record. -/
def recField (bs : List Byte) (off n : Nat) : Nat := leNat ((bs.drop off).take n)

def State.postFq (s : State) (bs : List Byte) : State :=
  { s with fq := { s.fq with soon := insertRec { tick_ := recField bs 0x10 8, die := recField bs 8 1, hot := false, bytes := bs } s.fq.soon } }

def State.postRq (s : State) (bs : List Byte) : State :=
  { s with rq := { s.rq with soon := insertRec { tick_ := recField bs 0x18 8, die := recField bs 8 1, hot := false, bytes := bs } s.rq.soon } }

def State.postNq (s : State) (bs : List Byte) : State :=
  { s with nq := { s.nq with soon := insertRec { tick_ := recField bs 0x18 8, die := recField bs 1 1, hot := recField bs 0 1 == 0x20,
                                                  bytes := bs } s.nq.soon } }

/-- A notification record in the layout of R161. -/
def noteRec (kind die core tile workid status va heat deliv tick : Nat) : List Byte :=
  packFields [(1, kind), (1, die), (1, core), (1, tile), (2, workid), (1, status), (1, 0), (8, va), (4, heat), (4, deliv),
    (8, tick)]

/-- Post a notification. -/
def State.note (s : State) (kind die core tile workid status va heat deliv : Nat) : State :=
  s.postNq (noteRec kind die core tile workid status va heat deliv s.tick)

/-! ## Outcomes of a meaning -/

/-- The instruction runs, and this is the state it leaves. -/
abbrev Res := Outcome State Fault Refusal

/-! ## Faults (R368 to R370) -/

/-- The fault codes of R367. -/
inductive Code
  | illegalEntry | reservedCombo | imageAbsent | overrun | domainTag | convert | illegalCode | pageAbsent | permission
  | window | slotClaim | ring | barrier | eccUncorr | link | rngReuse | trap | security | weightWrite | felt | publish | overlap
  deriving DecidableEq, Repr

def Code.num : Code → Nat
  | .illegalEntry => 0x01 | .reservedCombo => 0x02 | .imageAbsent => 0x03 | .overrun => 0x04 | .domainTag => 0x05
  | .convert => 0x06 | .illegalCode => 0x07 | .pageAbsent => 0x08 | .permission => 0x09 | .window => 0x0A
  | .slotClaim => 0x0B | .ring => 0x0C | .barrier => 0x0D | .eccUncorr => 0x0E | .link => 0x0F | .rngReuse => 0x10
  | .trap => 0x11 | .security => 0x12 | .weightWrite => 0x13 | .felt => 0x14 | .publish => 0x15 | .overlap => 0x16

/-- How a fault is raised: by an entry as it fires, by an entry after its firing cycle (R368), by a step, or
asynchronously. -/
inductive How | entry | late | step | async
  deriving DecidableEq, Repr

/-- POS of a fault record: [5:3] row and [2:0] column relative to the region's origin; the tile row for tiles. -/
def posOf (org : Nat × Nat) (unit : Nat) : Nat :=
  if unit < 64 then (unit / 8 - org.1) * 8 + (unit % 8 - org.2)
  else if unit < 80 then unit % 8 - org.1 else 0

/-- UNIT of a fault record (R370). -/
def unitCode (unit : Nat) : Nat :=
  if unit < 64 then 0 else if unit < 72 then 1 else if unit < 80 then 2 else if unit < 84 then 3 + (unit - 80) else 7

/-- Raise a fault: the machine's one way of taking an exception. An entry's or step's own effect is left out by its
meaning; here the region freezes from the next cycle (a step's context stops instead, and an asynchronous fault
freezes nothing), and the table unit's decision is due 8 cycles later (R368, R375). Faults of one region in one cycle
join one event (R369). -/
def raiseAt (s : State) (lane unit entry : Nat) (c : Code) (info : Nat) (how : How) : State :=
  let l := s.lane lane
  let joins (e : FaultEv) : Bool :=
    e.lane == lane && e.time == s.now && e.precise && !e.step && (how == .entry || how == .late)
  if s.faults.any joins then
    { s with faults := s.faults.map fun e =>
        if joins e then { e with mates := e.mates ++ [(unit, entry, posOf l.org unit, c.num, info)] } else e }
  else
    let id := s.nextId
    let ev : FaultEv :=
      { id, lane, unit, entry, pos := posOf l.org unit, code := c.num, info, time := s.now, intv := l.intdone,
        ccyc := if l.run then l.ccyc else 0, precise := how != .async, step := how == .step, late := how == .late,
        workid := (l.rel.map (·.entry.workid)).getD 0xFFFF, block := (l.rel.map (·.block)).getD 0xFFFF,
        relStart := (l.rel.map (·.start)).getD 0, relFstart := (l.rel.map (·.fstart)).getD 0,
        pidx := (l.rel.map (·.pidx)).getD 0, mode := (s.tset.map (·.mode)).getD 0,
        fb := (l.rel.map fun r => r.kind == .fallback).getD false, el := (l.rel.map (·.entry.elastic)).getD false,
        mates := [], decideAt := s.now + 8 }
    let s := { s with nextId := id + 1, faults := s.faults ++ [ev] }
    let s := match how with
      | .entry | .late => s.modLane lane fun l => { l with faultHold := true }
      | .step => s.modLane lane fun l => { l with seq := .faulted }
      | .async => s
    s.post (s.now + 8) (.faultDecision id)

/-- Raise a precise fault at the entry under way. -/
def raise (s : State) (c : Code) (info : Nat := 0) : State := raiseAt s s.cur.lane s.cur.unit s.cur.idx c info .entry

/-- Raise a precise fault at the step under way. -/
def raiseStep (s : State) (c : Code) (info : Nat := 0) : State :=
  raiseAt s s.cur.lane 255 (s.lane s.cur.lane).sp c info .step

/-! ## Results in flight (R184, R187) -/

/-- Send a result that lands `latency` counter cycles later. -/
def sendAt (s : State) (lane unit entry latency : Nat) (nf tf : Nat) (x : Land) (hold : Bool := false) : State :=
  let l := s.lane lane
  State.setLane { s with nextId := s.nextId + 1 } lane
    { l with flights := l.flights ++
        [{ id := s.nextId, due := l.pos + latency, land := x, nflags := nf, tflags := tf, entry, unit, hold }] }

/-- Send a result of the entry under way. -/
def send (s : State) (latency nf tf : Nat) (x : Land) (hold : Bool := false) : State :=
  sendAt s s.cur.lane s.cur.unit s.cur.idx latency nf tf x hold

end Sys2Proof.Machine
end

