-- ==== Sys2Proof/Machine/Crypto.lean ====
section
/-! DEFINITION. The published algorithms that the rules fix by name (02_container.md R27, 05_crown.md R88, R93, R97):
SHA-512 of FIPS 180-4, SHAKE of FIPS 202, Ed25519 of RFC 8032 without pre-hashing, and verification of ML-DSA-65 of
FIPS 204 in the pure form with an empty context. The standards' own figures come from outside the spec (log 11). -/

namespace Sys2Proof.Machine

/-- The bytes of an ASCII text. -/
def asciiBytes (s : String) : List Byte := s.toList.map fun c => BitVec.ofNat 8 c.toNat

/-! ## SHA-512 (FIPS 180-4) -/

/-- The integer `e`th root of `x`, below 2^bits. -/
def iroot (e x bits : Nat) : Nat :=
  (List.range bits).foldr (fun i r => if (r + 2 ^ i) ^ e ≤ x then r + 2 ^ i else r) 0

/-- The first `n` primes. -/
def primes (n : Nat) : List Nat :=
  ((List.range 412).filter fun p => 2 ≤ p && (List.range p).all fun d => d < 2 || p % d != 0).take n

/-- The first 64 bits of the fraction of the `e`th root of `p`. -/
def rootFrac (e p : Nat) : W64 := BitVec.ofNat 64 (iroot e (p * 2 ^ (64 * e)) 70)

def shaK : List W64 := (primes 80).map (rootFrac 3)
def shaH : List W64 := (primes 8).map (rootFrac 2)

/-- The message padded to whole blocks of 128 bytes. -/
def shaPad (m : List Byte) : List Byte :=
  m ++ [0x80] ++ List.replicate ((239 - m.length % 128) % 128) 0 ++ (leBytes 16 (8 * m.length)).reverse

/-- A big-endian word of a block. -/
def beWord (bs : List Byte) : W64 := bs.foldl (fun a b => a <<< 8 ||| b.setWidth 64) 0

/-- The schedule grown by `n` words, the latest first. -/
def shaSchedule : Nat → List W64 → List W64
  | 0, w => w
  | n + 1, w =>
    let g (k : Nat) : W64 := (w[k]?).getD 0
    let s0 (x : W64) : W64 := x.rotateRight 1 ^^^ x.rotateRight 8 ^^^ x >>> 7
    let s1 (x : W64) : W64 := x.rotateRight 19 ^^^ x.rotateRight 61 ^^^ x >>> 6
    shaSchedule n ((s1 (g 1) + g 6 + s0 (g 14) + g 15) :: w)

/-- One round: `kw` is the round constant plus the schedule's word. -/
def shaRound (h : List W64) (kw : W64) : List W64 :=
  match h with
  | [a, b, c, d, e, f, g, x] =>
    let t1 := x + (e.rotateRight 14 ^^^ e.rotateRight 18 ^^^ e.rotateRight 41) + ((e &&& f) ^^^ (~~~e &&& g)) + kw
    let t2 := (a.rotateRight 28 ^^^ a.rotateRight 34 ^^^ a.rotateRight 39) + ((a &&& b) ^^^ (a &&& c) ^^^ (b &&& c))
    [t1 + t2, a, b, c, d + t1, e, f, g]
  | l => l

def shaBlock (h : List W64) (bs : List Byte) : List W64 :=
  let w := (shaSchedule 64 ((List.range 16).map fun (k : Nat) => beWord ((bs.drop (8 * k)).take 8)).reverse).reverse
  List.zipWith (· + ·) h ((List.zipWith (· + ·) shaK w).foldl shaRound h)

/-- The 64 bytes of SHA-512. -/
def sha512 (m : List Byte) : List Byte :=
  let p := shaPad m
  let h := (List.range (p.length / 128)).foldl (fun h k => shaBlock h ((p.drop (128 * k)).take 128)) shaH
  h.flatMap fun w => (leBytes 8 w.toNat).reverse

/-! ## SHAKE (FIPS 202) -/

/-- A lane of the state at column `x`, row `y`. -/
def lane5 (a : List W64) (x y : Nat) : W64 := (a[x % 5 + 5 * (y % 5)]?).getD 0

/-- The state from a function of column and row. -/
def mk5 (f : Nat → Nat → W64) : List W64 := (List.range 25).map fun (k : Nat) => f (k % 5) (k / 5)

/-- The rotation of the lane at (x, y), found by the walk of FIPS 202. -/
def rhoOf (x y : Nat) : Nat :=
  ((List.range 24).foldl (fun (a : Nat × Nat × Nat) t =>
    if a.1 = x && a.2.1 = y then (a.2.1, (2 * a.1 + 3 * a.2.1) % 5, (t + 1) * (t + 2) / 2) else (a.2.1, (2 * a.1 + 3 * a.2.1) % 5, a.2.2)) (1, 0, 0)).2.2 % 64

/-- Bit `t` of the sequence that forms the round constants. -/
def rcBit (t : Nat) : Bool :=
  ((List.range (t % 255)).foldl (fun (r : BitVec 8) _ =>
    let s := r <<< 1
    if r.getLsbD 7 then s ^^^ 0x71 else s) 1).getLsbD 0

def keccakRc (r : Nat) : W64 :=
  (List.range 7).foldl (fun a j => if rcBit (j + 7 * r) then a ||| 1 <<< (2 ^ j - 1) else a) 0

def keccakRound (a : List W64) (r : Nat) : List W64 :=
  let cols := (List.range 5).map fun (x : Nat) => (List.range 5).foldl (fun t y => t ^^^ lane5 a x y) 0
  let d (x : Nat) : W64 := (cols[(x + 4) % 5]?).getD 0 ^^^ ((cols[(x + 1) % 5]?).getD 0).rotateLeft 1
  let th := mk5 fun x y => lane5 a x y ^^^ d x
  let b := mk5 fun x y => (lane5 th (x + 3 * y) x).rotateLeft (rhoOf ((x + 3 * y) % 5) x)
  let ch := mk5 fun x y => lane5 b x y ^^^ (~~~lane5 b (x + 1) y &&& lane5 b (x + 2) y)
  mk5 fun x y => if x = 0 && y = 0 then lane5 ch 0 0 ^^^ keccakRc r else lane5 ch x y

def keccakF (a : List W64) : List W64 := (List.range 24).foldl keccakRound a

/-- The state with `bs` added from its first byte. -/
def absorb (a : List W64) (bs : List Byte) : List W64 :=
  mk5 fun x y => lane5 a x y ^^^ BitVec.ofNat 64 (leNat ((bs.drop (8 * (x + 5 * y))).take 8))

/-- `n` blocks of `rate` bytes from a state. -/
def squeeze (rate : Nat) : Nat → List W64 → List Byte
  | 0, _ => []
  | n + 1, a => ((a.flatMap fun w => leBytes 8 w.toNat).take rate) ++ squeeze rate n (keccakF a)

/-- SHAKE128 has rate 168 and SHAKE256 rate 136: the first `n` bytes. -/
def shake (rate : Nat) (m : List Byte) (n : Nat) : List Byte :=
  let pad := rate - m.length % rate
  let p := if pad = 1 then m ++ [0x9F] else m ++ [0x1F] ++ List.replicate (pad - 2) 0 ++ [0x80]
  let a := (List.range (p.length / rate)).foldl (fun a k => keccakF (absorb a ((p.drop (rate * k)).take rate))) (List.replicate 25 0)
  (squeeze rate (n / rate + 1) a).take n

/-! ## Ed25519 (RFC 8032) -/

def edP : Nat := 2 ^ 255 - 19
def edL : Nat := 2 ^ 252 + 27742317777372353535851937790883648493

/-- `b` to the `e` modulo `p`, by the low `bits` bits of `e`. -/
def powMod (p b e bits : Nat) : Nat :=
  (List.range bits).foldr (fun i r => let r := r * r % p; if e.testBit i then r * b % p else r) 1

def edInv (x : Nat) : Nat := powMod edP x (edP - 2) 255
def edD : Nat := (edP - 121665) * edInv 121666 % edP

/-- A point in projective coordinates X, Y, Z. -/
abbrev EdPt := Nat × Nat × Nat

/-- The complete addition of the twisted Edwards curve, projectively. -/
def edAdd (p q : EdPt) : EdPt :=
  let a := p.2.2 * q.2.2 % edP
  let b := a * a % edP
  let c := p.1 * q.1 % edP
  let d := p.2.1 * q.2.1 % edP
  let e := edD * c % edP * d % edP
  let f := b + edP - e
  let g := b + e
  (a * f % edP * ((p.1 + p.2.1) * (q.1 + q.2.1) % edP + 2 * edP - c - d) % edP, a * g % edP * (d + c) % edP, f * g % edP)

def edMul (k : Nat) (p : EdPt) : EdPt :=
  (List.range 256).foldr (fun i r => let r := edAdd r r; if k.testBit i then edAdd r p else r) (0, 1, 1)

def edEq (p q : EdPt) : Bool := p.1 * q.2.2 % edP == q.1 * p.2.2 % edP && p.2.1 * q.2.2 % edP == q.2.1 * p.2.2 % edP

/-- The point that 32 bytes encode, if they encode one. -/
def edDecode (bs : List Byte) : Option EdPt :=
  let n := leNat bs
  let y := n % 2 ^ 255
  let odd := n.testBit 255
  if bs.length != 32 || edP ≤ y then none
  else
    let u := (y * y + edP - 1) % edP
    let v := (edD * (y * y % edP) + 1) % edP
    let r := u * powMod edP v 3 2 % edP * powMod edP (u * powMod edP v 7 3 % edP) ((edP - 5) / 8) 252 % edP
    let vr := v * (r * r % edP) % edP
    let x? := if vr = u then some r
      else if vr = (edP - u) % edP then some (r * powMod edP 2 ((edP - 1) / 4) 253 % edP) else none
    match x? with
    | none => none
    | some x =>
      if x = 0 && odd then none
      else some ((if (x % 2 == 1) == odd then x else edP - x), y, 1)

def edEncode (p : EdPt) : List Byte :=
  let i := edInv p.2.2
  leBytes 32 (p.2.1 * i % edP + (p.1 * i % edP % 2) * 2 ^ 255)

/-- The base point: y is 4/5 and x is even. -/
def edBase : EdPt := (edDecode (leBytes 32 (4 * edInv 5 % edP))).getD (0, 1, 1)

/-- The secret scalar and the prefix of a 32-byte private key. -/
def edSecret (sk : List Byte) : Nat × List Byte :=
  let h := sha512 sk
  let a := leNat (h.take 32)
  (2 ^ 254 + a % 2 ^ 254 / 8 * 8, h.drop 32)

def edPublic (sk : List Byte) : List Byte := edEncode (edMul (edSecret sk).1 edBase)

def edSign (sk msg : List Byte) : List Byte :=
  let (a, pre) := edSecret sk
  let r := leNat (sha512 (pre ++ msg)) % edL
  let rb := edEncode (edMul r edBase)
  rb ++ leBytes 32 ((r + leNat (sha512 (rb ++ edPublic sk ++ msg)) % edL * a) % edL)

/-- Verification by the cofactored equation of RFC 8032. -/
def edVerify (pk msg sig : List Byte) : Bool :=
  let sc := leNat (sig.drop 32)
  match edDecode pk, edDecode (sig.take 32) with
  | some a, some r =>
    let k := leNat (sha512 (sig.take 32 ++ pk ++ msg)) % edL
    sig.length == 64 && decide (sc < edL) &&
      edEq (edMul 8 (edMul sc edBase)) (edAdd (edMul 8 r) (edMul 8 (edMul k a)))
  | _, _ => false

/-! ## ML-DSA-65 (FIPS 204) -/

def mlQ : Nat := 8380417

/-- A polynomial of 256 coefficients modulo q. -/
abbrev Poly := List Nat

def polyZip (f : Nat → Nat → Nat) (a b : Poly) : Poly := List.zipWith (fun x y => f x y % mlQ) a b

/-- The bits of 8 reversed. -/
def brv8 (i : Nat) : Nat := (List.range 8).foldl (fun a k => if i.testBit k then a + 2 ^ (7 - k) else a) 0

/-- The transform: coefficient `i` is the value at the root 1753^(2 brv8(i) + 1). -/
def mlNtt (w : Poly) : Poly :=
  (List.range 256).map fun (i : Nat) =>
    let z := powMod mlQ 1753 (2 * brv8 i + 1) 9
    w.foldr (fun c a => (a * z + c) % mlQ) 0

/-- Its inverse. -/
def mlInv (w : Poly) : Poly :=
  let byExp := (List.range 256).map fun (k : Nat) => (w[brv8 k]?).getD 0
  (List.range 256).map fun (j : Nat) =>
    let zj := powMod mlQ 1753 (512 - j) 10
    let z2 := zj * zj % mlQ
    8347681 * (zj * byExp.foldr (fun c a => (a * z2 + c) % mlQ) 0 % mlQ) % mlQ

/-- Numbers of `n` bits packed least significant first. -/
def unpackBits (n count : Nat) (bs : List Byte) : List Nat :=
  let v := leNat bs
  (List.range count).map fun (k : Nat) => v / 2 ^ (n * k) % 2 ^ n

/-- A polynomial of the matrix A, sampled in the transform's domain: rejection from SHAKE128. -/
def mlExpandA (rho : List Byte) (row col : Nat) : Poly :=
  let bs := shake 168 (rho ++ [BitVec.ofNat 8 col, BitVec.ofNat 8 row]) (168 * 12)
  ((unpackBits 24 (56 * 12) bs).map (· % 2 ^ 23)).filter (· < mlQ) |>.take 256

/-- The challenge: 49 coefficients of plus or minus 1. -/
def mlChallenge (seed : List Byte) : Poly :=
  let bs := shake 136 seed (136 * 8)
  let signs := leNat (bs.take 8)
  ((bs.drop 8).foldl (fun (a : Nat × Poly) b =>
    let i := a.1
    let j := b.toNat
    if 256 ≤ i || i < j then a
    else (i + 1, (a.2.set i ((a.2[j]?).getD 0)).set j (if signs.testBit (i + 49 - 256) then mlQ - 1 else 1))) (207, List.replicate 256 0)).2

/-- The hint of a signature: for each of 6 polynomials the places of its ones; none where malformed. -/
def mlHint (bs : List Byte) : Option (List (List Nat)) :=
  let y := bs.map (·.toNat)
  let ends := y.drop 55
  let starts := 0 :: ends
  let parts := (List.range 6).map fun (i : Nat) =>
    let a := (starts[i]?).getD 0
    (y.drop a).take ((ends[i]?).getD 0 - a)
  let up (l : List Nat) : Bool := (l.zip (l.drop 1)).all fun p => decide (p.1 < p.2)
  let last := (ends[5]?).getD 0
  if (starts.zip ends).all (fun p => decide (p.1 ≤ p.2)) && decide (last ≤ 55) && parts.all up &&
      ((y.take 55).drop last).all (· == 0) then some parts else none

/-- UseHint with gamma2 = (q - 1) / 32. -/
def mlUseHint (h : Bool) (r : Nat) : Nat :=
  let a := 2 * ((mlQ - 1) / 32)
  let r0 : Int := if r % a ≤ a / 2 then (r % a : Nat) else (r % a : Nat) - (a : Int)
  let top : Bool := decide ((r : Int) - r0 = mlQ - 1)
  let r1 := if top then 0 else ((r - r0) / a).toNat
  let r0 := if top then r0 - 1 else r0
  if !h then r1 else if 0 < r0 then (r1 + 1) % 16 else (r1 + 15) % 16

/-- Verification: the public key is 1,952 bytes and the signature 3,309. -/
def mlVerify (pk msg sig : List Byte) : Bool :=
  let rho := pk.take 32
  let t1 := (List.range 6).map fun (i : Nat) => unpackBits 10 256 ((pk.drop (32 + 320 * i)).take 320)
  let ct := sig.take 48
  let z := (List.range 5).map fun (i : Nat) =>
    (unpackBits 20 256 ((sig.drop (48 + 640 * i)).take 640)).map fun v => (2 ^ 19 + mlQ - v) % mlQ
  let short := z.all fun p => p.all fun v => v < 2 ^ 19 - 196 || mlQ - v < 2 ^ 19 - 196
  match mlHint (sig.drop 3248) with
  | none => false
  | some hint =>
    let mu := shake 136 (shake 136 pk 64 ++ [0, 0] ++ msg) 64
    let c := mlNtt (mlChallenge ct)
    let zh := z.map mlNtt
    let w1 := (List.range 6).flatMap fun (r : Nat) =>
      let az := (zh.zip (List.range 5)).foldl (fun a p => polyZip (· + ·) a (polyZip (· * ·) (mlExpandA rho r p.2) p.1)) (List.replicate 256 0)
      let ct1 := polyZip (· * ·) c (mlNtt (((t1[r]?).getD []).map fun v => v * 2 ^ 13 % mlQ))
      let w := mlInv (polyZip (fun x y => x + mlQ - y) az ct1)
      ((List.range 256).zip w).map fun p => mlUseHint (((hint[r]?).getD []).contains p.1) p.2
    let enc := leBytes 768 (w1.foldr (fun v a => a * 16 + v) 0)
    pk.length == 1952 && sig.length == 3309 && short && shake 136 (mu ++ enc) 48 == ct

/-- R27: a key identifier is the first 8 bytes of SHA-512 over the public key, as they stand in a record. -/
def keyIdent (pk : List Byte) : Nat := leNat ((sha512 pk).take 8)

end Sys2Proof.Machine
end

