-- ==== Sys2Proof/Machine/Flags.lean ====
section
/-! DEFINITION. The sticky flags: RGN.NFLAGS (R53) and RGN.TFLAGS (R250), and the computations that set them. -/

namespace Sys2Proof.Machine

/-! RGN.NFLAGS (R53). -/
def fNX : Nat := 0x01
def fUF : Nat := 0x02
def fOF : Nat := 0x04
def fDZ : Nat := 0x08
def fNV : Nat := 0x10
def fSAT : Nat := 0x20
def fCODE : Nat := 0x40

/-! RGN.TFLAGS (R250). -/
def tNX : Nat := 0x01
def tUF : Nat := 0x02
def tOF : Nat := 0x04
def tNV : Nat := 0x10
def tDROP : Nat := 0x20
def tCUT : Nat := 0x40

/-- A flag where a condition holds. -/
def fIf (c : Bool) (f : Nat) : Nat := if c then f else 0

/-- The union of flag bytes. -/
def fAll : List Nat → Nat
  | [] => 0
  | f :: fs => f ||| fAll fs

/-- OR flags into a lane's sticky bytes, as at a result time (R53, R250). -/
def State.orFlags (s : State) (lane nf tf : Nat) : State :=
  s.modLane lane fun l => { l with nflags := l.nflags ||| nf, tflags := l.tflags ||| tf }

end Sys2Proof.Machine
end

