-- ==== Sys2Proof/Machine/Numbers.lean ====
section
/-! DEFINITION. Number formats, exact arithmetic and rounding (03_numbers.md, R30 to R52): every floating-point value is
decoded to an exact one, every operation is exact, and there is one rounding function and one conversion function. -/

namespace Sys2Proof.Machine

/-! ## Exact fractions -/

/-- An exact fraction; `den` is never 0 in a fraction made by the functions below. It is not kept in lowest terms. -/
structure Q where
  num : Int
  den : Nat
  deriving DecidableEq, Repr, Inhabited

namespace Q

def ofInt (n : Int) : Q := ⟨n, 1⟩
/-- 2^k for any integer k. -/
def pow2 (k : Int) : Q := if 0 ≤ k then ⟨(2 ^ k.toNat : Nat), 1⟩ else ⟨1, 2 ^ (-k).toNat⟩
def neg (a : Q) : Q := ⟨-a.num, a.den⟩
/-- A sum over a common denominator: one divides the other whenever both are powers of two. -/
def add (a b : Q) : Q :=
  if a.den % b.den = 0 then ⟨a.num + b.num * ((a.den / b.den : Nat) : Int), a.den⟩
  else if b.den % a.den = 0 then ⟨a.num * ((b.den / a.den : Nat) : Int) + b.num, b.den⟩
  else ⟨a.num * (b.den : Int) + b.num * (a.den : Int), a.den * b.den⟩
def sub (a b : Q) : Q := a.add b.neg
def mul (a b : Q) : Q := ⟨a.num * b.num, a.den * b.den⟩
def abs (a : Q) : Q := ⟨a.num.natAbs, a.den⟩
/-- A quotient by a positive or negative fraction; 0 for a zero divisor, which no caller passes. -/
def div (a b : Q) : Q :=
  if b.num = 0 then ⟨0, 1⟩ else ⟨a.num * (b.den : Int) * b.num.sign, a.den * b.num.natAbs⟩
def isZero (a : Q) : Bool := a.num == 0
def lt (a b : Q) : Bool := decide (a.num * (b.den : Int) < b.num * (a.den : Int))
def le (a b : Q) : Bool := decide (a.num * (b.den : Int) ≤ b.num * (a.den : Int))
def eq (a b : Q) : Bool := a.num * (b.den : Int) == b.num * (a.den : Int)
def floor (a : Q) : Int := a.num / (a.den : Int)
def ceil (a : Q) : Int := -((-a.num) / (a.den : Int))
/-- Scaled by 2^k. -/
def shift (a : Q) (k : Int) : Q := a.mul (pow2 k)

/-- floor(log2 a) for a positive fraction. -/
def log2 (a : Q) : Int :=
  let k : Int := (a.num.natAbs.log2 : Int) - (a.den.log2 : Int)
  if le (pow2 k) a then k else k - 1

end Q

/-! ## Floating-point formats (R33 to R35) -/

/-- How a format codes NaN: not at all, as IEEE 754 does, or only with every bit below the sign set (FP8E4). -/
inductive NanKind | none | ieee | top
  deriving DecidableEq, Repr

structure FF where
  exp : Nat
  frac : Nat
  bias : Int
  shift : Nat := 0
  nan : NanKind := .ieee
  deriving DecidableEq, Repr

def ffFP32 : FF := { exp := 8, frac := 23, bias := 127 }
def ffFP19 : FF := { exp := 8, frac := 10, bias := 127, shift := 13 }
def ffBF16 : FF := { exp := 8, frac := 7, bias := 127 }
def ffFP16 : FF := { exp := 5, frac := 10, bias := 15 }
def ffFP8E4 : FF := { exp := 4, frac := 3, bias := 7, nan := .top }
def ffFP8E5 : FF := { exp := 5, frac := 2, bias := 15 }
def ffFP6E3 : FF := { exp := 3, frac := 2, bias := 3, nan := .none }
def ffFP6E2 : FF := { exp := 2, frac := 3, bias := 1, nan := .none }
def ffFP4 : FF := { exp := 2, frac := 1, bias := 1, nan := .none }

/-- The format of a floating-point lane type (R63). -/
def ffOf : FTy → FF
  | .f32 => ffFP32
  | .f16 => ffFP16
  | .bf16 => ffBF16
  | .f19 => ffFP19
  | .f8e4 => ffFP8E4
  | .f8e5 => ffFP8E5

namespace FF

def hasInf (f : FF) : Bool := f.nan == .ieee
def hasNan (f : FF) : Bool := f.nan != .none
/-- The all-ones exponent field. -/
def eTop (f : FF) : Nat := 2 ^ f.exp - 1
/-- Stored bits of the format, container included. -/
def width (f : FF) : Nat := 1 + f.exp + f.frac + f.shift
def signBit (f : FF) (neg : Bool) : Nat := if neg then 2 ^ (f.exp + f.frac) else 0
def pack (f : FF) (neg : Bool) (e m : Nat) : Nat := (f.signBit neg + e * 2 ^ f.frac + m) * 2 ^ f.shift
/-- R35: the canonical NaN. -/
def canon (f : FF) : Nat :=
  match f.nan with
  | .none => 0
  | .ieee => f.pack false f.eTop (2 ^ (f.frac - 1))
  | .top => f.pack false f.eTop (2 ^ f.frac - 1)
def infBits (f : FF) (neg : Bool) : Nat := f.pack neg f.eTop 0
def zeroBits (f : FF) (neg : Bool) : Nat := f.pack neg 0 0
/-- The code of the largest finite value. -/
def maxBits (f : FF) (neg : Bool) : Nat :=
  match f.nan with
  | .none => f.pack neg f.eTop (2 ^ f.frac - 1)
  | .ieee => f.pack neg (f.eTop - 1) (2 ^ f.frac - 1)
  | .top => f.pack neg f.eTop (2 ^ f.frac - 2)
/-- The least normal exponent. -/
def eMin (f : FF) : Int := 1 - f.bias
/-- The smallest normal magnitude. -/
def minNormal (f : FF) : Q := Q.pow2 f.eMin
/-- The magnitude of exponent field `e` and fraction `m` (R33). -/
def mag (f : FF) (e m : Nat) : Q :=
  if e = 0 then (Q.ofInt m).shift (f.eMin - f.frac)
  else (Q.ofInt (2 ^ f.frac + m : Nat)).shift (e - f.bias - f.frac)
/-- The largest finite magnitude. -/
def maxMag (f : FF) : Q :=
  match f.nan with
  | .none => f.mag f.eTop (2 ^ f.frac - 1)
  | .ieee => f.mag (f.eTop - 1) (2 ^ f.frac - 1)
  | .top => f.mag f.eTop (2 ^ f.frac - 2)

end FF

/-- An extended real with a sign on zero. -/
inductive XR
  | nan
  | inf (neg : Bool)
  | fin (neg : Bool) (mag : Q)
  deriving DecidableEq, Repr, Inhabited

namespace XR

def isNan : XR → Bool | .nan => true | _ => false
def isInf : XR → Bool | .inf _ => true | _ => false
def isZero : XR → Bool | .fin _ m => m.isZero | _ => false
def sign : XR → Bool | .nan => false | .inf n => n | .fin n _ => n
def neg : XR → XR | .nan => .nan | .inf n => .inf (!n) | .fin n m => .fin (!n) m
def abs : XR → XR | .nan => .nan | .inf _ => .inf false | .fin _ m => .fin false m
/-- The real value of a finite one; 0 for the others. -/
def val : XR → Q | .fin n m => if n then m.neg else m | _ => Q.ofInt 0
/-- The extended real of a fraction; zero is +0. -/
def ofQ (q : Q) : XR := .fin (decide (q.num < 0)) q.abs
def ofInt (n : Int) : XR := ofQ (Q.ofInt n)

/-- An exact product, and whether it is 0 × infinity. -/
def mul : XR → XR → XR × Bool
  | .nan, _ => (.nan, false)
  | _, .nan => (.nan, false)
  | .inf a, .inf b => (.inf (a != b), false)
  | .inf a, .fin b m => if m.isZero then (.nan, true) else (.inf (a != b), false)
  | .fin a m, .inf b => if m.isZero then (.nan, true) else (.inf (a != b), false)
  | .fin a m, .fin b n => (.fin (a != b) (m.mul n), false)

/-- R54: the exact sum of terms with its special cases, and whether it is infinity - infinity; `rdn` says that the mode
is RDN, for the sign of a zero sum. -/
def sum (rdn : Bool) (ts : List XR) : XR × Bool :=
  let pos := ts.any fun t => t == .inf false
  let neg := ts.any fun t => t == .inf true
  if pos && neg then (.nan, true)
  else if ts.any isNan then (.nan, false)
  else if pos then (.inf false, false)
  else if neg then (.inf true, false)
  else
    let q := ts.foldl (fun a t => a.add t.val) (Q.ofInt 0)
    if q.isZero then (.fin (rdn || ts.all fun t => t.sign) q, false) else (ofQ q, false)

end XR

/-- R33, R34: decode stored bits. -/
def ffDecode (f : FF) (bits : Nat) : XR :=
  let b := bits / 2 ^ f.shift
  let m := b % 2 ^ f.frac
  let e := b / 2 ^ f.frac % 2 ^ f.exp
  let s := b.testBit (f.exp + f.frac)
  match f.nan with
  | .none => .fin s (f.mag e m)
  | .ieee => if e = f.eTop then (if m = 0 then .inf s else .nan) else .fin s (f.mag e m)
  | .top => if e = f.eTop && m = 2 ^ f.frac - 1 then .nan else .fin s (f.mag e m)

/-! ## Rounding (R45, R46) -/

/-- Round the magnitude `num / den` to an integer, in a mode, for a sign, with the 32 random bits `u` of SR; and
whether it was inexact. -/
def roundNat (rm : RMode) (neg : Bool) (u num den : Nat) : Nat × Bool :=
  let n := num / den
  let r := num % den
  let up : Bool :=
    match rm with
    | .rne => den < 2 * r || (2 * r == den && n % 2 == 1)
    | .rtz => false
    | .rup => !neg && r != 0
    | .rdn => neg && r != 0
    | .rna => decide (den ≤ 2 * r) && r != 0
    | .sr => decide (u < r * 2 ^ 32 / den)
  (if up then n + 1 else n, r != 0)

/-- A magnitude rounded on a format's grid with an unbounded exponent: the integer multiple of the returned exponent's
power of two, and whether it was inexact. -/
def roundGrid (f : FF) (rm : RMode) (neg : Bool) (u : Nat) (m : Q) : Nat × Int × Bool :=
  let e := m.log2
  let q := (if e < f.eMin then f.eMin else e) - f.frac
  let x := m.shift (-q)
  let r := roundNat rm neg u x.num.natAbs x.den
  (r.1, q, r.2)

/-- The code of `n` × 2^q, a magnitude of the format's grid not above its largest finite one. -/
def encodeGrid (f : FF) (neg : Bool) (n : Nat) (q : Int) : Nat :=
  if n < 2 ^ f.frac then f.pack neg 0 n
  else if n = 2 ^ (f.frac + 1) then f.pack neg ((q + 1 + f.frac + f.bias).toNat) 0
  else f.pack neg ((q + f.frac + f.bias).toNat) (n - 2 ^ f.frac)

/-- The mode rounds toward zero past the largest finite value (R45). -/
def towardZero (rm : RMode) (neg : Bool) : Bool :=
  match rm with
  | .rtz => true
  | .rup => neg
  | .rdn => !neg
  | _ => false

/-- The flags of an inexact finite result (R223): UF below the smallest normal. -/
def inexactFlags (f : FF) (m : Q) (inexact : Bool) : Nat :=
  if !inexact then 0 else if m.lt f.minNormal then fUF ||| fNX else fNX

/-- R45, R223: an arithmetic result: its bits and flags. -/
def fRound (f : FF) (rm : RMode) (u : Nat) : XR → Nat × Nat
  | .nan => (f.canon, 0)
  | .inf s => if f.hasInf then (f.infBits s, 0) else (f.maxBits s, fSAT)
  | .fin s m =>
    if m.isZero then (f.zeroBits s, 0)
    else
      let r := roundGrid f rm s u m
      if f.maxMag.lt ((Q.ofInt r.1).shift r.2.1) then
        if towardZero rm s then (f.maxBits s, fOF ||| fNX)
        else if f.hasInf then (f.infBits s, fOF ||| fNX)
        else (f.maxBits s, fOF ||| fNX ||| fSAT)
      else (encodeGrid f s r.1 r.2.1, inexactFlags f m r.2.2)

/-! ## Conversion policies (R48 to R50) -/

/-- A case of a policy byte. -/
inductive Pol | sat | zero | prop | fault
  deriving DecidableEq, Repr

def polOf (n : Nat) : Pol :=
  match n % 4 with
  | 0 => .sat
  | 1 => .zero
  | 2 => .prop
  | _ => .fault

def polNan (p : Nat) : Pol := polOf (p / 64)
def polInf (p : Nat) : Pol := polOf (p / 16)
def polOvf (p : Nat) : Pol := polOf (p / 4)
def polUnf (p : Nat) : Pol := polOf p

/-- PROP on infinity or overflow: infinity where the format has it, else its NaN, else ±MAX with SAT. -/
def propInf (f : FF) (s : Bool) : Nat × Nat :=
  if f.hasInf then (f.infBits s, 0) else if f.hasNan then (f.canon, 0) else (f.maxBits s, fSAT)

/-- R49, R50: convert one exact value to a floating-point format; none is FAULT. -/
def convertF (f : FF) (pol : Nat) (rm : RMode) (u : Nat) : XR → Option (Nat × Nat)
  | .nan =>
    match polNan pol with
    | .sat => some (f.maxBits false, fNV ||| fSAT)
    | .zero => some (0, fNV)
    | .prop => some (if f.hasNan then f.canon else 0, fNV)
    | .fault => none
  | .inf s =>
    match polInf pol with
    | .sat => some (f.maxBits s, fSAT)
    | .zero => some (f.zeroBits s, 0)
    | .prop => some (propInf f s)
    | .fault => none
  | .fin s m =>
    if m.isZero then some (f.zeroBits s, 0)
    else
      let r := roundGrid f rm s u m
      if f.maxMag.lt ((Q.ofInt r.1).shift r.2.1) then
        if towardZero rm s then some (f.maxBits s, fOF ||| fNX)
        else
          match polOvf pol with
          | .sat => some (f.maxBits s, fOF ||| fNX ||| fSAT)
          | .zero => some (f.zeroBits s, fOF ||| fNX)
          | .prop => some ((propInf f s).1, fOF ||| fNX ||| (propInf f s).2)
          | .fault => none
      else if r.2.2 && m.lt f.minNormal then
        match polUnf pol with
        | .sat => some (if r.1 = 0 then f.pack s 0 1 else encodeGrid f s r.1 r.2.1, fUF ||| fNX)
        | .zero => some (f.zeroBits s, fUF ||| fNX)
        | .prop => some (encodeGrid f s r.1 r.2.1, fUF ||| fNX)
        | .fault => none
      else some (encodeGrid f s r.1 r.2.1, if r.2.2 then fNX else 0)

/-- R50: ±MAX of an integer range. -/
def maxInt (lo hi : Int) (neg : Bool) : Int := if neg then lo else hi

/-- R49, R50: convert one exact value to an integer range. -/
def convertI (lo hi : Int) (pol : Nat) (rm : RMode) (u : Nat) : XR → Option (Int × Nat)
  | .nan =>
    match polNan pol with
    | .sat => some (hi, fNV ||| fSAT)
    | .zero | .prop => some (0, fNV)
    | .fault => none
  | .inf s =>
    match polInf pol with
    | .sat | .prop => some (maxInt lo hi s, fSAT)
    | .zero => some (0, 0)
    | .fault => none
  | .fin s m =>
    let r := roundNat rm s u m.num.natAbs m.den
    let v : Int := if s then -(r.1 : Int) else r.1
    if v < lo || hi < v then
      match polOvf pol with
      | .sat | .prop => some (maxInt lo hi s, fOF ||| fNX ||| fSAT)
      | .zero => some (0, fOF ||| fNX)
      | .fault => none
    else some (v, if r.2 then fNX else 0)

/-- The range of an integer type (R198). -/
def iMin (t : ITy) : Int := if t.signed then -(2 ^ (t.width - 1) : Int) else 0
def iMax (t : ITy) : Int := if t.signed then 2 ^ (t.width - 1) - 1 else 2 ^ t.width - 1

def lWidth : LTy → Nat
  | .int t => t.width
  | .flt t => (ffOf t).width

/-- The exact value of a lane. -/
def lDecode (t : LTy) (x : Nat) : XR :=
  match t with
  | .int t => XR.ofInt (if t.signed then toSigned t.width x else x)
  | .flt t => ffDecode (ffOf t) x

/-- R49: convert one value into a lane type. -/
def convertL (t : LTy) (pol : Nat) (rm : RMode) (u : Nat) (x : XR) : Option (Nat × Nat) :=
  match t with
  | .int t => (convertI (iMin t) (iMax t) pol rm u x).map fun r => (ofSigned t.width r.1, r.2)
  | .flt t => convertF (ffOf t) pol rm u x

/-! ## The keyed function (R47) -/

def w64 (n : Nat) : Nat := n % 2 ^ 64

def kh (seed ctr : Nat) : Nat :=
  let z := w64 (seed + ctr * 0x9E3779B97F4A7C15)
  let z := w64 ((z ^^^ (z / 2 ^ 30)) * 0xBF58476D1CE4E5B9)
  let z := w64 ((z ^^^ (z / 2 ^ 27)) * 0x94D049BB133111EB)
  z ^^^ (z / 2 ^ 31)

/-! ## TRI5 (R39, R40) -/

/-- The trits of a TRI5 byte, by the decoder's own steps. -/
def tritsFrom : Nat → Nat → List Int
  | 0, _ => []
  | k + 1, b => let q := b * 171 / 512; ((b : Int) - 3 * q - 1) :: tritsFrom k q

/-- Trit `i` of a byte; an illegal byte gives zero. -/
def trit (b i : Nat) : Int := if 243 ≤ b then 0 else ((tritsFrom 5 b)[i]?).getD 0

/-- The byte of five trits. -/
def tritByte (t : Nat → Int) : Nat := (List.range 5).foldl (fun a i => a + ((t i + 1).toNat) * 3 ^ i) 0

/-! ## Operand formats (R31, R37, R38, R42 to R44) -/

/-- The element format a block format holds, or the format itself. -/
def elemFmt : Fmt → Fmt
  | .mx8e4 => .fp8e4
  | .mx8e5 => .fp8e5
  | .mx6e3 => .fp6e3
  | .mx6e2 => .fp6e2
  | .mx4 | .bq4 => .fp4
  | .mxi8 | .bi8 => .int8
  | .bi4 => .int4
  | .tris => .tri5
  | f => f

/-- Bits of one element of a format; TRI5 holds five in a byte. -/
def fmtBits : Fmt → Nat
  | .fp32 | .fp19 => 32
  | .bf16 | .fp16 | .int16 => 16
  | .fp8e4 | .fp8e5 | .int8 | .nat8 | .mx8e4 | .mx8e5 | .mxi8 | .bi8 => 8
  | .fp6e3 | .fp6e2 | .mx6e3 | .mx6e2 => 6
  | .fp4 | .int4 | .nat4 | .mx4 | .bq4 | .bi4 | .qn4 => 4
  | .int2 => 2
  | .bin1 => 1
  | .tri5 | .tris => 8

def isTri : Fmt → Bool
  | .tri5 | .tris => true
  | _ => false

/-- Bytes of `n` consecutive elements. -/
def fmtBytes (f : Fmt) (n : Nat) : Nat := if isTri f then (n + 4) / 5 else (n * fmtBits f + 7) / 8

/-- The floating-point format of a format code, where it has one. -/
def ffFmt : Fmt → Option FF
  | .fp32 => some ffFP32
  | .fp19 => some ffFP19
  | .bf16 => some ffBF16
  | .fp16 => some ffFP16
  | .fp8e4 => some ffFP8E4
  | .fp8e5 => some ffFP8E5
  | .fp6e3 => some ffFP6E3
  | .fp6e2 => some ffFP6E2
  | .fp4 => some ffFP4
  | _ => none

/-- The range of an integer format code. -/
def intFmt : Fmt → Option (Int × Int)
  | .int16 => some (-32768, 32767)
  | .int8 => some (-128, 127)
  | .nat8 => some (0, 255)
  | .int4 => some (-8, 7)
  | .nat4 => some (0, 15)
  | .int2 => some (-2, 1)
  | _ => none

/-- R44: the magnitudes of QN4 as integers over 2^15. -/
def qn4Mags : List Nat := [1380, 4172, 7060, 10184, 13656, 17760, 23184, 32768]

/-- The exact value of an element code under its element format; for QN4 the level, for MXI8 the code times 2^-6. -/
def elemVal (f : Fmt) (code : Nat) : XR :=
  match f with
  | .mxi8 => XR.ofQ ((Q.ofInt (toSigned 8 code)).shift (-6))
  | .qn4 => .fin (code.testBit 3) ((Q.ofInt ((qn4Mags[code % 8]?).getD 0 : Nat)).shift (-15))
  | .bin1 => XR.ofInt (if code = 1 then 1 else -1)
  | f =>
    match ffFmt (elemFmt f) with
    | some ff => ffDecode ff code
    | none =>
      match intFmt (elemFmt f) with
      | some (lo, _) => XR.ofInt (if lo < 0 then toSigned (fmtBits f) code else code)
      | none => XR.ofInt 0

/-- Bits [lo + n - 1 : lo] of bytes in ascending address order, little-endian. -/
def bytesBits (b : Nat → Nat) (lo n : Nat) : Nat :=
  let k := lo / 8
  let span := (lo % 8 + n + 7) / 8
  ((List.range span).foldr (fun i a => a * 256 + b (k + i)) 0) / 2 ^ (lo % 8) % 2 ^ n

/-- R38, R39: element `i` of an element array given by its bytes, and whether its TRI5 byte is illegal. -/
def elemAt (f : Fmt) (b : Nat → Nat) (i : Nat) : XR × Bool :=
  if isTri f then (XR.ofInt (trit (b (i / 5)) (i % 5)), decide (243 ≤ b (i / 5)))
  else (elemVal f (bytesBits b (i * fmtBits f) (fmtBits f)), false)

/-- R42: elements of a block (0 for a format without scales, and for TRIS, whose block is the row). -/
def blockSize : Fmt → Nat
  | .mx8e4 | .mx8e5 | .mx6e3 | .mx6e2 | .mx4 | .mxi8 | .bi4 => 32
  | .bq4 => 16
  | .bi8 => 128
  | .qn4 => 64
  | _ => 0

/-- Bytes of one scale entry of a block format: for QN4 its byte c alone. -/
def scaleBytes : Fmt → Nat
  | .bi4 | .tris => 2
  | .bi8 => 4
  | .mx8e4 | .mx8e5 | .mx6e3 | .mx6e2 | .mx4 | .mxi8 | .bq4 | .qn4 => 1
  | _ => 0

def isBlock (f : Fmt) : Bool := scaleBytes f != 0

def isMx : Fmt → Bool
  | .mx8e4 | .mx8e5 | .mx6e3 | .mx6e2 | .mx4 | .mxi8 => true
  | _ => false

/-- The value of a scale entry; `sup` is QN4's superblock scale. -/
def scaleVal (f : Fmt) (bits sup : Nat) : XR :=
  if isMx f then (if bits = 0xFF then .nan else .fin false (Q.pow2 ((bits : Int) - 127)))
  else
    match f with
    | .bq4 => ffDecode ffFP8E4 bits
    | .bi4 => ffDecode ffBF16 bits
    | .bi8 => ffDecode ffFP32 bits
    | .tris => ffDecode ffFP16 bits
    | .qn4 => if bits = 0 then .fin false (Q.ofInt 0) else ((ffDecode ffFP32 sup).mul (.fin false ((Q.ofInt bits).shift (-8)))).1
    | _ => .fin false (Q.ofInt 1)

/-- R42, R44: an element times its scale, exactly. A QN4 code c of 0 makes every element +0. -/
def scaled (f : Fmt) (e s : XR) (c0 : Bool) : XR :=
  if f == .qn4 && c0 then .fin false (Q.ofInt 0)
  else
    match s with
    | .nan => .nan
    | _ => (e.mul s).1

/-! ## Converting into element formats (R233) and block formats (R52) -/

/-- Convert one value into an element code of a format without scales (R233); `none` is FAULT. -/
def convertElem (f : Fmt) (pol : Nat) (rm : RMode) (u : Nat) (x : XR) : Option (Nat × Nat) :=
  match f with
  | .bin1 =>
    match x with
    | .nan =>
      match polNan pol with
      | .fault => none
      | .sat => some (1, fNV ||| fSAT)
      | .zero | .prop => some (1, fNV)
    | .inf s =>
      match polInf pol with
      | .fault => none
      | .sat => some (if s then 0 else 1, fSAT ||| fNX)
      | .prop => some (if s then 0 else 1, fNX)
      | .zero => some (1, fNX)
    | .fin s m => some (if s then 0 else 1, if m.eq (Q.ofInt 1) then 0 else fNX)
  | .tri5 => (convertI (-1) 1 pol rm u x).map fun r => ((r.1 + 1).toNat, r.2)
  | f =>
    match ffFmt f with
    | some ff => convertF ff pol rm u x
    | none =>
      match intFmt f with
      | some (lo, hi) => (convertI lo hi pol rm u x).map fun r => (ofSigned (fmtBits f) r.1, r.2)
      | none => some (0, 0)

/-- Pack element codes under R38 and R39 into bytes; trits beyond the last are 0. -/
def packCodes (f : Fmt) (codes : List Nat) : List Nat :=
  if isTri f then
    (List.range ((codes.length + 4) / 5)).map fun k =>
      (List.range 5).foldl (fun a i => a + ((codes[5 * k + i]?).getD 1) * 3 ^ i) 0
  else
    let w := fmtBits f
    let n := codes.foldr (fun c a => a * 2 ^ w + c) 0
    (List.range ((codes.length * w + 7) / 8)).map fun k => n / 256 ^ k % 256

/-- R52: the largest element exponent of an MX element. -/
def emax : Fmt → Int
  | .mx8e4 => 8
  | .mx8e5 => 15
  | .mx6e3 => 4
  | .mx6e2 | .mx4 => 2
  | _ => 0

/-- The largest magnitude of a block of finite values. -/
def amaxQ (xs : List XR) : Q := xs.foldl (fun a x => if a.lt x.val.abs then x.val.abs else a) (Q.ofInt 0)

/-- R52 step 4: the E8M0 code for a positive largest magnitude. A code above 0xFE, which only a magnitude beyond FP32's
gives, is free (DESIGN CHOICE, log 132). -/
def e8m0 (f : Fmt) (m : Q) : Nat :=
  let e := m.log2 - emax f
  if 127 < e then Config.bigScale m.num m.den % 256 else if -127 ≤ e then (e + 127).toNat else 0

/-- A converted block: scale bits, element codes, flags. -/
structure BlockOut where
  scale : Nat
  codes : List Nat
  flags : Nat
  deriving DecidableEq, Repr

/-- R52 steps 1 and 2: what a block's NaNs and infinities decide: `inl none` faults, `inl (some b)` ends the block,
`inr` is the block with substitutes and the flags so far. -/
def blockSpecials (prop zero : BlockOut) (srcMax : Q) (pol : Nat) (xs : List XR) : Option BlockOut ⊕ (List XR × Nat) :=
  let subNan : List XR → List XR := List.map fun x => if x.isNan then .fin false srcMax else x
  let subInf : List XR → List XR := List.map fun x => if x.isInf then .fin x.sign srcMax else x
  let afterNan : Option BlockOut ⊕ (List XR × Nat) :=
    if xs.any XR.isNan then
      match polNan pol with
      | .prop => .inl (some { prop with flags := fNV })
      | .zero => .inl (some { zero with flags := fNV })
      | .fault => .inl none
      | .sat => .inr (subNan xs, fNV ||| fSAT)
    else .inr (xs, 0)
  match afterNan with
  | .inl r => .inl r
  | .inr (ys, fl) =>
    if ys.any XR.isInf then
      match polInf pol with
      | .prop => .inl (some { prop with flags := fl })
      | .zero => .inl (some { zero with flags := fl })
      | .fault => .inl none
      | .sat => .inr (subInf ys, fl ||| fSAT)
    else .inr (ys, fl)

/-- Convert each element of a block with its draw, saturating an overflow (R52 step 5): the OVF field reads as SAT. -/
def blockElems (f : Fmt) (pol : Nat) (rm : RMode) (us : Nat → Nat) (scale : Q) (xs : List XR) : Option (List Nat × Nat) :=
  let ef := if f == .mxi8 then Fmt.int8 else elemFmt f
  let p := pol / 16 * 16 + pol % 4
  let conv (k : Nat) (x : XR) : Option (Nat × Nat) :=
    let y : XR := .fin x.sign ((x.val.abs.div scale).shift (if f == .mxi8 then 6 else 0))
    convertElem ef p rm (us k) y
  let rec go : Nat → List XR → Option (List Nat × Nat)
    | _, [] => some ([], 0)
    | k, x :: r =>
      match conv k x, go (k + 1) r with
      | some (c, fl), some (cs, gl) => some (c :: cs, fl ||| gl)
      | _, _ => none
  go 0 xs

/-- The scale format and divisor of a Byral block format (R52). -/
def byralScale : Fmt → FF × Int
  | .bq4 => (ffFP8E4, 6)
  | .bi4 => (ffBF16, 7)
  | .bi8 => (ffFP32, 127)
  | _ => (ffFP16, 1)

/-- R52: convert one block of values from a source whose largest finite value is `srcMax`; none is FAULT. `us k` is the
draw of element `k` and `uscale` that of the scale. A Byral scale is the canonical NaN of its format under PROP
(DEDUCED, log 130), and is rounded under the policy byte (DEDUCED, log 131). -/
def convertBlock (f : Fmt) (pol : Nat) (rm : RMode) (us : Nat → Nat) (uscale : Nat) (srcMax : Q) (xs : List XR) :
    Option BlockOut :=
  let mx := isMx f
  let nanCode := match ffFmt (elemFmt f) with | some ff => if ff.hasNan then ff.canon else 0 | none => 0
  let z := if isTri f then 1 else 0
  let propScale := if mx then 0xFF else (byralScale f).1.canon
  let prop : BlockOut := ⟨propScale, xs.map fun _ => if mx then nanCode else z, 0⟩
  let zero : BlockOut := ⟨0, xs.map fun _ => z, 0⟩
  match blockSpecials prop zero srcMax pol xs with
  | .inl r => r
  | .inr (ys, fl) =>
    let m := amaxQ ys
    if m.isZero then some { zero with flags := fl }
    else if mx then
      let code := e8m0 f m
      (blockElems f pol rm us (Q.pow2 ((code : Int) - 127)) ys).map fun r => ⟨code, r.1, r.2 ||| fl⟩
    else
      let (sf, d) := byralScale f
      match convertF sf pol rm uscale (.fin false (m.div (Q.ofInt d))) with
      | none => none
      | some (sb, sfl) =>
        match ffDecode sf sb with
        | .fin _ sm =>
          if sm.isZero then some ⟨sb, ys.map fun y => Config.zeroScale y.val.num y.val.den % 2 ^ fmtBits f, sfl ||| fl⟩
          else (blockElems f pol rm us sm ys).map fun r => ⟨sb, r.1, r.2 ||| fl ||| sfl⟩
        | _ => some ⟨sb, ys.map fun y => Config.zeroScale y.val.num y.val.den % 2 ^ fmtBits f, sfl ||| fl⟩

end Sys2Proof.Machine
end

