-- ==== Sys2Proof/Machine/Blocks.lean ====
section
/-! DEFINITION. Rows of the block formats in memory (R41, R42, R146): decoding an element of a row with its scale, and
building a row from values (R52), for the copy engine and the epilogue. -/

namespace Sys2Proof.Machine

/-- Elements that share one QN4 superblock scale (R42). -/
def qn4Super : Nat := 16384

/-- Bytes of a stored row of `n` elements before its padding (R146). -/
def rowBytes (f : Fmt) (n : Nat) : Nat :=
  if isBlock f then
    fmtBytes f n + (if blockSize f = 0 then scaleBytes f else n / blockSize f * scaleBytes f) + (if f = .qn4 then n / 4096 else 0)
  else fmtBytes f n

/-- Bytes of a stored row with its padding (R146). -/
def rowStride (f : Fmt) (n : Nat) : Nat := if isBlock f then (rowBytes f n + 63) / 64 * 64 else fmtBytes f n

/-- Little-endian bytes as a number. -/
def natAt (b : Nat → Nat) (off n : Nat) : Nat := (List.range n).foldr (fun k a => a * 256 + b (off + k)) 0

/-- Element `i` of a stored row of `n` elements, scales included, and whether its TRI5 byte is illegal. -/
def rowAt (f : Fmt) (n : Nat) (b : Nat → Nat) (i : Nat) : XR × Bool :=
  let e := elemAt f b i
  if isBlock f then
    let eb := fmtBytes f n
    let blk := if blockSize f = 0 then 0 else i / blockSize f
    let c := natAt b (eb + blk * scaleBytes f) (scaleBytes f)
    let sup := if f = .qn4 then natAt b (eb + n / 64 + i / qn4Super * 4) 4 else 0
    (scaled f e.1 (scaleVal f c sup) (c == 0), e.2)
  else e

/-- The largest finite value of a format's elements (R52 steps 1 and 2). -/
def fmtMax (f : Fmt) : Q :=
  match ffFmt (elemFmt f) with
  | some ff => ff.maxMag
  | none =>
    match intFmt (elemFmt f) with
    | some (_, hi) => if f = .mxi8 then (Q.ofInt hi).shift (-6) else Q.ofInt hi
    | none => Q.ofInt 1

/-- R44: the level code of an exact multiple of a level; another value takes a code the spec does not state. -/
def qn4Elem (rm : RMode) (neg : Bool) (m : Q) : Nat :=
  match (List.range 8).find? fun k => (m.eq ((Q.ofInt ((qn4Mags[k]?).getD 0 : Nat)).shift (-15))) with
  | some k => k + (if neg then 8 else 0)
  | none => Config.qn4Code (rm.code) (if neg then -m.num else m.num) m.den % 16

/-- R52: the code c of a block's largest magnitude under the superblock scale: 1 to 255, the nearest, ties to the
larger; under a scale of 0 or none, every c ties. -/
def qn4C (sup amax : Q) : Nat :=
  if amax.isZero then 0
  else if sup.isZero then 255
  else
    let err (c : Nat) : Q := (amax.sub (sup.mul ((Q.ofInt c).shift (-8)))).abs
    (List.range 255).foldl (fun best k => if (err (k + 1)).le (err best) then k + 1 else best) 1

/-- R52: a QN4 row: element codes, then the codes c, then the superblock scales, and the flags. PROP writes c 0xFF and a
NaN scale for the superblock (DEDUCED, log 130); S is rounded in the conversion's mode (DEDUCED, log 131). -/
def qn4Row (pol : Nat) (rm : RMode) (srcMax : Q) (xs : List XR) : Option (List Nat × Nat) :=
  let blocks (n : Nat) (ys : List XR) : List (List XR) :=
    (List.range ((ys.length + n - 1) / n)).map fun k => (ys.drop (n * k)).take n
  let sups := (blocks qn4Super xs).map fun sb =>
    let bs := (blocks 64 sb).map fun b => blockSpecials ⟨0xFF, b.map fun _ => 0, 0⟩ ⟨0, b.map fun _ => 0, 0⟩ srcMax pol b
    let amaxOf : Option BlockOut ⊕ (List XR × Nat) → Q
      | .inr (ys, _) => amaxQ ys
      | .inl _ => Q.ofInt 0
    let top := bs.foldl (fun a b => if a.lt (amaxOf b) then amaxOf b else a) (Q.ofInt 0)
    let prop := bs.any fun b => match b with | .inl (some o) => o.scale == 0xFF | _ => false
    let r := fRound ffFP32 rm 0 (.fin false top)
    let sb32 := if prop then ffFP32.canon else r.1
    let sv := (ffDecode ffFP32 r.1).val
    (sb32, if prop then 0 else r.2, bs.map fun b =>
      match b with
      | .inl o => o
      | .inr (ys, fl) =>
        let c := qn4C sv (amaxQ ys)
        let sc := sv.mul ((Q.ofInt c).shift (-8))
        some ⟨c, ys.map fun y => if c = 0 then 0
          else if sc.isZero then Config.zeroScale y.val.num y.val.den % 16
          else qn4Elem rm y.sign (y.val.abs.div sc), fl⟩)
  if sups.any fun x => x.2.2.any fun b => b.isNone then none
  else
    let outs := sups.flatMap fun x => x.2.2.filterMap id
    let codes := packCodes .qn4 (outs.flatMap (·.codes))
    let cs := outs.map (·.scale)
    let ss := sups.flatMap fun x => (List.range 4).map fun k => x.1 / 256 ^ k % 256
    some (codes ++ cs ++ ss, (outs.map (·.flags) ++ sups.map (·.2.1)).foldl (· ||| ·) 0)

/-- R52, R146: the bytes of a row in a block format, padded to 64 bytes, and its flags; none is FAULT. -/
def blockRow (f : Fmt) (pol : Nat) (rm : RMode) (srcMax : Q) (xs : List XR) : Option (List Nat × Nat) :=
  let pad (bs : List Nat) : List Nat := bs ++ List.replicate (rowStride f xs.length - bs.length) 0
  if f = .qn4 then (qn4Row pol rm srcMax xs).map fun r => (pad r.1, r.2)
  else
    let bsz := if blockSize f = 0 then xs.length else blockSize f
    let bs := (List.range ((xs.length + bsz - 1) / bsz)).map fun k =>
      convertBlock f pol rm (fun _ => 0) 0 srcMax ((xs.drop (bsz * k)).take bsz)
    if bs.any (·.isNone) then none
    else
      let outs := bs.filterMap id
      let codes := packCodes f (outs.flatMap (·.codes))
      let ss := outs.flatMap fun o => (List.range (scaleBytes f)).map fun k => o.scale / 256 ^ k % 256
      some (pad (codes ++ ss), (outs.map (·.flags)).foldl (· ||| ·) 0)

/-! ## Parts of a row (R51, R325) -/

/-- The elements of a row that are converted together, block by block (for QN4 superblock by superblock): the first of
each part, and its flags; none is FAULT. -/
def rowParts (f : Fmt) (pol : Nat) (rm : RMode) (srcMax : Q) (xs : List XR) : List (Nat × Option Nat) :=
  let n := if f = .qn4 then qn4Super else if blockSize f = 0 then max 1 xs.length else blockSize f
  (List.range ((xs.length + n - 1) / n)).map fun k =>
    let ys := (xs.drop (n * k)).take n
    (n * k, if f = .qn4 then (qn4Row pol rm srcMax ys).map (·.2)
      else (convertBlock f pol rm (fun _ => 0) 0 srcMax ys).map (·.flags))

/-- The first element of a destination byte's unit (R322): of its byte, or of three bytes of a 6-bit format. -/
def firstElem (f : Fmt) (off : Nat) : Nat :=
  if isTri f then 5 * off else if fmtBits f = 6 then off / 3 * 4 else off * 8 / fmtBits f

/-- The first element of a row of `n` that needs the byte at an offset: a scale's is its block's first, the padding's the
last. -/
def rowOwner (f : Fmt) (n off : Nat) : Nat :=
  let eb := fmtBytes f n
  let bs := if blockSize f = 0 then n else blockSize f
  if !isBlock f || off < eb then firstElem f off
  else if off < eb + n / bs * scaleBytes f then (off - eb) / scaleBytes f * bs
  else if f = .qn4 && off < rowBytes f n then (off - eb - n / bs * scaleBytes f) / 4 * qn4Super
  else firstElem f (eb - 1)

end Sys2Proof.Machine
end

