-- ==== Sys2Proof/Machine/Memory.lean ====
section
/-! DEFINITION. Physical memory: the address map (R138, R139), DRAM hashing (R140), Fulling tags and slots (R317, R318,
R328), channel encryption (R319), and the view a die has of memory through its outbound stage (R342). -/

namespace Sys2Proof.Machine

/-- The live-die count D. -/
def State.liveCount (s : State) : Nat := s.live.length

/-- What lies at a physical address (R138). -/
inductive Home
  | dram (die : Nat)
  | buf (die part : Nat)
  | ws (die group : Nat)
  | spad (core : Nat)
  | sys (die off : Nat)
  | pd (m off : Nat)
  | host
  | none
  deriving DecidableEq, Repr

/-- R140: the package channel of a DRAM address. -/
def dramChannel (d a : Nat) : Nat :=
  let c := 8 * d
  let g := a / 256
  let q := g / c
  let f := (q % 256) ^^^ (q / 256 % 256) ^^^ (q / 65536 % 256)
  (g % c + f) % c

/-- R140: where the die of `place` in the ascending order of live dies keeps a DRAM address: its local channel and the
byte within the channel. -/
def dramLocal (d a : Nat) : Nat × Nat := (dramChannel d a / d, a / 256 / (8 * d) * 256 + a % 256)

/-- R140, the inverse: the DRAM address that local channel `lch` of the die of place `place` keeps at `chaddr`. -/
def dramOf (d place lch chaddr : Nat) : Nat :=
  let c := 8 * d
  let q := chaddr / 256
  let f := (q % 256) ^^^ (q / 256 % 256) ^^^ (q / 65536 % 256)
  let r := (lch * d + place + c * 256 - f) % c
  (q * c + r) * 256 + chaddr % 256

/-- R140: the die that holds a DRAM address. -/
def State.dramDie (s : State) (a : Nat) : Nat :=
  let d := s.liveCount
  (s.live[dramChannel d a % d]?).getD 0

def bufBase (die : Nat) : Nat := 0x4000000000000 + die * 2 ^ 40
def wsBase (die : Nat) : Nat := bufBase die + 0x1000000000
def spadBase (core : Nat) : Nat := bufBase (core / 16) + 0x2000000000 + core % 16 * 0x200000

/-- R138: decode a physical address. -/
def State.homeOf (s : State) (pa : Nat) : Home :=
  if pa < 2 ^ 35 * s.liveCount then .dram (s.dramDie pa)
  else if 0x8000000000000 ≤ pa && pa < 0x10000000000000 then .host
  else if 0x5000000000000 ≤ pa && pa < 0x5020000000000 then
    let off := pa % 2 ^ 40
    if off < 2 ^ 24 then .pd ((pa - 0x5000000000000) / 2 ^ 40) off else .none
  else if 0x4000000000000 ≤ pa && pa < 0x4040000000000 then
    let die := (pa - 0x4000000000000) / 2 ^ 40
    let off := pa % 2 ^ 40
    if off < 2 ^ 26 then .buf die (off / 0x400000)
    else if 0x1000000000 ≤ off && off < 0x1010000000 then .ws die ((off - 0x1000000000) / 0x2000000)
    else if 0x2000000000 ≤ off && off < 0x2002000000 then .spad (die * 16 + (off - 0x2000000000) / 0x200000)
    else if 0x3000000000 ≤ off && off < 0x3001000000 then .sys die (off - 0x3000000000)
    else .none
  else .none

/-- The die that orders writes to an address: the home's die, PD0 for the host. -/
def State.homeDie (s : State) (pa : Nat) : Nat :=
  match s.homeOf pa with
  | .dram d => d
  | .buf d _ => d
  | .ws d _ => d
  | .spad c => c / 16
  | .sys d _ => d
  | .pd m _ => 4 + m
  | .host => 4
  | .none => 0

/-- The agents that R139 and R312 tell apart. -/
inductive Agent
  | port (row : Nat)
  | copy
  | felt
  | epi
  | seq
  deriving DecidableEq, Repr

/-- TILE of an address record (R161). -/
def Agent.tile : Agent → Nat
  | .port r => r
  | .copy => 0xFE
  | .seq => 0xFD
  | .felt => 0xFC
  | .epi => 0xFB

/-- The agent may use another die's on-die buffer (R139). -/
def Agent.remote : Agent → Bool
  | .port _ | .copy => true
  | _ => false

/-- R102: the on-die buffer and weight store of a die in OFF are gone. -/
def State.bufUp (s : State) (die : Nat) : Bool := s.crown.live.testBit die && (s.die die).power != .off

/-- R102: an address in the on-die buffer or weight store of a die in HOLD or PARK is served when the die runs again. -/
def State.asleep (s : State) (pa : Nat) : Bool :=
  let down (d : Nat) : Bool := (s.die d).power == .hold || (s.die d).power == .park
  match s.homeOf pa with
  | .buf d _ | .ws d _ => down d
  | _ => false

/-- R139, R312: an agent of `core` may reach a physical address. -/
def State.reachable (s : State) (core : Nat) (ag : Agent) (pa : Nat) : Bool :=
  match s.homeOf pa with
  | .dram _ | .host => true
  | .buf d p => s.bufUp d && (p < 14 || (p == 15 && ag == .seq)) && (d == core / 16 || ag.remote)
  | .ws d _ => s.bufUp d && d == core / 16
  | .spad c => c == core
  | .sys _ _ | .pd _ _ | .none => false

/-- An address of one of the ranges that windows and pages may map (R144, R150). -/
def State.mappable (s : State) (pa : Nat) : Bool :=
  match s.homeOf pa with
  | .dram _ | .host => true
  | .buf d _ | .ws d _ => s.crown.live.testBit d
  | .spad c => s.crown.live.testBit (c / 16)
  | .sys _ _ | .pd _ _ | .none => false

/-! ## Encryption (R94, R319) -/

/-- The identity of data key `k` of the active table set; 0 is no key, which is what there is while no table set is
active. -/
def State.keyId (s : State) (k : Nat) : Nat :=
  match s.tset with
  | some t => t.keyGen * 16 + k + 1
  | none => 0

/-- A DRAM byte as a read under a key sees it: other bytes when its line was written under another key. -/
def State.readByte (s : State) (key pa : Nat) : Byte :=
  match s.homeOf pa with
  | .dram _ =>
    let k := tblGet 0 s.lineKeys (pa / 128)
    if k = 0 || k = s.keyId key || tblGet 0 s.tags (pa / 128) = 1 then memGet s.mem pa
    else Config.wrongKey (s.keyId key) k pa
  | _ => memGet s.mem pa

/-- R342: the byte that die `die` sees: its own outbound stage answers first, the latest write winning. -/
def State.viewByte (s : State) (die key pa : Nat) : Byte :=
  let hit (f : Flit) : Option Byte :=
    if f.staged && f.src == die then
      f.pieces.foldl (fun a p => if p.pa ≤ pa && pa < p.pa + p.data.length then p.data[pa - p.pa]? else a) none
    else none
  match s.flits.foldl (fun a f => (hit f).or a) none with
  | some b => b
  | none => s.readByte key pa

/-- `n` bytes as a die sees them. -/
def State.viewBytes (s : State) (die key pa : Nat) : Nat → List Byte
  | 0 => []
  | n + 1 => s.viewByte die key pa :: s.viewBytes die key (pa + 1) n

/-- `n` bytes as their homes hold them. -/
def State.readBytes (s : State) (key pa : Nat) : Nat → List Byte
  | 0 => []
  | n + 1 => s.readByte key pa :: s.readBytes key (pa + 1) n

/-- The writes in the stage of a die that a read of the bytes took (R346). -/
def State.stageHits (s : State) (die pa n : Nat) : List Nat :=
  (s.flits.filter fun f => f.staged && f.src == die &&
    f.pieces.any fun p => decide (p.pa < pa + n) && decide (pa < p.pa + p.data.length)).map (·.id)

/-! ## Fulling (R317, R318, R328) -/

/-- Word `k` of a line of 128 bytes. -/
def lineWord (l : List Byte) (k : Nat) : Nat := leNat ((l.drop (8 * k)).take 8)

/-- Every delta from word 0, modulo 2^64 as signed, fits `w` bits. -/
def deltasFit (l : List Byte) (w : Nat) : Bool :=
  (List.range 16).all fun k =>
    let d := toSigned 64 ((lineWord l k + 2 ^ 64 - lineWord l 0) % 2 ^ 64)
    decide (-(2 ^ (w - 1) : Int) ≤ d) && decide (d < 2 ^ (w - 1))

/-- R317: the tag a compressing write of a whole line takes. -/
def fulTag (l : List Byte) : Nat :=
  if l.all (· == 0) then 1
  else if (List.range 16).all fun k => lineWord l k == lineWord l 0 then 2
  else if deltasFit l 8 then 3
  else if deltasFit l 16 then 4
  else 0

/-- Slots a stored line takes whole. -/
def tagSlots (t : Nat) : Nat := if t = 0 then 2 else if t = 1 then 0 else 1

/-- 64-byte halves that bytes [off, off + n) of a line touch. -/
def halves (off n : Nat) : Nat := if n = 0 then 0 else (off + n - 1) / 64 - off / 64 + 1

/-- R317: a read that finds a reserved tag. -/
def State.badTag (s : State) (pa n : Nat) : Bool :=
  match s.homeOf pa with
  | .dram _ => decide (4 < tblGet 0 s.tags (pa / 128)) || (n != 0 && decide (4 < tblGet 0 s.tags ((pa + n - 1) / 128)))
  | _ => false

/-- R328: slots of reading bytes of one line. -/
def State.readSlots (s : State) (pa n : Nat) : Nat :=
  match s.homeOf pa with
  | .dram _ =>
    let t := tblGet 0 s.tags (pa / 128)
    if t = 0 then halves (pa % 128) n else tagSlots t
  | _ => 0

/-- Count the slots of a read, which may cross lines. -/
def State.chargeRead (s : State) (pa n : Nat) : State :=
  let first := 128 - pa % 128
  let k := if n ≤ first then s.readSlots pa n else s.readSlots pa first + s.readSlots (pa + first) (n - first)
  { s with dramSlots := s.dramSlots + k }

/-- R318, R319: write bytes within one DRAM line under a key; `ful` is the writing translation's FUL. -/
def State.writeLine (s : State) (key : Nat) (ful : Bool) (pa : Nat) (bs : List Byte) : State :=
  let line := pa / 128
  let old := tblGet 0 s.tags line
  let whole := bs.length == 128
  let same := tblGet 0 s.lineKeys line == s.keyId key || tblGet 0 s.lineKeys line == 0
  let mem0 := if whole || same then s.mem else memWrite s.mem (line * 128) (s.readBytes key (line * 128) 128)
  let mem := memWrite mem0 pa bs
  let now := memRead mem (line * 128) 128
  let tag := if !ful then 0 else if whole || old != 0 then fulTag now else 0
  let slots := if whole then tagSlots tag
    else if old = 0 then halves (pa % 128) bs.length
    else tagSlots old + tagSlots tag
  { s with mem, tags := tblSet 0 s.tags line tag, lineKeys := tblSet 0 s.lineKeys line (s.keyId key),
           dramSlots := s.dramSlots + slots }

/-- Write bytes, line by line; `fuel` bounds the lines. -/
def State.writeLines (s : State) (key : Nat) (ful : Bool) : Nat → Nat → List Byte → State
  | 0, _, _ => s
  | k + 1, pa, bs =>
    if bs.isEmpty then s
    else
      let n := 128 - pa % 128
      (s.writeLine key ful pa (bs.take n)).writeLines key ful k (pa + n) (bs.drop n)

/-- R135: bytes [pa, pa + n) are written: what late flits left there is gone. -/
def State.forget (s : State) (pa n : Nat) : State :=
  if s.lateData.isEmpty then s
  else { s with lateData := (s.lateData.map fun l => l.filter fun a => decide (a < pa) || decide (pa + n ≤ a)).filter fun l => !l.isEmpty }

/-- Put bytes where they lie; DRAM without its supply keeps nothing (R102; DESIGN CHOICE, log 140). -/
def State.putBytes (s : State) (key : Nat) (ful : Bool) (pa : Nat) (bs : List Byte) : State :=
  match s.homeOf pa with
  | .dram _ => if s.memOff then s else s.writeLines key ful (bs.length / 128 + 2) pa bs
  | _ => { s with mem := memWrite s.mem pa bs }

/-- Write bytes at their home. -/
def State.writeBytes (s : State) (key : Nat) (ful : Bool) (pa : Nat) (bs : List Byte) : State :=
  (s.forget pa bs.length).putBytes key ful pa bs

/-- R333: set the dirty bit of a granule. -/
def State.setDirty (s : State) (key pa bit : Nat) : State :=
  let b := (s.readByte key pa).toNat
  if b.testBit bit then s else s.writeBytes key false pa [BitVec.ofNat 8 (b + 2 ^ bit)]

/-- The granule a piece wrote becomes dirty. -/
def State.markPiece (s : State) (p : Piece) : State :=
  match p.map with
  | some (a, b) => s.setDirty p.key a b
  | none => s

/-- A piece performs at its home. -/
def State.performPiece (s : State) (p : Piece) : State := (s.writeBytes p.key p.ful p.pa p.data).markPiece p

/-- Replace bytes of a list from place `k` on. -/
def overlay (bs : List Byte) (k : Nat) (new : List Byte) : List Byte := bs.take k ++ new ++ bs.drop (k + new.length)

/-- R328: pieces of one DRAM line perform as one write of the span they touch; bytes between them keep their contents. -/
def State.performLine (s : State) (p : Piece) (ps : List Piece) : State :=
  let lo := ps.foldl (fun a q => min a q.pa) p.pa
  let hi := ps.foldl (fun a q => max a (q.pa + q.data.length)) (p.pa + p.data.length)
  let all := p :: ps
  let bytes := all.foldl (fun bs q => overlay bs (q.pa - lo) q.data) (s.readBytes p.key lo (hi - lo))
  let s := all.foldl (fun s q => s.forget q.pa q.data.length) s
  all.foldl State.markPiece (s.putBytes p.key p.ful lo bytes)

/-- Two pieces of one write belong to one DRAM line, under one key and FUL bit. -/
def State.sameLine (s : State) (p q : Piece) : Bool :=
  p.pa / 128 == q.pa / 128 && p.key == q.key && p.ful == q.ful && (match s.homeOf p.pa with | .dram _ => true | _ => false)

/-- Pieces perform at their homes, those of one DRAM line together; `fuel` bounds the lines. -/
def State.performSome (s : State) : Nat → List Piece → State
  | 0, _ | _, [] => s
  | n + 1, p :: r =>
    let (mine, rest) := r.partition (s.sameLine p)
    (if mine.isEmpty then s.performPiece p else s.performLine p mine).performSome n rest

def State.performPieces (s : State) (ps : List Piece) : State := s.performSome ps.length ps

/-- The dirty bit of a granule, as a die sees it: a write of its own that waits in its outbound stage has dirtied it. -/
def State.dirtyBit (s : State) (die key pa bit : Nat) : Bool :=
  (s.viewByte die key pa).toNat.testBit bit ||
    s.flits.any fun f => f.staged && f.src == die && f.pieces.any fun p => p.map == some (pa, bit)

/-- R135: a read of bytes that a late flit wrote, and the state in which they have been read. -/
def State.lateRead (s : State) (pa n : Nat) : Bool × State :=
  let touched (l : List Nat) : Bool := l.any fun a => decide (pa ≤ a) && decide (a < pa + n)
  if s.lateData.any touched then (true, { s with lateData := s.lateData.filter fun l => !touched l }) else (false, s)

/-- Group pieces by what lies at their home. -/
def byHome (s : State) : List Piece → List (Home × List Piece)
  | [] => []
  | p :: r =>
    let h := s.homeOf p.pa
    let g := byHome s r
    if g.any fun x => x.1 == h then g.map fun x => if x.1 == h then (x.1, p :: x.2) else x else (h, [p]) :: g

/-- A piece that its core's scratchpad banks serve. -/
def inSpad (s : State) (p : Piece) : Bool := match s.homeOf p.pa with | .spad _ => true | _ => false

/-- R313: the first cycle at or after now at which a bank group of the weight store is there. -/
def wsServe (s : State) (group : Nat) : Nat :=
  let ph := (s.tick + 400 - 50 * group % 400) % 400
  if ph < 4 then tickStart (s.tick + 4 - ph) else s.now

/-- R333: the address a read uses: the live face where a MERGE granule is clean; `own` says that a write of the reader
itself, which it would be forwarded from, has dirtied it. -/
def livePiece (s : State) (die : Nat) (own : Bool) (p : Piece) : Piece :=
  match p.alt, p.map with
  | some a, some (mpa, bit) => if own || s.dirtyBit die p.key mpa bit then p else { p with pa := a }
  | _, _ => p

/-- A lane's block is firm: its requests are reserved. -/
def State.isFirm (s : State) (lane : Nat) : Bool :=
  match (s.lane lane).rel with
  | some r => !r.entry.elastic
  | none => false

end Sys2Proof.Machine
end

