-- ==== Sys2Proof/Machine/Links.lean ====
section
/-! DEFINITION. The ways of an access to its home outside the core: the die-to-die links with their slots (R13, R134 to
R137), the wheels of the DRAM channels (R315, R316), and the sending of writes (R312, R342). -/

namespace Sys2Proof.Machine

/-! ## Reservations (R136) -/

def linkPairs : List (Nat × Nat) := [(0, 1), (1, 3), (3, 2), (2, 0), (0, 4), (1, 4), (2, 5), (3, 5), (4, 5)]

/-- The physical links a record's named pairs of dies reserve on, the lower die first. -/
def reservedLinks (s : State) (vmap : List Nat) (r : Resv) : List (Nat × Nat) :=
  (List.range 9).flatMap fun k =>
    if r.links.testBit k then
      match linkPairs[k]? with
      | some (a, b) =>
        let ph (x : Nat) : Nat := if x < 4 then (vmap[x]?).getD x else x
        let rt := route s (ph a) (ph b)
        (rt.zip (rt.drop 1)).map fun y => if y.1 < y.2 then y else (y.2, y.1)
      | none => []
    else []

/-- The reservation record of the firm block on a lane. -/
def State.firmResv (s : State) (lane : Nat) : Option Resv :=
  match (s.lane lane).rel with
  | some r => if r.entry.elastic then none else r.entry.resv
  | none => none

/-- R136: the flits a lane's entry has reserved in every slot of the link from die `a` to die `b`. -/
def State.linkQuota (s : State) (lane a b : Nat) : Nat :=
  match s.firmResv lane, (s.lane lane).rel.bind fun r => s.works.find? fun w => w.workid == r.entry.workid with
  | some v, some w => ((reservedLinks s w.vmap v).filter fun y => y == (min a b, max a b)).length * v.lflits
  | _, _ => 0

/-! ## Trains of flits (R13, R134, R137) -/

/-- Flits that carry `n` bytes. -/
def flitsOf (n : Nat) : Nat := max 1 ((n + 255) / 256)

/-- A message is handed to its route's first link: it waits there from slot `slot` on. -/
def State.sendTrain (s : State) (lane src dst n slot : Nat) (cargo : Cargo) : State :=
  let (id, s) := s.fresh
  { s with trains := s.trains ++ [{ id, src, dst, lane, n, left := n, hop := 0, slot, due := none, late := false, cargo }] }

/-- The link direction that a train waits at. -/
def State.trainLink (s : State) (t : Train) : Option (Nat × Nat) :=
  let rt := route s t.src t.dst
  match rt[t.hop]?, rt[t.hop + 1]? with
  | some a, some b => some (a, b)
  | _, _ => none

/-- It waits at a link direction in a slot. -/
def State.waitsAt (s : State) (link : Nat × Nat) (slot : Nat) (t : Train) : Bool :=
  t.due.isNone && decide (t.slot ≤ slot) && t.left != 0 && s.trainLink t == some link

def isControl (t : Train) : Bool := match t.cargo with | .control => true | _ => false

/-- Carry up to `n` flits of the trains that `sel` picks, in order; the flits not used. -/
def carry (sel : Train → Bool) : List Train → Nat → List Train × Nat
  | [], n => ([], n)
  | t :: r, n =>
    let k := if sel t then min n t.left else 0
    let (r, n) := carry sel r (n - k)
    ({ t with left := t.left - k } :: r, n)

/-- The first die of six after die `last`, in turn, for which `has` holds. -/
def inTurn (count last : Nat) (has : Nat → Bool) : Option Nat :=
  ((List.range count).map fun k => (last + 1 + k) % count).find? has

/-- R137: unreserved flits, one from each source die in turn, while there is room; `fuel` is the room. -/
def carryTurns (sel : Train → Bool) : Nat → List Train → Nat → List Train × Nat
  | 0, ts, last => (ts, last)
  | room + 1, ts, last =>
    match inTurn 6 last fun d => ts.any fun t => sel t && t.left != 0 && t.src == d with
    | none => (ts, last)
    | some d => carryTurns sel room (carry (fun t => sel t && t.src == d) ts 1).1 d

/-- R137: what a link direction carries in a slot: reserved flits in lane order up to each entry's quota, then the I/O
network's, then the rest in turn; 100 flits in all. -/
def State.linkSlot (s : State) (slot : Nat) (link : Nat × Nat) : State :=
  let here := s.waitsAt link slot
  if !s.trains.any here then s
  else
    let quota (t : Train) : Nat := if isControl t then 0 else s.linkQuota t.lane link.1 link.2
    let lanes := (List.range 256).filter fun l => s.trains.any fun t => here t && t.lane == l && quota t != 0
    let (ts, room) := lanes.foldl (fun (a : List Train × Nat) l =>
      let q := min a.2 (s.linkQuota l link.1 link.2)
      let (ts, left) := carry (fun t => here t && t.lane == l && !isControl t) a.1 q
      (ts, a.2 - (q - left))) (s.trains, 100)
    let (ts, room) := carry (fun t => here t && isControl t) ts room
    let key := link.1 * 8 + link.2
    let (ts, last) := carryTurns (fun t => here t && !isControl t && quota t == 0) room ts (tblGet 5 s.linkLast key)
    { s with trains := ts, linkLast := tblPut s.linkLast key last }

/-- R134: a train that has made a hop in a slot: the next die forwards it two ticks on (three after the first hop), where
it is read from if that die is its destination. A train held at a later hop is late (R135). -/
def State.advance (s : State) (slot : Nat) (t : Train) : Train :=
  if t.due.isSome || t.left != 0 || slot < t.slot then t
  else
    let at_ := slot + (if t.hop = 0 then 3 else 2)
    let late := t.late || (t.hop != 0 && decide (t.slot < slot))
    if t.hop + 1 < hops s t.src t.dst then { t with left := t.n, hop := t.hop + 1, slot := at_, late }
    else { t with due := some at_, late }

/-- One slot of every link direction. -/
def State.linkSlots (s : State) (slot : Nat) : State :=
  if s.trains.isEmpty then s
  else
    let s := (links.flatMap fun y => [y, (y.2, y.1)]).foldl (fun s l => s.linkSlot slot l) s
    { s with trains := s.trains.map (s.advance slot) }

/-- Flits of the I/O network (R137): a launch packet, a mode-change request or RESYNC traffic to every live die. -/
def State.sendControl (s : State) (src n : Nat) : State :=
  (s.live.filter (· != src)).foldl (fun s d => s.sendTrain 0 src d n s.tick .control) s

/-! ## DRAM channels (R315, R316) -/

/-- Requests a lane has outstanding on a channel (R316). -/
def dramOutstanding (s : State) (lane ch : Nat) : Nat :=
  let on (p : Piece) : Bool := match s.homeOf p.pa with | .dram _ => !p.done && dramChannel s.liveCount p.pa == ch | _ => false
  ((s.core (coreOf lane)).reqs.filter fun r => r.lane == lane && r.pieces.any on).length +
    (s.flits.filter fun f => f.lane == lane && f.pieces.any on).length

/-- Unreserved slots of a channel used in a tick; what a burst took beyond a tick's wheel weighs on the ticks after. -/
def DramCh.usedIn (d : DramCh) (tick : Nat) : Nat := d.used - 64 * (tick - d.tick)

/-- Slots of a tick that reserved turns have taken (R315). -/
def DramCh.reservedIn (d : DramCh) (tick : Nat) : Nat :=
  d.turns.foldl (fun a y => a + (if y.2.tick = tick then y.2.used else if tick < y.2.tick then y.2.cap else 0)) 0

/-- Slots of every tick that the firm blocks now running may claim first. -/
def State.reservedSlots (s : State) : Nat := s.lanes.foldl (fun a y => a + ((s.firmResv y.1).map (·.dslots)).getD 0) 0

/-- A turn after `n` more slots, from a tick on. -/
def DramTurn.take (t : DramTurn) (cap tick n : Nat) : DramTurn :=
  let (at_, used) := if t.tick < tick then (tick, 0) else (t.tick, t.used)
  let last := at_ + (used + n - 1) / cap
  { tick := last, used := used + n - (last - at_) * cap, cap }

/-- The port die of the host's memory (R394). -/
def hostDie : Nat := 4

/-- A write in transit will arrive at a cycle: writes of one sender, and of one die to host memory (R134), arrive in
order. -/
def State.flitDue (s : State) (flit t : Nat) : State :=
  match s.flits.find? fun f => f.id == flit with
  | none => s
  | some f =>
    let before (g : Flit) : Bool := g.id < flit && g.dst == f.dst && (g.sender == f.sender || (f.dst == hostDie && g.src == f.src))
    let t := (s.flits.filter before).foldl (fun a g => max a g.due) t
    let (c, s) := s.free
    let late := f.staged && Config.flitLate c
    let t := if late then t + 120 * (1 + Config.lateTicks c) else t
    State.post { s with flits := s.flits.map fun g => if g.id = flit then { g with due := if late then g.due else t } else g } t
      (.flitDelivery flit late)

/-- The pieces of a request that `sel` picks are due at their home at a cycle. -/
def State.markDue (s : State) (core id t : Nat) (sel : Piece → Bool) : State :=
  s.modCore core fun c => { c with reqs := c.reqs.map fun r =>
    if r.id = id then { r with pieces := r.pieces.map fun p => if sel p && p.due.isNone then { p with due := some t } else p } else r }

/-- The pieces of a request that `sel` picks perform at their home at a cycle. -/
def State.reqDue (s : State) (core id t : Nat) (sel : Piece → Bool) : State := (s.markDue core id t sel).post t (.memoryReply id)

/-- A piece on a DRAM channel. -/
def State.onChannel (s : State) (ch : Nat) (p : Piece) : Bool :=
  match s.homeOf p.pa with | .dram _ => dramChannel s.liveCount p.pa == ch | _ => false

/-- An access to a channel is served at a cycle. -/
def State.dramServe (s : State) (ch : Nat) (cargo : Cargo) (t : Nat) : State :=
  match cargo with
  | .write flit => s.flitDue flit t
  | .ask core req => s.reqDue core req t (s.onChannel ch)
  | _ => s

/-- R315, R316: an access of a lane reaches a channel. A firm entry's takes its turn at DSLOTS a tick; within three times
that many outstanding it completes in 480 cycles. Any other is served now when the tick has room beyond what is reserved,
else it waits for the end of the tick. -/
def State.dramPost (s : State) (lane ch slots : Nat) (cargo : Cargo) : State :=
  let d := tblGet {} s.drams ch
  let (c, s) := s.free
  match (s.firmResv lane).filter fun v => v.dslots != 0 with
  | some v =>
    let turn := (tblGet {} d.turns lane).take v.dslots s.tick slots
    let from_ := if dramOutstanding s lane ch ≤ 3 * v.dslots then s.now + 1 else max (s.now + 1) (tickStart turn.tick)
    State.dramServe { s with drams := tblPut s.drams ch { d with turns := tblPut d.turns lane turn } } ch cargo
      (from_ + Config.dramDelay c % 480)
  | none =>
    if d.waits.isEmpty && d.usedIn s.tick + slots + s.reservedSlots ≤ 64 then
      State.dramServe { s with drams := tblPut s.drams ch { d with tick := s.tick, used := d.usedIn s.tick + slots } } ch cargo
        (s.now + 1 + Config.dramDelay c)
    else { s with drams := tblPut s.drams ch { d with waits := d.waits ++ [{ core := coreOf lane, slots, cargo }] } }

/-- R315: page walks, DMA engines and the host use slots of the unreserved share before elastic traffic. -/
def State.dramCharge (s : State) (pa slots : Nat) : State :=
  match s.homeOf pa with
  | .dram _ =>
    let ch := dramChannel s.liveCount pa
    let d := tblGet {} s.drams ch
    { s with drams := tblPut s.drams ch { d with tick := s.tick, used := d.usedIn s.tick + slots } }
  | _ => s

/-- The same for `n` bytes over all their channels. -/
def State.dramChargeAll (s : State) (pa n : Nat) : State :=
  (List.range ((pa + n + 255) / 256 - pa / 256)).foldl (fun s k =>
    let lo := max pa ((pa / 256 + k) * 256)
    let hi := min (pa + n) ((pa / 256 + k + 1) * 256)
    s.dramCharge lo ((hi + 63) / 64 - lo / 64)) s

/-- R315: the waiting accesses that a tick's wheel still serves, by core in turn; `fuel` bounds them. -/
def dramGrant (tick : Nat) : Nat → DramCh → List Cargo → DramCh × List Cargo
  | 0, d, out => (d, out)
  | n + 1, d, out =>
    if d.reservedIn tick + d.usedIn tick < 64 then
      match (inTurn 64 d.last fun k => d.waits.any fun w => w.core == k).bind fun k => d.waits.find? fun w => w.core == k with
      | none => (d, out)
      | some w =>
        dramGrant tick n { d with waits := d.waits.erase w, last := w.core, tick, used := d.usedIn tick + w.slots } (out ++ [w.cargo])
    else (d, out)

/-- R315: the end of a tick on every channel. -/
def State.dramSlotsEnd (s : State) (tick : Nat) : State :=
  s.drams.foldl (fun s y =>
    if y.2.waits.isEmpty then s
    else
      let (d, out) := dramGrant tick y.2.waits.length y.2 []
      out.foldl (fun s w => let (c, s) := s.free; s.dramServe y.1 w (s.now + 1 + Config.dramDelay c))
        { s with drams := tblPut s.drams y.1 d }) s

/-- The slots that writing some pieces takes (R318, R328). -/
def State.writeSlots (s : State) (ps : List Piece) : Nat := max 1 ((s.performPieces ps).dramSlots - s.dramSlots)

/-! ## Sending writes to their homes (R134, R312, R316, R342) -/

/-- A home on another die: the die that a message for it travels to. Requests to DRAM keep to R316's own bound and take
no link slots (log 133); accesses to host memory take slots and have no stated time (R394, R397). -/
def State.farDie (s : State) (die pa : Nat) : Option Nat :=
  match s.homeOf pa with
  | .buf d _ => if d = die then none else some d
  | _ => none

/-- Send a write: it is in transit until it is delivered; a write to another die waits in the outbound stage meanwhile.
It takes 25 cycles to the own die's buffer (R312), the links to another's (R134), R316's time to DRAM, and no stated time
to host memory (R394). -/
def State.sendWrite (s : State) (lane : Nat) (sender : Sender) (ps : List Piece) : State :=
  match ps with
  | [] => s
  | p :: _ =>
    let die := dieOf lane
    let dst := s.homeDie p.pa
    let (id, s) := s.fresh
    let home := s.homeOf p.pa
    let f : Flit := { id, src := die, dst, posted := s.tick, due := 0, staged := dst != die, sender, lane, pieces := ps }
    let s : State := { s with flits := s.flits ++ [f] }
    let n := flitsOf (ps.foldl (fun (a : Nat) (q : Piece) => a + q.n) 0)
    match s.farDie die p.pa with
    | some d => s.sendTrain lane die d n s.tick (.write id)
    | none =>
      match home with
      | .dram _ => s.dramPost lane (dramChannel s.liveCount p.pa) (s.writeSlots ps) (.write id)
      | .buf _ _ => s.flitDue id (s.now + 25)
      | .host =>
        let (c, s) := s.free
        (s.sendTrain lane die hostDie n s.tick .host).flitDue id (s.now + 1 + Config.hostDelay c)
      | _ => s.flitDue id (s.now + 1)

end Sys2Proof.Machine
end

