-- ==== Sys2Proof/Machine/Translate.lean ====
section
/-! DEFINITION. Translation: heap windows (R143 to R147), the page table and its walks (R148 to R150, R158), TLBs (R151
to R155), and what an access meets (R139, R156, R157). -/

namespace Sys2Proof.Machine

/-! ## Attributes of a window or page -/

structure Attr where
  rd : Bool := false
  wr : Bool := false
  at_ : Bool := false
  strict : Bool := false
  ful : Bool := false
  pol : Nat := 0xAA
  key : Nat := 0
  rowl : Nat := 0
  scl : Nat := 0
  fmt : Nat := 0
  wblk : Bool := false
  dirty : Bool := true
  deriving DecidableEq, Repr, Inhabited

/-- HWIN[n].ATTR (R143). -/
def winAttr (w : Nat) : Attr :=
  { rd := w.testBit 62, wr := w.testBit 61, at_ := w.testBit 60, strict := w.testBit 59, ful := w.testBit 58,
    pol := fld w 48 8, key := fld w 40 4, rowl := fld w 36 4, scl := fld w 32 4, fmt := fld w 0 5 }

/-- A leaf of the page table (R148). -/
def leafAttr (w : Nat) : Attr :=
  { rd := w.testBit 3, wr := w.testBit 4, at_ := w.testBit 5, strict := w.testBit 70, ful := w.testBit 69,
    pol := fld w 88 8, key := fld w 84 4, rowl := fld w 80 4, scl := fld w 76 4, fmt := fld w 71 5,
    wblk := w.testBit 8, dirty := w.testBit 7 }

/-- The format of a code of R31. -/
def fmtOf (n : Nat) : Option Fmt := (Fmt.ofCode 0 n).toOption

/-- R147: a reserved combination of a format with its geometry. -/
def comboBad (a : Attr) : Bool :=
  match fmtOf a.fmt with
  | none => true
  | some f =>
    2 ≤ a.scl || (isBlock f && a.scl == 0) || (!isBlock f && a.scl == 1) || (f == .qn4 && a.rowl < 9) ||
      (f == .bi8 && a.rowl < 2)

/-- What an access does. -/
inductive Acc3 | read | write | atomic
  deriving DecidableEq, Repr

def Attr.permits (a : Attr) : Acc3 → Bool
  | .read => a.rd
  | .write => a.wr
  | .atomic => a.at_

/-! ## Windows -/

def Win.valid (w : Win) : Bool := w.attr.testBit 63
def winHit (w : Win) (va : Nat) : Bool := w.attr.testBit 63 && decide (w.base ≤ va) && decide (va < w.limit)
/-- R143: the address plus the two's-complement offset. -/
def winPa (w : Win) (va : Nat) : Nat := (va + w.offset) % 2 ^ 64

/-- R144: a window whose V is to be set may take these values; `core` is the issuing core, or none for an ASET. -/
def winOk (s : State) (core : Option Nat) (w : Win) : Bool :=
  let lo := winPa w w.base
  let hi := winPa w (w.limit - 1)
  let same : Bool :=
    match s.homeOf lo, s.homeOf hi with
    | .dram _, .dram _ => true
    | .host, .host => true
    | .buf d _, .buf e _ => d == e && s.crown.live.testBit d
    | .ws d _, .ws e _ => d == e && s.crown.live.testBit d
    | .spad c, .spad e => c == e && s.crown.live.testBit (c / 16) && (match core with | some k => k == c | none => true)
    | _, _ => false
  let r := w.attr
  decide (w.base < w.limit) && same && decide (lo ≤ hi) && fld r 56 2 == 0 && fld r 44 4 == 0 && fld r 5 27 == 0 &&
    w.base % 256 == 0 && decide (w.base < 2 ^ 48) && w.limit % 256 == 0 && decide (w.limit < 2 ^ 48) && w.offset % 256 == 0

/-! ## The page table -/

/-- The entry covering bits of a level (R148): level 0 to 3. -/
def levelShift (level : Nat) : Nat := 39 - 9 * level

/-- R149: whether a span is listed for a level. -/
def spanOk (level span : Nat) : Bool :=
  match level with
  | 1 | 2 => span == 0 || span == 2
  | 3 => decide (span ≤ 3)
  | _ => false

/-- A 128-bit entry, read under data key 0. -/
def State.pte (s : State) (a : Nat) : Nat := leNat (s.readBytes 0 a 16)

inductive Walk
  /-- The leaf with its group's ACC, DIRTY and WBLK, the page's virtual base and size, and the group's first entry. -/
  | leaf (word va size first : Nat)
  | invalid
  | malformed
  deriving DecidableEq, Repr

/-- One level of a walk (R148 to R150). -/
def walkFrom (s : State) (va : Nat) : Nat → Nat → Nat → Walk
  | 0, _, _ => .malformed
  | fuel + 1, level, table =>
    let idx := va / 2 ^ levelShift level % 512
    let w := s.pte (table + idx * 16)
    if !w.testBit 0 then .invalid
    else if w.testBit 2 then
      let span := fld w 9 3
      let n := 4 ^ span
      let size := n * 2 ^ levelShift level
      let pa := fld w 12 40 * 4096
      let first := table + idx / n * n * 16
      let g := s.pte first
      let word := w / 512 * 512 + fld g 6 3 * 64 + w % 64
      if !spanOk level span || pa % size != 0 || fld w 96 32 != 0 || fld w 52 16 != 0 || w.testBit 1 ||
          !s.mappable pa || !s.mappable (pa + size - 1) then .malformed
      else .leaf word (va / size * size) size first
    else if level = 3 || w != 1 + fld w 13 39 * 8192 then .malformed
    else walkFrom s va fuel (level + 1) (fld w 13 39 * 8192)

def State.walk (s : State) (workid va : Nat) : Walk := walkFrom s va 4 0 (tblGet {} s.spaces workid).root

/-- The entries that a walk reads. -/
def walkPath (s : State) (va : Nat) : Nat → Nat → Nat → List Nat
  | 0, _, _ => []
  | fuel + 1, level, table =>
    let a := table + va / 2 ^ levelShift level % 512 * 16
    let w := s.pte a
    a :: if w.testBit 0 && !w.testBit 2 && level < 3 then walkPath s va fuel (level + 1) (fld w 13 39 * 8192) else []

/-- R151, R315: a walk reads in the unreserved share. -/
def State.chargeWalk (s : State) (workid va : Nat) : State :=
  (walkPath s va 4 0 (tblGet {} s.spaces workid).root).foldl (fun s a => s.dramCharge a 1) s

/-- R158: a walk sets ACC, and DIRTY for a store unless WBLK stands. -/
def State.markWalk (s : State) (word first : Nat) (store : Bool) : State :=
  let g := s.pte first
  let acc := if g.testBit 6 then g else g + 64
  let dir := if store && !word.testBit 8 && !acc.testBit 7 then acc + 128 else acc
  if dir = g then s else s.writeBytes 0 false first (leBytes 16 dir)

/-! ## TLBs (R151) -/

/-- The translation of an address in a TLB. -/
def tlbFind (t : List TlbEnt) (workid va : Nat) : Option TlbEnt :=
  t.find? fun e => e.workid == workid && decide (e.va ≤ va) && decide (va < e.va + e.size)

/-- The unlocked entry used longest ago. -/
def tlbOldest : List TlbEnt → Option TlbEnt
  | [] => none
  | e :: t =>
    match tlbOldest t with
    | none => if e.locks = 0 && e.pins = 0 then some e else none
    | some f => if e.locks = 0 && e.pins = 0 && e.used ≤ f.used then some e else some f

/-- An entry that replacement leaves alone (R155). -/
def TlbEnt.locked (e : TlbEnt) : Bool := e.locks != 0 || e.pins != 0

/-- Put a translation in a TLB of `cap` entries, in place of the same page's or of the one used longest ago. -/
def tlbPut (cap : Nat) (t : List TlbEnt) (e : TlbEnt) : List TlbEnt :=
  let t := t.filter fun x => !(x.workid == e.workid && x.va == e.va)
  if t.length < cap then t ++ [e]
  else
    match tlbOldest t with
    | none => t
    | some o => (t.filter fun x => !(x.workid == o.workid && x.va == o.va)) ++ [e]

/-- Mark a page used. -/
def tlbTouch (t : List TlbEnt) (workid va now : Nat) : List TlbEnt :=
  t.map fun e => if e.workid == workid && e.va ≤ va && va < e.va + e.size then { e with used := now } else e

/-- R151, R155: a walk fills a die's TLB; a locked translation of the page is used unchanged. -/
def State.fillDie (s : State) (die : Nat) (e : TlbEnt) : State :=
  s.modDie die fun d =>
    if d.tlb.any fun x => x.workid == e.workid && x.va == e.va && x.locked then d else { d with tlb := tlbPut 8192 d.tlb e }
def State.fillCore (s : State) (core : Nat) (e : TlbEnt) : State := s.modCore core fun c => { c with tlb := tlbPut 128 c.tlb e }
def State.fillPort (s : State) (core row : Nat) (e : TlbEnt) : State :=
  s.modCore core fun c => let p := c.port row; c.setPort row { p with tlb := tlbPut 8 p.tlb e }

/-- The leaf usable for the access: a store never uses a translation whose DIRTY was seen clear (R158), except a
blocked one, which holds the store. -/
def usable (e : TlbEnt) (store : Bool) : Bool := !store || e.leaf.testBit 7 || e.leaf.testBit 8

/-- Where a translation stands: its level (0 the agent's own: a port's TLB, or the pages a copy is on; 1 core, 2 die), or
a walk is needed. -/
inductive Found
  | hit (level : Nat) (e : TlbEnt)
  | miss
  deriving DecidableEq, Repr

/-- R151, R153: search the levels; firm work uses only what admission or PIN locked (R155). -/
def State.tlbSearch (s : State) (lane : Nat) (ag : Agent) (workid va : Nat) (store : Bool) : Found :=
  let c := s.core (coreOf lane)
  let ok (o : Option TlbEnt) : Option TlbEnt := o.bind fun e => if usable e store then some e else none
  let own := match ag with
    | .port r => ok (tlbFind (c.port r).tlb workid va)
    | .copy => ok (tlbFind (if store then c.dstXl else c.srcXl) workid va)
    | _ => none
  match own with
  | some e => .hit 0 e
  | none =>
    match ok (tlbFind c.tlb workid va) with
    | some e => .hit 1 e
    | none =>
      match ok (tlbFind (s.die (dieOf lane)).tlb workid va) with
      | some e => if s.isFirm lane && !e.locked then .miss else .hit 2 e
      | none => .miss

/-- R151: the cycles a translation found at a level adds. -/
def addedCycles (ag : Agent) (level : Nat) : Nat :=
  match level with
  | 0 => 0
  | 1 => (match ag with | .port _ => 8 | _ => 0)
  | _ => 30

/-- R151: the page is marked used in the TLB it was found in. -/
def State.touch (s : State) (lane : Nat) (ag : Agent) (level workid va : Nat) : State :=
  match level, ag with
  | 0, .port r => s.modCore (coreOf lane) fun c => let p := c.port r; c.setPort r { p with tlb := tlbTouch p.tlb workid va s.now }
  | 0, _ => s
  | 1, _ => s.modCore (coreOf lane) fun c => { c with tlb := tlbTouch c.tlb workid va s.now }
  | _, _ => s.modDie (dieOf lane) fun d => { d with tlb := tlbTouch d.tlb workid va s.now }

/-- R153: the translations that a copy took for its source, or its destination, while it is on their pages. -/
def State.holdXl (s : State) (core : Nat) (store : Bool) (e : TlbEnt) : State :=
  s.modCore core fun c => if store then { c with dstXl := c.dstXl ++ [e] } else { c with srcXl := c.srcXl ++ [e] }

/-- Fill the levels above the one a translation was found at. -/
def State.fillFrom (s : State) (lane : Nat) (ag : Agent) (level : Nat) (store : Bool) (e : TlbEnt) : State :=
  let plain := { e with locks := 0, pins := 0, used := s.now, heat := 0, deliv := 0 }
  let s := if 2 ≤ level then s.fillCore (coreOf lane) plain else s
  match ag with
  | .port r => if 1 ≤ level then s.fillPort (coreOf lane) r plain else s
  | .copy => if 1 ≤ level then s.holdXl (coreOf lane) store plain else s
  | _ => s

/-! ## Translating an access -/

inductive Tr
  /-- The physical address, the attributes, the page if paged (base, and 1 + base when counted), cycles added. -/
  | ok (pa : Nat) (a : Attr) (paged : Bool) (counted : Nat) (added : Nat)
  | fault (c : Code) (info : Nat)
  /-- R157: a leaf or table entry with V = 0 met by elastic work. -/
  | absent (va : Nat)
  deriving DecidableEq, Repr

/-- R29: an address lies in a page that holds a verified container. -/
def State.roPage (s : State) (pa : Nat) : Bool :=
  s.conts.any fun c => c.ro && decide (c.addr / 4096 ≤ pa / 4096) && decide (pa / 4096 ≤ (c.addr + c.total - 1) / 4096)

/-- R139, R156, R394: what an address and its attributes allow. -/
def State.trCheck (s : State) (lane : Nat) (ag : Agent) (acc : Acc3) (hostOk : Bool) (va pa : Nat) (a : Attr)
    (paged : Bool) (counted added : Nat) : Tr :=
  if !a.permits acc then .fault .permission va
  else if !s.reachable (coreOf lane) ag pa || (acc != .read && s.roPage pa) then .fault .permission va
  else if paged && !hostOk && s.homeOf pa == .host then .fault .permission va
  else .ok pa a paged counted added

/-- The work a lane's accesses belong to. -/
def State.workOf (s : State) (lane : Nat) : Nat :=
  match (s.lane lane).rel with
  | some r => r.entry.workid
  | none => 0xFFFF

/-- A paged access: by the TLBs, else by a walk made now. -/
def State.trPage (s : State) (lane : Nat) (ag : Agent) (acc : Acc3) (hostOk : Bool) (va : Nat) : State × Tr :=
  let workid := s.workOf lane
  let store := acc != .read
  let fin (s : State) (e : TlbEnt) (added : Nat) : State × Tr :=
    let counted := match ag with | .port _ => if e.leaf.testBit 68 then e.va + 1 else 0 | _ => 0
    (s, s.trCheck lane ag acc hostOk va (fld e.leaf 12 40 * 4096 + (va - e.va)) (leafAttr e.leaf) true counted added)
  match s.tlbSearch lane ag workid va store with
  | .hit level e => fin ((s.touch lane ag level workid va).fillFrom lane ag level store e) e (addedCycles ag level)
  | .miss =>
    if s.isFirm lane then (s, .fault .pageAbsent va)
    else
      let s := s.chargeWalk workid va
      match s.walk workid va with
      | .invalid => (s, .absent va)
      | .malformed => (s, .fault .pageAbsent (va + 2 ^ 64))
      | .leaf word base size first =>
        let s := s.markWalk word first store
        let seen := if store && !word.testBit 8 && !word.testBit 7 then word + 128 else word
        let e : TlbEnt := { workid, va := base, size, leaf := seen, used := s.now }
        let (c, s) := s.free
        fin ((s.fillDie (dieOf lane) e).fillFrom lane ag 2 store e) e (30 + Config.walkDelay c)

/-- R143: translate `n` bytes at `va` by the windows given and, for HWIN 0xFF, by the page table. -/
def State.translate (s : State) (lane : Nat) (ag : Agent) (wins : List Win) (hwin va n : Nat) (acc : Acc3)
    (hostOk : Bool) : State × Tr :=
  let byWin (w : Win) : Tr := s.trCheck lane ag acc true va (winPa w va) (winAttr w.attr) false 0 0
  if hwin != 0xFF then
    match wins[hwin]? with
    | some w => if winHit w va && decide (va + n ≤ w.limit) then (s, byWin w) else (s, .fault .window va)
    | none => (s, .fault .window va)
  else
    match wins.find? fun w => winHit w va with
    | some w => (s, byWin w)
    | none => s.trPage lane ag acc hostOk va

/-- The cycles that translating at issue would add, without changing anything; none for a walk that is still to be
made (R151, R152). -/
def State.probe (s : State) (lane : Nat) (ag : Agent) (wins : List Win) (hwin va : Nat) (store : Bool) : Option Nat :=
  if hwin != 0xFF || wins.any (fun w => winHit w va) then some 0
  else
    match s.tlbSearch lane ag (s.workOf lane) va store with
    | .hit level _ => some (addedCycles ag level)
    | .miss => if s.isFirm lane then some 0 else none

/-- R158: a page walk made for an access of a work on a die: it fills the die's TLB. -/
def State.doWalk (s : State) (die workid va : Nat) (store : Bool) : State :=
  let s := s.chargeWalk workid va
  match s.walk workid va with
  | .leaf word base size first =>
    let seen := if store && !word.testBit 8 && !word.testBit 7 then word + 128 else word
    (s.markWalk word first store).fillDie die { workid, va := base, size, leaf := seen, used := s.now }
  | _ => s

/-- Split [va, va + n) at multiples of 64 bytes; `fuel` bounds the pieces. -/
def splitLines : Nat → Nat → Nat → List (Nat × Nat)
  | 0, _, _ => []
  | k + 1, va, n =>
    if n = 0 then []
    else
      let m := if n < 64 - va % 64 then n else 64 - va % 64
      (va, m) :: splitLines k (va + m) (n - m)

/-- Translate a run of bytes piece by piece: pieces in order, or the first failure. -/
def State.trRun (s : State) (lane : Nat) (ag : Agent) (wins : List Win) (hwin : Nat) (acc : Acc3) (hostOk : Bool) :
    List (Nat × Nat) → State × (List (Nat × Nat × Nat × Attr) × Nat) ⊕ (State × Tr)
  | [] => .inl (s, [], 0)
  | (va, n) :: r =>
    match s.translate lane ag wins hwin va n acc hostOk with
    | (s, .ok pa a _ _ added) =>
      match s.trRun lane ag wins hwin acc hostOk r with
      | .inl (s, l, t) => .inl (s, (va, pa, n, a) :: l, added + t)
      | .inr e => .inr e
    | (s, t) => .inr (s, t)

end Sys2Proof.Machine
end

