-- ==== Sys2Proof/Machine/Access.lean ====
section
/-! DEFINITION. What an access names: the block's bindings and buffers (R22, R71), the faces R333 assigns, tangent
companions (R258), dirty maps (R23), stored formats (R303), and a suspension on a page (R157). -/

namespace Sys2Proof.Machine

/-! ## The block under way -/

def State.workRec (s : State) (lane : Nat) : Option Work := s.works.find? fun w => w.workid == s.workOf lane

def State.contOf (s : State) (lane : Nat) : Option Container := (s.workRec lane).bind fun w => s.conts[w.cont]?

/-- Block `num` of a container. -/
def Container.block (c : Container) (num : Nat) : Option Block := c.blocks.find? fun b => b.num == num

def State.blockOf (s : State) (lane : Nat) : Option Block :=
  (s.contOf lane).bind fun c => (s.lane lane).rel.bind fun r => c.block r.block

/-- A binding with its place in the block's order and its buffer. -/
structure Bnd where
  idx : Nat
  b : Bind
  f : Buf
  deriving DecidableEq, Repr, Inhabited

/-- The bindings of a block of a container, in order. -/
def bndsOf (c : Container) (b : Block) : List Bnd :=
  (List.range b.bindCount).filterMap fun k =>
    (c.binds[b.bindFirst + k]?).bind fun x => (c.bufs.find? fun f => f.id == x.buf).map fun f => ⟨k, x, f⟩

def State.bnds (s : State) (lane : Nat) : List Bnd :=
  match s.contOf lane, s.blockOf lane with
  | some c, some b => bndsOf c b
  | _, _ => []

/-- R71: the binding that index `bsel` names for the port tile in array row `row`: of the image its list came from. -/
def State.portBnd (s : State) (lane row bsel : Nat) : Option Bnd :=
  let l := s.lane lane
  let img := ((s.core (coreOf lane)).srcOf (uPort row) l.act).getD l.hdr.img
  ((s.bnds lane).filter fun x => x.b.img == img && x.b.tile + l.org.1 == row)[bsel]?

/-- R321: binding `k` of the block in binding order. -/
def State.engBnd (s : State) (lane k : Nat) : Option Bnd := (s.bnds lane)[k]?

/-! ## Faces (R332 to R334) -/

/-- FACE of a buffer of a work, as a die sees it. -/
def State.face (s : State) (die workid buf : Nat) : Nat :=
  match s.bufs.find? fun b => b.workid == workid && b.id == buf with
  | some b => tblGet 0 b.faces die
  | none => 0

/-- PSTAT of a buffer of a work, as a die sees it (R381). -/
def State.pstat (s : State) (die workid buf : Nat) : Bool :=
  match s.bufs.find? fun b => b.workid == workid && b.id == buf with
  | some b => tblGet false b.pstats die
  | none => false

/-- The shadow of a buffer now, for a lane. -/
def State.shadow (s : State) (lane : Nat) (f : Buf) : Nat :=
  if f.mode = 2 then 0 else 1 - s.face (dieOf lane) (s.workOf lane) f.id

/-- The live face a region captured at counter cycle 0 of its frame. -/
def State.captured (s : State) (lane : Nat) (f : Buf) : Nat :=
  if f.mode = 2 then 0
  else match (s.lane lane).caps.find? fun x => x.1 == f.id with
    | some x => x.2.face
    | none => s.face (dieOf lane) (s.workOf lane) f.id

/-- R258: the offset from VADDR of plane `p` of a face; plane 0 is the face itself. -/
def planeOff (f : Buf) (w face p : Nat) : Nat :=
  if p = 0 then (if f.mode = 2 then 0 else face * f.size) else (2 + face * w + p - 1) * f.size

/-- R23: the byte of the dirty map that holds a granule's bit. -/
def mapVa (f : Buf) (w off : Nat) : Nat := f.vaddr + (2 + 2 * w) * f.size + off / 64 / 8

/-- R23: bytes of a dirty map: one bit a granule, rounded up to whole lines. -/
def mapBytes (f : Buf) : Nat := (f.size + 32767) / 32768 * 64

/-- R23, R258: what a buffer occupies at a drone width, as (address, bytes): its faces with their companions, and its
dirty map. -/
def bufSpans (f : Buf) (w : Nat) : List (Nat × Nat) :=
  if f.mode = 2 then [(f.vaddr, f.size)]
  else (f.vaddr, (2 + 2 * (if f.diff then w else 0)) * f.size) :: (if f.mode = 1 then [(mapVa f w 0, mapBytes f)] else [])

/-- R381: a reading binding of a WHOLE or MERGE buffer captures PSTAT with FACE. -/
def noteFb (s : State) (lane : Nat) (x : Bnd) : State :=
  if x.f.mode = 2 || x.b.dir = 1 then s
  else s.modLane lane fun l => { l with fb := tblSet false l.fb x.idx (s.pstat (dieOf lane) (s.workOf lane) x.f.id) }

/-- The face an access uses (R333) and, for a MERGE buffer read through DIR 2, the live face besides. -/
def accessFace (s : State) (lane : Nat) (x : Bnd) (live : Nat) (write : Bool) : Nat × Option Nat :=
  if x.f.mode = 2 then (0, none)
  else if write then (s.shadow lane x.f, none)
  else if x.b.dir = 0 then (live, none)
  else if x.f.mode = 1 then (s.shadow lane x.f, some live)
  else (s.shadow lane x.f, none)

/-! ## Stored formats (R303) -/

/-- The format of a lane type, for those that have a code. -/
def ltyFmt : LTy → Option Fmt
  | .int .i8 => some .int8
  | .int .n8 => some .nat8
  | .int .i16 => some .int16
  | .int _ => none
  | .flt .f32 => some .fp32
  | .flt .f19 => some .fp19
  | .flt .bf16 => some .bf16
  | .flt .f16 => some .fp16
  | .flt .f8e4 => some .fp8e4
  | .flt .f8e5 => some .fp8e5

/-- The lane type of a stored format that a port converts. -/
def fmtLty : Fmt → Option LTy
  | .int8 => some (.int .i8)
  | .nat8 => some (.int .n8)
  | .int16 => some (.int .i16)
  | .fp32 => some (.flt .f32)
  | .fp19 => some (.flt .f19)
  | .bf16 => some (.flt .bf16)
  | .fp16 => some (.flt .f16)
  | .fp8e4 => some (.flt .f8e4)
  | .fp8e5 => some (.flt .f8e5)
  | _ => none

inductive Pair
  | raw
  | conv (t : LTy)
  | reserved
  deriving DecidableEq, Repr

/-- R303: how a port moves a lane type to or from a stored format code. -/
def pairFmt (ty : LTy) (code : Nat) : Pair :=
  match fmtOf code with
  | none => .reserved
  | some f =>
    match ltyFmt ty with
    | none => .raw
    | some t =>
      if t = f then .raw
      else match fmtLty f with
        | some x => .conv x
        | none => if ty.isInt && (fmtBits f < 8 || isTri f || isBlock f) then .raw else .reserved

/-- R147, R303: the same against the attributes of a window or page. -/
def pairOf (ty : LTy) (a : Attr) : Pair := if comboBad a then .reserved else pairFmt ty a.fmt

/-- Stored bytes of one lane. -/
def Pair.bytes (ty : LTy) : Pair → Nat
  | .conv t => lWidth t / 8
  | _ => lWidth ty / 8

/-! ## Page requests (R157) -/

/-- R157: an elastic access met V = 0: the record is posted and the block stops, suspended on the page; a stop that is
due already for another reason takes the page for its reason. -/
def suspendPage (s : State) (lane tile va : Nat) : State :=
  let note (s : State) : State := s.note 0x21 (dieOf lane) (coreOf lane % 16) tile (s.workOf lane) 0 va 0 0
  match (s.lane lane).stop with
  | .none => ((note s).modLane lane fun l => { l with suspVa := va }).soon (.elasticStop lane .page)
  | .due .page => s
  | .due _ => (note s).modLane lane fun l => { l with suspVa := va, stop := .due .page }
  | _ => s

/-! ## Attributes without an access -/

/-- The leaf of a page by the TLBs an agent searches, else in memory. -/
def State.leafAt (s : State) (lane : Nat) (ag : Agent) (va : Nat) : Option Nat :=
  match s.tlbSearch lane ag (s.workOf lane) va false with
  | .hit _ e => some e.leaf
  | .miss =>
    match s.walk (s.workOf lane) va with
    | .leaf w _ _ _ => some w
    | _ => none

/-- The attributes an address translates with, if it translates. -/
def State.attrAt (s : State) (lane : Nat) (ag : Agent) (wins : List Win) (hwin va : Nat) : Option Attr :=
  if hwin != 0xFF then (wins[hwin]?).map fun w => winAttr w.attr
  else
    match wins.find? fun w => winHit w va with
    | some w => some (winAttr w.attr)
    | none => (s.leafAt lane ag va).map leafAttr

/-! ## Checking and translating runs of a face (R302) -/

inductive Prep
  | bad (s : State) (c : Code) (info : Nat)
  | absent (s : State) (va : Nat)
  | ok (s : State) (ps : List Piece)

/-- A virtual address within 64 bits. -/
def vaOf (base : Nat) (off : Int) : Nat := (((base : Int) + off) % 2 ^ 64).toNat

/-- R302, checks 1 and 2: alignment to the stored size, and the face. -/
def faceCheck (x : Bnd) (base : Nat) (off : Int) (n sz : Nat) : Option (Code × Nat) :=
  if off % (sz : Int) ≠ 0 then some (.permission, vaOf base off)
  else if off < 0 || (x.f.size : Int) < off + n then
    some (if x.b.hwin = 0xFF then .pageAbsent else .window, vaOf base off)
  else none

/-- Host memory may answer a paged access to a LIVE buffer in DRAM only (R394). -/
def hostOk (x : Bnd) : Bool := x.f.mode == 2 && x.f.mem == 3

/-- R302, checks 3 and 4: translate one run of bytes of a face. -/
def prepPiece (s : State) (lane : Nat) (ag : Agent) (x : Bnd) (wins : List Win) (acc : Acc3) (ty : LTy) (w : Nat)
    (face : Nat × Option Nat) (j p off n : Nat) : Prep :=
  let va := x.f.vaddr + planeOff x.f w face.1 p + off
  match s.translate lane ag wins x.b.hwin va n acc (hostOk x) with
  | (s, .fault c i) => .bad s c i
  | (s, .absent v) => .absent s v
  | (s, .ok pa a _ page _) =>
    if pairOf ty a = .reserved then .bad s .reservedCombo 0
    else
      let pc : Piece := { va, pa, n, key := a.key, ful := a.ful, wblk := a.wblk && acc != .read, fmt := a.fmt, pol := a.pol,
                          page, lane := j, plane := p }
      if x.f.mode = 1 && (acc != .read || face.2.isSome) then
        match s.translate lane ag wins x.b.hwin (mapVa x.f w off) 1 acc (hostOk x) with
        | (s, .fault c i) => .bad s c i
        | (s, .absent v) => .absent s v
        | (s, .ok mpa _ _ _ _) =>
          let pc := { pc with map := some (mpa, off / 64 % 8), mapV := mapVa x.f w off }
          match face.2 with
          | none => .ok s [pc]
          | some lf =>
            match s.translate lane ag wins x.b.hwin (x.f.vaddr + planeOff x.f w lf p + off) n acc (hostOk x) with
            | (s, .fault c i) => .bad s c i
            | (s, .absent v) => .absent s v
            | (s, .ok apa _ _ _ _) => .ok s [{ pc with alt := some apa, altV := x.f.vaddr + planeOff x.f w lf p + off }]
      else .ok s [pc]

/-- The pieces of several runs: (lane, plane, offset, bytes). -/
def prepPieces (lane : Nat) (ag : Agent) (x : Bnd) (wins : List Win) (acc : Acc3) (ty : LTy) (w : Nat)
    (face : Nat × Option Nat) : List (Nat × Nat × Nat × Nat) → State → Prep
  | [], s => .ok s []
  | (j, p, off, n) :: r, s =>
    match prepPiece s lane ag x wins acc ty w face j p off n with
    | .ok s a =>
      match prepPieces lane ag x wins acc ty w face r s with
      | .ok s b => .ok s (a ++ b)
      | e => e
    | e => e

/-- A release has written a buffer (R338). -/
def noteWrote (s : State) (lane buf : Nat) : State :=
  s.modLane lane fun l =>
    { l with rel := l.rel.map fun r => { r with wrote := if r.wrote.contains buf then r.wrote else buf :: r.wrote } }

end Sys2Proof.Machine
end

