-- ==== Sys2Proof/Machine/Functions.lean ====
section
/-! DEFINITION. The frozen function tables (R240 to R244) and their derivatives (R253): exact values are enclosed
between two integers over 2^p, and p grows until both ends round alike. -/

namespace Sys2Proof.Machine

/-! ## Enclosures: lo / 2^p ≤ x ≤ hi / 2^p -/

structure FI where
  lo : Int
  hi : Int
  deriving DecidableEq, Repr, Inhabited

namespace FI

def one (p : Nat) : Int := (2 ^ p : Nat)
def exact (v : Int) : FI := ⟨v, v⟩
/-- A fraction at precision p. -/
def ofQ (p : Nat) (q : Q) : FI := let x := q.mul ⟨one p, 1⟩; ⟨x.floor, x.ceil⟩
def ofInt (p : Nat) (n : Int) : FI := exact (n * one p)
def add (a b : FI) : FI := ⟨a.lo + b.lo, a.hi + b.hi⟩
def neg (a : FI) : FI := ⟨-a.hi, -a.lo⟩
def sub (a b : FI) : FI := a.add b.neg
def cdiv (a b : Int) : Int := -((-a) / b)
def min4 (a b c d : Int) : Int := min (min a b) (min c d)
def max4 (a b c d : Int) : Int := max (max a b) (max c d)
def mul (p : Nat) (a b : FI) : FI :=
  let x := a.lo * b.lo
  let y := a.lo * b.hi
  let z := a.hi * b.lo
  let w := a.hi * b.hi
  ⟨min4 x y z w / one p, cdiv (max4 x y z w) (one p)⟩
/-- Divided by a positive integer. -/
def divN (a : FI) (n : Nat) : FI := ⟨a.lo / (n : Int), cdiv a.hi n⟩
/-- A quotient by an enclosure of positive numbers. -/
def div (p : Nat) (a b : FI) : FI :=
  let f (x y : Int) : Int := x * one p / y
  let g (x y : Int) : Int := cdiv (x * one p) y
  ⟨min4 (f a.lo b.lo) (f a.lo b.hi) (f a.hi b.lo) (f a.hi b.hi),
   max4 (g a.lo b.lo) (g a.lo b.hi) (g a.hi b.lo) (g a.hi b.hi)⟩
/-- Scaled by 2^k. -/
def shift (a : FI) (k : Int) : FI :=
  if 0 ≤ k then ⟨a.lo * one k.toNat, a.hi * one k.toNat⟩ else ⟨a.lo / one (-k).toNat, cdiv a.hi (one (-k).toNat)⟩
def widen (a : FI) (n : Int) : FI := ⟨a.lo - n, a.hi + n⟩
/-- An enclosure that decides nothing. -/
def wide (p : Nat) : FI := ⟨-4 * one p, 4 * one p⟩

end FI

/-- Terms that the series below use at precision p. -/
def terms (p : Nat) : Nat := p / 3 + 24

/-- Σ x^(2n+1) / (2n+1) up to `n` terms, with x² given and sign alternating where `alt`. -/
def oddSeries (p : Nat) (alt : Bool) (x2 : FI) : Nat → Nat → FI → FI → FI
  | 0, _, _, acc => acc.widen 2
  | n + 1, k, t, acc =>
    let u := t.divN (2 * k + 1)
    oddSeries p alt x2 n (k + 1) (FI.mul p t x2) (if alt && k % 2 == 1 then acc.sub u else acc.add u)

/-- ln t for t in [1, 2]: 2 atanh((t - 1) / (t + 1)). -/
def fiLn (p : Nat) (t : FI) : FI :=
  let z := FI.div p (t.sub (FI.ofInt p 1)) (t.add (FI.ofInt p 1))
  (oddSeries p false (FI.mul p z z) (terms p) 0 z (FI.exact 0)).shift 1

def fiLn2 (p : Nat) : FI := fiLn p (FI.ofInt p 2)

def fiAtanInv (p n : Nat) : FI :=
  let z := (FI.ofInt p 1).divN n
  oddSeries p true ((FI.ofInt p 1).divN (n * n)) (terms p) 0 z (FI.exact 0)

/-- π = 16 atan(1/5) - 4 atan(1/239). -/
def fiPi (p : Nat) : FI := ((fiAtanInv p 5).shift 4).sub ((fiAtanInv p 239).shift 2)

/-- Σ x^n / n! for 0 ≤ x < 2. -/
def expSeries (p : Nat) (x : FI) : Nat → Nat → FI → FI → FI
  | 0, _, _, acc => acc.widen 2
  | n + 1, k, t, acc =>
    let u := (FI.mul p t x).divN (k + 1)
    expSeries p x n (k + 1) u (acc.add u)

/-- e^y. -/
def fiExp (p : Nat) (y : FI) : FI :=
  let l := fiLn2 p
  let k := y.lo / l.lo - 1
  let r := y.sub ⟨min (k * l.lo) (k * l.hi), max (k * l.lo) (k * l.hi)⟩
  (expSeries p r (terms p) 0 (FI.ofInt p 1) (FI.ofInt p 1)).shift k

/-- The alternating series of sine (from x) or cosine (from 1); `k` is the last factor used. -/
def sinSeries (p : Nat) (x2 : FI) : Nat → Nat → FI → FI → FI
  | 0, _, _, acc => acc.widen 2
  | n + 1, k, t, acc =>
    let u := ((FI.mul p t x2).divN ((k + 1) * (k + 2))).neg
    sinSeries p x2 n (k + 2) u (acc.add u)

def fiSin0 (p : Nat) (x : FI) : FI := sinSeries p (FI.mul p x x) (terms p) 1 x x
def fiCos0 (p : Nat) (x : FI) : FI := sinSeries p (FI.mul p x x) (terms p) 0 (FI.ofInt p 1) (FI.ofInt p 1)

/-- sin of quadrant `q` plus a small angle. -/
def fiSinQuad (p : Nat) (q : Int) (r : FI) : FI :=
  let m := q % 4
  if m = 0 then fiSin0 p r
  else if m = 1 then fiCos0 p r
  else if m = 2 then (fiSin0 p r).neg
  else (fiCos0 p r).neg

/-- The quadrant of x and x less that many right angles; 140 more bits cover |x| below 2^128. -/
def fiReduce (p : Nat) (x : Q) : Int × FI :=
  let pp := p + 140
  let h := (fiPi pp).divN 2
  let y := FI.ofQ pp x
  let q := (2 * y.lo + h.lo) / (2 * h.lo)
  (q, (y.sub ⟨min (q * h.lo) (q * h.hi), max (q * h.lo) (q * h.hi)⟩).shift (-140))

def fiSin (p : Nat) (x : Q) : FI := let r := fiReduce p x; fiSinQuad p r.1 r.2
def fiCos (p : Nat) (x : Q) : FI := let r := fiReduce p x; fiSinQuad p (r.1 + 1) r.2

/-- floor of the square root, by bits from the top. -/
def isqrtFrom (n : Nat) : Nat → Nat → Nat
  | 0, r => r
  | b + 1, r => let c := r + 2 ^ b; isqrtFrom n b (if c * c ≤ n then c else r)

def isqrt (n : Nat) : Nat := isqrtFrom n (n.log2 / 2 + 1) 0

/-- The square root of a fraction ≥ 0; exact when it is. -/
def fiSqrt (p : Nat) (x : Q) : FI :=
  let v := x.num.natAbs * 4 ^ p
  let n := v / x.den
  let r := isqrt n
  if r * r * x.den = v then FI.exact r else ⟨r, r + 1⟩

/-- Φ(x) for |x| ≤ 20 and φ(x): Φ(x) = 1/2 + φ(x) Σ x^(2n+1) / (1·3···(2n+1)). -/
def phiSeries (p : Nat) (x2 : FI) : Nat → Nat → FI → FI → FI
  | 0, _, _, acc => acc.widen 2
  | n + 1, k, t, acc =>
    let u := (FI.mul p t x2).divN (2 * k + 3)
    phiSeries p x2 n (k + 1) u (acc.add u)

def fiPdf (p : Nat) (x : Q) : FI :=
  let e := fiExp p (FI.ofQ p ((x.mul x).shift (-1)).neg)
  let r := (fiPi p).shift 1
  let c : FI := ⟨isqrt (r.lo.natAbs * 2 ^ p), isqrt (r.hi.natAbs * 2 ^ p) + 1⟩
  FI.div p e c

def fiCdf (p : Nat) (x : Q) : FI :=
  let y := FI.ofQ p x
  let s := phiSeries p (FI.ofQ p (x.mul x)) (2 * terms p + 1600) 0 y y
  (FI.ofInt p 1).divN 2 |>.add (FI.mul p (fiPdf p x) s)

/-! ## The functions -/

inductive Fn | exp2 | log2 | rcp | rsq | sin | tanh | sig | gelu
  deriving DecidableEq, Repr

/-- A value that rounds as every one just below 1 does, in every format and mode. -/
def nearOne (p : Nat) : FI := FI.ofQ p ((Q.ofInt 1).sub (Q.pow2 (-180)))
/-- A value that rounds as every one just above 0 does. -/
def nearZero (p : Nat) : FI := FI.ofQ p (Q.pow2 (-400))

def qAbsGt (x : Q) (n : Int) : Bool := (Q.ofInt n).lt x.abs

/-- 2^x: far outside every format's range the exponent is cut, where every cut value rounds alike. -/
def fiExp2 (p : Nat) (x : Q) : FI :=
  let i := x.floor
  let t := x.sub (Q.ofInt i)
  let m := if t.isZero then FI.ofInt p 1 else fiExp p (FI.mul p (FI.ofQ p t) (fiLn2 p))
  m.shift (if i < -400 then -400 else if 400 < i then 400 else i)

/-- σ(x). -/
def fiSig (p : Nat) (x : Q) : FI :=
  if qAbsGt x 300 then (if x.num < 0 then nearZero p else nearOne p)
  else FI.div p (FI.ofInt p 1) ((FI.ofInt p 1).add (fiExp p (FI.ofQ p x.neg)))

/-- tanh x. -/
def fiTanh (p : Nat) (x : Q) : FI :=
  let m :=
    if qAbsGt x 128 then nearOne p
    else
      let e := fiExp p (FI.ofQ p (x.abs.shift 1).neg)
      FI.div p ((FI.ofInt p 1).sub e) ((FI.ofInt p 1).add e)
  if x.num < 0 then m.neg else m

def fiGelu (p : Nat) (x : Q) : FI :=
  if qAbsGt x 20 then
    (if x.num < 0 then (nearZero p).neg else FI.ofQ p (x.mul ((Q.ofInt 1).sub (Q.pow2 (-180)))))
  else FI.mul p (FI.ofQ p x) (fiCdf p x)

/-- The exact function (R240), enclosed at precision p. -/
def fnFI (f : Fn) (p : Nat) (x : Q) : FI :=
  match f with
  | .exp2 => fiExp2 p x
  | .log2 =>
    let e := x.log2
    (FI.ofInt p e).add
      (let t := x.shift (-e)
       if t.eq (Q.ofInt 1) then FI.exact 0 else FI.div p (fiLn p (FI.ofQ p t)) (fiLn2 p))
  | .rcp => FI.ofQ p ((Q.ofInt 1).div x)
  | .rsq => fiSqrt p ((Q.ofInt 1).div x)
  | .sin => fiSin p x
  | .tanh => fiTanh p x
  | .sig => fiSig p x
  | .gelu => fiGelu p x

/-- The precisions tried. -/
def precs : List Nat := [224, 448, 896, 1792, 3584, 7168, 14336]

/-- Round an enclosed value: at the first precision whose two ends agree. -/
def refine {α : Type} [DecidableEq α] (g : Q → α) (f : Nat → FI) : List Nat → α
  | [] => g ⟨0, 1⟩
  | [p] => g ⟨(f p).lo, 2 ^ p⟩
  | p :: ps =>
    let i := f p
    if i.lo = i.hi then g ⟨i.lo, 2 ^ p⟩
    else
      let a := g ⟨i.lo, 2 ^ p⟩
      if a = g ⟨i.hi, 2 ^ p⟩ then a else refine g f ps

/-- R241: a knot value: f rounded to nearest even in FP32. -/
def knotQ (f : Nat → FI) : Q :=
  (ffDecode ffFP32 (refine (fun q => (fRound ffFP32 .rne 0 (XR.ofQ q)).1) f precs)).val

/-- sin(2πk/65536). -/
def sinKnot (k : Nat) : Q :=
  let q := k / 16384
  let m := k % 16384
  if m = 0 then Q.ofInt (match q % 4 with | 0 => 0 | 1 => 1 | 2 => 0 | _ => -1)
  else knotQ fun p => fiSinQuad p q (((fiPi p).divN 32768).mul p (FI.ofInt p m))

/-- A segment: its knots' values, and where the argument stands in it. -/
structure Seg where
  y0 : Q
  y1 : Q
  pos : Q
  width : Q
  deriving Repr

/-- L(t) (R241). -/
def Seg.at_ (g : Seg) : Q := g.y0.add ((g.y1.sub g.y0).mul g.pos)
/-- L'(t). -/
def Seg.slope (g : Seg) : Q := (g.y1.sub g.y0).div g.width

/-- A segment of a grid from `t0` with knots `w` apart. -/
def segOf (f : Fn) (t0 w t : Q) : Seg :=
  let pos := (t.sub t0).div w
  let k := pos.floor
  let kn (i : Int) : Q :=
    let x := t0.add (w.mul (Q.ofInt i))
    if f == .rcp then (ffDecode ffFP32 (fRound ffFP32 .rne 0 (XR.ofQ ((Q.ofInt 1).div x))).1).val
    else knotQ fun p => fnFI f p x
  { y0 := kn k, y1 := kn (k + 1), pos := pos.sub (Q.ofInt k), width := w }

def q4096 : Q := Q.pow2 (-12)

/-- R241: the segment of x and the factors of its value and its derivative, for all but the sine:
V = a + b L and F' = c L'. -/
def segment (f : Fn) (x : Q) : Seg × Q × Q × Q :=
  let e := x.abs.log2
  match f with
  | .exp2 =>
    let i := x.floor
    let b := Q.pow2 (if i < -1000 then -1000 else if 1000 < i then 1000 else i)
    (segOf .exp2 (Q.ofInt 0) q4096 (x.sub (Q.ofInt i)), Q.ofInt 0, b, b)
  | .log2 => (segOf .log2 (Q.ofInt 1) q4096 (x.shift (-e)), Q.ofInt e, Q.ofInt 1, Q.pow2 (-e))
  | .rcp =>
    let s : Q := Q.ofInt (if x.num < 0 then -1 else 1)
    (segOf .rcp (Q.ofInt 1) q4096 (x.abs.shift (-e)), Q.ofInt 0, s.shift (-e), Q.pow2 (-2 * e))
  | .rsq =>
    let h := e / 2
    let t := x.shift (-2 * h)
    let g := if t.lt (Q.ofInt 2) then segOf .rsq (Q.ofInt 1) q4096 t else segOf .rsq (Q.ofInt 2) (q4096.shift 1) t
    (g, Q.ofInt 0, Q.pow2 (-h), Q.pow2 (-3 * h))
  | f =>
    let u := (Q.pow2 e).mul (Q.ofInt (if x.num < 0 then -1 else 1))
    (segOf f u (u.mul q4096) x, Q.ofInt 0, Q.ofInt 1, Q.ofInt 1)

/-- x/(2π) less its floor, as an enclosure; none when the precision does not decide the floor. -/
def sinArg (p : Nat) (x : Q) : Option FI :=
  let pp := p + 140
  let y := FI.div pp (FI.ofQ pp x) ((fiPi pp).shift 1)
  let k := y.lo / FI.one pp
  if k = y.hi / FI.one pp then some ((y.sub (FI.ofInt pp k)).shift (-140)) else none

/-- The segment of the sine's argument, and the argument. -/
def sinSeg (p : Nat) (x : Q) : Option (Nat × FI) :=
  (sinArg p x).bind fun t =>
    let k := t.lo * 65536 / FI.one p
    if k = t.hi * 65536 / FI.one p then some (k.toNat, t) else none

/-- V(x) for FP32 and FP19 (R241), enclosed. -/
def vFI (f : Fn) (x : Q) : Nat → FI :=
  match f with
  | .sin => fun p =>
    match sinSeg p x with
    | none => FI.wide p
    | some (k, t) =>
      let y0 := sinKnot k
      let y1 := sinKnot (k + 1)
      if y0.eq y1 then FI.ofQ p y0
      else (FI.ofQ p y0).add (FI.mul p (FI.ofQ p (y1.sub y0)) ((t.shift 16).sub (FI.ofInt p k)))
  | f =>
    let (g, a, b, _) := segment f x
    let v := a.add (b.mul g.at_)
    fun p => FI.ofQ p v

/-- A type computed by interpolation. -/
def interpolated : FTy → Bool
  | .f32 | .f19 => true
  | _ => false

/-- R243: the special inputs: the result and its flags. `none` follows R240. -/
def fnSpecial (f : Fn) (x : XR) : Option (XR × Nat) :=
  let z (n : Bool) : XR := .fin n (Q.ofInt 0)
  match x with
  | .nan => some (.nan, 0)
  | .inf false =>
    match f with
    | .exp2 | .log2 | .gelu => some (.inf false, 0)
    | .rcp | .rsq => some (z false, 0)
    | .sin => some (.nan, fNV)
    | .tanh | .sig => some (XR.ofInt 1, 0)
  | .inf true =>
    match f with
    | .exp2 | .sig => some (z false, 0)
    | .rcp | .gelu => some (z true, 0)
    | .log2 | .rsq | .sin => some (.nan, fNV)
    | .tanh => some (XR.ofInt (-1), 0)
  | .fin n m =>
    if m.isZero then
      match f with
      | .exp2 => some (XR.ofInt 1, 0)
      | .log2 => some (.inf true, fDZ)
      | .rcp => some (.inf n, fDZ)
      | .rsq => some (.inf n, fDZ)
      | .sin | .tanh | .gelu => some (z n, 0)
      | .sig => some (XR.ofQ (Q.pow2 (-1)), 0)
    else
      match f with
      | .log2 => if n then some (.nan, fNV) else if m.eq (Q.ofInt 1) then some (z false, 0) else none
      | .rsq => if n then some (.nan, fNV) else none
      | _ => none

/-- The sign of a function value that is exactly zero: that of its knots. -/
def fnZeroNeg (f : Fn) (x : Q) : Bool := f == .gelu && decide (x.num < 0)

/-- R240 to R244: a function of one lane: bits and flags. -/
def fnLane (f : Fn) (ty : FTy) (rm : RMode) (u : Nat) (x : XR) : Nat × Nat :=
  let ff := ffOf ty
  match fnSpecial f x with
  | some (r, fl) => let v := fRound ff .rne 0 r; (v.1, v.2 ||| fl)
  | none =>
    let q := x.val
    let g (v : Q) : Nat × Nat := fRound ff rm u (if v.isZero then .fin (fnZeroNeg f q) v else XR.ofQ v)
    if interpolated ty then refine g (vFI f q) precs
    else if f == .rcp then g ((Q.ofInt 1).div q)
    else refine g (fun p => fnFI f p q) precs

/-! ## Derivatives (R253) -/

/-- The exact derivative of the function at a finite input of its domain. -/
def dfFI (f : Fn) (p : Nat) (x : Q) : FI :=
  let one := FI.ofInt p 1
  match f with
  | .exp2 => FI.mul p (fiLn2 p) (fiExp2 p x)
  | .log2 => FI.div p (FI.ofQ p ((Q.ofInt 1).div x)) (fiLn2 p)
  | .rcp => FI.ofQ p ((Q.ofInt 1).div (x.mul x)).neg
  | .rsq => ((fiSqrt p ((Q.ofInt 1).div (x.mul (x.mul x)))).shift (-1)).neg
  | .sin => fiCos p x
  | .tanh =>
    if qAbsGt x 128 then nearZero p
    else
      let e := fiExp p (FI.ofQ p (x.abs.shift 1).neg)
      let d := one.add e
      (FI.div p e (FI.mul p d d)).shift 2
  | .sig =>
    if qAbsGt x 300 then nearZero p
    else
      let e := fiExp p (FI.ofQ p x.abs.neg)
      let d := one.add e
      FI.div p e (FI.mul p d d)
  | .gelu =>
    if qAbsGt x 20 then (if x.num < 0 then (nearZero p).neg else (FI.ofInt p 1).add (nearZero p))
    else (fiCdf p x).add (FI.mul p (FI.ofQ p x) (fiPdf p x))

/-- The exact derivative of V (R253); at ±0 of `tanh`, `sig` and `gelu`, which lies in no binade, that of f. -/
def dvFI (f : Fn) (x : Q) : Nat → FI :=
  match f with
  | .sin => fun p =>
    match sinSeg p x with
    | none => FI.wide p
    | some (k, _) =>
      let d := (sinKnot (k + 1)).sub (sinKnot k)
      FI.div p (FI.ofQ p (d.shift 16)) ((fiPi p).shift 1)
  | f =>
    if x.isZero && f != .exp2 then fun p => dfFI f p x
    else
      let (g, _, _, c) := segment f x
      let v := c.mul g.slope
      fun p => FI.ofQ p v

end Sys2Proof.Machine
end

