-- ==== Sys2Proof/Machine/Operands.lean ====
section
/-! DEFINITION. Operands of element entries: lanes, guards, the rotating file, every source selector of R60, tag
checks, and the one way an element's result is sent to its destination (R59 to R66, R185 to R189). -/

namespace Sys2Proof.Machine

/-! ## Lanes of a 128-bit value (R32) -/

/-- Lane `j` of width `w`. -/
def laneOfV (w : Nat) (v : V128) (j : Nat) : Nat := v.toNat / 2 ^ (w * j) % 2 ^ w

/-- The value whose lane `j` of width `w` is `f j`, for `j` below `n`. -/
def ofLanes (w n : Nat) (f : Nat → Nat) : V128 :=
  BitVec.ofNat 128 ((List.range n).foldr (fun j acc => acc + (f j % 2 ^ w) * 2 ^ (w * j)) 0)

/-- Lanes of a width in 128 bits. -/
def laneCount (w : Nat) : Nat := 128 / w

/-- A lane read in two's complement. -/
def sgn (w x : Nat) : Int := toSigned w x

/-- val(x): a lane under the signedness of an integer type (R191). -/
def ival (t : ITy) (x : Nat) : Int := if t.signed then sgn t.width x else x

/-- wrap(v, w). -/
def wrapI (w : Nat) (v : Int) : Nat := ofSigned w v

/-- The bits of the lanes whose guard is true. -/
def maskOf (w : Nat) (g : Nat → Bool) : V128 := ofLanes w (laneCount w) fun j => if g j then 2 ^ w - 1 else 0

/-! ## Predicates and guards (R59, R188) -/

/-- A predicate register; p7 reads as all ones. -/
def Elem.pred (e : Elem) (p : Nat) : BitVec 16 := if p = 7 then 0xFFFF else tblGet 0 e.preds p

/-- The guard's sixteen bits in an element. -/
def guardOf (h : Hdr) (e : Elem) : BitVec 16 := if h.pneg then ~~~(e.pred h.pred) else e.pred h.pred

def guardBit (g : BitVec 16) (j : Nat) : Bool := g.getLsbD j

/-- Every one of the `n` lanes is nullified. -/
def nullified (g : BitVec 16) (n : Nat) : Bool := !(List.range n).any (guardBit g)

/-! ## The element under way -/

def State.myCore (s : State) : Core := s.core (coreOf s.cur.lane)
def State.myLane (s : State) : Lane := s.lane s.cur.lane
def State.myElem (s : State) : Elem := s.myCore.elem s.cur.unit
def State.myGuard (s : State) (h : Hdr) : BitVec 16 := guardOf h s.myElem

/-- R185: the physical slot of file name v`n` under a rotating base. -/
def physSlot (base n : Nat) : Nat := if n < 8 then n else 8 + (n - 8 + base) % 24

/-- Whether an absolute array position lies in the region's rectangle (R169). -/
def inRegion (l : Lane) (r c : Nat) : Bool :=
  l.org.1 ≤ r && r < l.org.1 + l.hdr.rows && l.org.2 ≤ c && c < l.org.2 + l.hdr.cols

/-- The edge latch a direction names from unit `u`, when that position is an edge unit owned by the slot (R60, R183):
0 north, 1 east, 2 south, 3 west. -/
def edgeUnit (c : Core) (slot u dir : Nat) : Bool :=
  match dir with
  | 0 => u / 8 == 0 && c.ownedBy (uEng 1) slot
  | 1 => u % 8 == 7 && c.ownedBy (uGen (u / 8)) slot
  | 2 => u / 8 == 7 && c.ownedBy (uEng 3) slot
  | _ => u % 8 == 0 && c.ownedBy (uPort (u / 8)) slot

/-- The latch an edge unit presents to unit `u`. -/
def edgeLatch (c : Core) (u dir : Nat) : EdgeLatch :=
  match dir with
  | 0 => tblGet {} c.north (u % 8)
  | 1 => (c.gen (u / 8)).latch
  | 2 => tblGet {} c.south (u % 8)
  | _ => (c.port (u / 8)).latch

def setEdge (c : Core) (u dir : Nat) (e : EdgeLatch) : Core :=
  match dir with
  | 0 => { c with north := tblPut c.north (u % 8) e }
  | 1 => c.setGen (u / 8) { c.gen (u / 8) with latch := e }
  | 2 => { c with south := tblPut c.south (u % 8) e }
  | _ => c.setPort (u / 8) { c.port (u / 8) with latch := e }

/-- R186: a neighbour's latch: an element of the region, an owned edge unit, or zero. -/
def neighbour (c : Core) (l : Lane) (slot u dir : Nat) : Val :=
  let r := u / 8
  let k := u % 8
  let near : Option Nat :=
    match dir with
    | 0 => if r = 0 then none else some (u - 8)
    | 1 => if k = 7 then none else some (u + 1)
    | 2 => if r = 7 then none else some (u + 8)
    | _ => if k = 0 then none else some (u - 1)
  match near with
  | some v => if inRegion l (v / 8) (v % 8) && c.ownedBy v slot then (c.elem v).latch else {}
  | none => if edgeUnit c slot u dir then (edgeLatch c u dir).val else {}

/-- The direction a selector names, if it names a neighbour. -/
def Src.dir : Src → Option Nat
  | .N => some 0
  | .E => some 1
  | .S => some 2
  | .W => some 3
  | _ => none

/-- R60, R61, R186: what a source selector delivers; `imm` gives an immediate's lane of width `w`. -/
def readSrc (s : State) (w : Nat) (imm : Int → Nat) : Src → Val
  | .file n => tblGet {} s.myElem.file (physSlot s.myLane.base n)
  | .L => s.myElem.latch
  | .N => neighbour s.myCore s.myLane (slotOf s.cur.lane) s.cur.unit 0
  | .E => neighbour s.myCore s.myLane (slotOf s.cur.lane) s.cur.unit 1
  | .S => neighbour s.myCore s.myLane (slotOf s.cur.lane) s.cur.unit 2
  | .W => neighbour s.myCore s.myLane (slotOf s.cur.lane) s.cur.unit 3
  | .k n => { (tblGet {} s.myElem.consts (s.myLane.act * 16 + n) : Val) with planes := [] }
  | .imm v => { bits := ofLanes w (laneCount w) fun _ => imm v }

/-- A source under an integer type: an immediate is sign-extended to the lane (R61). -/
def readI (s : State) (t : ITy) (a : Src) : Val := readSrc s t.width (ofSigned t.width) a

/-- R183: a firing entry with HOLD = 1 clears the FRESH bit of each edge latch it names. -/
def clearFresh (s : State) (h : Hdr) (srcs : List Src) : State :=
  if h.hold then
    s.modCore (coreOf s.cur.lane) fun c =>
      srcs.foldl (init := c) fun c a =>
        match Src.dir a with
        | some d =>
          if edgeUnit c (slotOf s.cur.lane) s.cur.unit d then
            setEdge c s.cur.unit d { edgeLatch c s.cur.unit d with fresh := false }
          else c
        | none => c
  else s

/-- R182, R183: an edge source that an entry with HOLD = 1 waits for. -/
def awaitsEdge (c : Core) (slot u : Nat) (srcs : List Src) : Bool :=
  srcs.any fun a =>
    match Src.dir a with
    | some d => edgeUnit c slot u d && !(edgeLatch c u d).fresh
    | none => false

/-- R65: the tags of the values read agree with the entry's expectation. -/
def tagOk (t : TagExp) (vs : List Val) : Bool :=
  match t with
  | .any => true
  | .unscaled => vs.all fun v => !v.scaled
  | .scaled => vs.all fun v => v.scaled

/-- R189: a result is scaled if any source it read was. -/
def anyScaled (vs : List Val) : Bool := vs.any (·.scaled)

/-! ## Tangent planes -/

/-- Plane `p` of a value. -/
def Val.plane (v : Val) (p : Nat) : V128 := tblGet 0 v.planes p

/-- The planes of a drone width: 1 to w. -/
def planeNums (w : Nat) : List Nat := (List.range w).map (· + 1)

/-- A lane of a value carries a nonzero tangent in some plane of the width. -/
def tanNonzero (width w : Nat) (v : Val) (i : Nat) : Bool :=
  (planeNums width).any fun p => laneOfV w (v.plane p) i != 0

/-- Zero in every plane of the width (R194). -/
def zeroPlanes (width : Nat) : List (Nat × V128) := (planeNums width).map fun p => (p, 0)

/-! ## Destinations -/

/-- The physical slot and the latch a destination names at the firing cycle's base (R62, R185). -/
def dstOf (base : Nat) : Dst → Option Nat × Bool
  | .file n => (some (physSlot base n), false)
  | .latch => (none, true)
  | .both n => (some (physSlot base n), true)

/-- Send an element's result: the lanes of width `w` whose guard is true, with its tag and planes. -/
def sendElem (s : State) (lat w : Nat) (g : Nat → Bool) (d : Dst) (bits : V128) (tag : Bool)
    (planes : List (Nat × V128)) (nf tf : Nat) : State :=
  let (slot, latch) := dstOf s.myLane.base d
  send s lat nf tf (.elem s.cur.unit slot latch (maskOf w g) (some bits) (some tag) planes)

end Sys2Proof.Machine
end

