-- ==== Sys2Proof/Machine/Integer.lean ====
section
/-! DEFINITION. Element instructions of class 00 and the lane and predicate instructions of class 10 (11_integer.md). -/

namespace Sys2Proof.Machine

/-! ## The common rules (R191 to R196) -/

/-- What one lane function gives: the lane's bits, and whether it saturated or met an illegal code. -/
abbrev LaneFn := List Val → Nat → Nat × Nat

/-- A lane of a source in a list of sources. -/
def lv (w : Nat) (vs : List Val) (k j : Nat) : Nat := laneOfV w ((vs[k]?).getD ({} : Val)).bits j

/-- The lanes a plain lane function reads: its own. -/
def ownLane (j _k i : Nat) : Bool := i == j

/-- R191 to R196: an arithmetic or bit-level entry of this chapter. `f` gives each lane and the flags it raises,
`reads` says which source lanes destination lane j reads, for TCUT (R250). -/
def laneOp (s : State) (h : Hdr) (w lat : Nat) (d : Dst) (srcs : List Src) (vs : List Val) (tag : TagExp) (rtag : Bool)
    (f : LaneFn) (reads : Nat → Nat → Nat → Bool := ownLane) : Res :=
  let g := s.myGuard h
  let n := laneCount w
  if nullified g n then .next (clearFresh s h srcs)
  else if !tagOk tag vs then .next (raise s .domainTag)
  else
    let on := (List.range n).filter (guardBit g)
    let nf := fAll (on.map fun j => (f vs j).2)
    let wd := s.myLane.width
    let cut := on.any fun j => (List.range vs.length).any fun k =>
      (List.range n).any fun i => reads j k i && tanNonzero wd w ((vs[k]?).getD ({} : Val)) i
    .next (sendElem (clearFresh s h srcs) lat w (guardBit g) d (ofLanes w n fun j => (f vs j).1) rtag (zeroPlanes wd) nf
      (fIf cut tCUT))

def op1 (s : State) (o : OpI1) (lat : Nat) (f : LaneFn) (reads : Nat → Nat → Nat → Bool := ownLane) : Res :=
  let vs := [readI s o.ty o.a]
  laneOp s o.h o.ty.width lat o.d [o.a] vs o.tag (anyScaled vs) f reads

def op2 (s : State) (o : OpI2) (lat : Nat) (f : LaneFn) : Res :=
  let vs := [readI s o.ty o.a, readI s o.ty o.b]
  laneOp s o.h o.ty.width lat o.d [o.a, o.b] vs o.tag (anyScaled vs) f

def op3 (s : State) (o : OpI3) (lat : Nat) (f : LaneFn) : Res :=
  let vs := [readI s o.ty o.a, readI s o.ty o.b, readI s o.ty o.c]
  laneOp s o.h o.ty.width lat o.d [o.a, o.b, o.c] vs o.tag (anyScaled vs) f

/-- A lane function of integers, wrapped to the lane. -/
def fn1 (t : ITy) (f : Int → Int) : LaneFn := fun vs j => (wrapI t.width (f (ival t (lv t.width vs 0 j))), 0)
def fn2 (t : ITy) (f : Int → Int → Int) : LaneFn := fun vs j =>
  (wrapI t.width (f (ival t (lv t.width vs 0 j)) (ival t (lv t.width vs 1 j))), 0)
def fn3 (t : ITy) (f : Int → Int → Int → Int) : LaneFn := fun vs j =>
  (wrapI t.width (f (ival t (lv t.width vs 0 j)) (ival t (lv t.width vs 1 j)) (ival t (lv t.width vs 2 j))), 0)

/-- A lane function of the lanes' bits. -/
def bits1 (t : ITy) (f : Nat → Nat) : LaneFn := fun vs j => (f (lv t.width vs 0 j), 0)
def bits2 (t : ITy) (f : Nat → Nat → Nat) : LaneFn := fun vs j => (f (lv t.width vs 0 j) (lv t.width vs 1 j), 0)
def bits3 (t : ITy) (f : Nat → Nat → Nat → Nat) : LaneFn := fun vs j =>
  (f (lv t.width vs 0 j) (lv t.width vs 1 j) (lv t.width vs 2 j), 0)

/-- sat(v, lo, hi) and whether it clipped. -/
def clip (lo hi v : Int) : Int × Bool := if v < lo then (lo, true) else if hi < v then (hi, true) else (v, false)

/-- R198: a saturating lane function, which sets SAT when it clips. -/
def satFn (t : ITy) (f : Int → Int → Int) : LaneFn := fun vs j =>
  let r := clip (iMin t) (iMax t) (f (ival t (lv t.width vs 0 j)) (ival t (lv t.width vs 1 j)))
  (wrapI t.width r.1, fIf r.2 fSAT)

/-! ## Additive instructions (R198) -/

def execAdd (o : OpI2) (s : State) : Res := op2 s o 1 (fn2 o.ty fun a b => a + b)
def execSub (o : OpI2) (s : State) : Res := op2 s o 1 (fn2 o.ty fun a b => a - b)
def execAdds (o : OpI2) (s : State) : Res := op2 s o 1 (satFn o.ty fun a b => a + b)
def execSubs (o : OpI2) (s : State) : Res := op2 s o 1 (satFn o.ty fun a b => a - b)
def execNeg (o : OpI1) (s : State) : Res := op1 s o 1 (fn1 o.ty fun a => 0 - a)
def execAbs (o : OpI1) (s : State) : Res := op1 s o 1 (fn1 o.ty fun a => a.natAbs)
def execMin (o : OpI2) (s : State) : Res := op2 s o 1 (fn2 o.ty fun a b => if a ≤ b then a else b)
def execMax (o : OpI2) (s : State) : Res := op2 s o 1 (fn2 o.ty fun a b => if b ≤ a then a else b)
def execAvg (o : OpI2) (s : State) : Res := op2 s o 1 (fn2 o.ty fun a b => (a + b + 1) / 2)
def execClamp (o : OpI3) (s : State) : Res :=
  op3 s o 1 (fn3 o.ty fun a b c => let m := if b ≤ a then a else b; if m ≤ c then m else c)

/-! ## Multiplication (R199, R200) -/

def execMul (o : OpI2) (s : State) : Res := op2 s o 2 (fn2 o.ty fun a b => a * b)
def execMulh (o : OpI2) (s : State) : Res := op2 s o 2 (fn2 o.ty fun a b => a * b / 2 ^ o.ty.width)
def execMad (o : OpI3) (s : State) : Res := op3 s o 2 (fn3 o.ty fun a b c => a * b + c)
def execSad (o : OpI3) (s : State) : Res := op3 s o 2 (fn3 o.ty fun a b c => (a - b).natAbs + c)

/-- Byte `k` of a 32-bit lane under the lane type's signedness. -/
def dotByte (t : ITy) (x k : Nat) : Int := if t.signed then sgn 8 (fld x (8 * k) 8) else fld x (8 * k) 8

def execDot4 (o : OpI3) (s : State) : Res :=
  op3 s o 2 fun vs j =>
    let a := lv 32 vs 0 j
    let b := lv 32 vs 1 j
    (wrapI 32 ((List.range 4).foldl (fun acc k => acc + dotByte o.ty a k * dotByte o.ty b k) (ival o.ty (lv 32 vs 2 j))), 0)

/-! ## Logic, shifts and counts (R201 to R204) -/

def execAnd (o : OpI2) (s : State) : Res := op2 s o 1 (bits2 o.ty fun a b => a &&& b)
def execOr (o : OpI2) (s : State) : Res := op2 s o 1 (bits2 o.ty fun a b => a ||| b)
def execXor (o : OpI2) (s : State) : Res := op2 s o 1 (bits2 o.ty fun a b => a ^^^ b)
def execAndn (o : OpI2) (s : State) : Res := op2 s o 1 (bits2 o.ty fun a b => a &&& (2 ^ o.ty.width - 1 - b))
def execNot (o : OpI1) (s : State) : Res := op1 s o 1 (bits1 o.ty fun a => 2 ^ o.ty.width - 1 - a)

def shlBits (w a k : Nat) : Nat := if w ≤ k then 0 else a * 2 ^ k % 2 ^ w
def shrBits (w a k : Nat) : Nat := if w ≤ k then 0 else a / 2 ^ k
def shaBits (w a k : Nat) : Nat := wrapI w (sgn w a / 2 ^ (if k < w - 1 then k else w - 1))
def rotBits (w a k : Nat) : Nat := a * 2 ^ (k % w) % 2 ^ w + a / 2 ^ (w - k % w)

def execShl (o : OpI2) (s : State) : Res := op2 s o 1 (bits2 o.ty (shlBits o.ty.width))
def execShr (o : OpI2) (s : State) : Res := op2 s o 1 (bits2 o.ty (shrBits o.ty.width))
def execSha (o : OpI2) (s : State) : Res := op2 s o 1 (bits2 o.ty (shaBits o.ty.width))
def execRot (o : OpI2) (s : State) : Res := op2 s o 1 (bits2 o.ty (rotBits o.ty.width))

/-- Leading zero bits of a `w`-bit number. -/
def clzBits (w a : Nat) : Nat := if a = 0 then w else w - 1 - a.log2
/-- One bits among the low `w`. -/
def popBits (w a : Nat) : Nat := ((List.range w).filter a.testBit).length
/-- The low `w` bits in reverse order. -/
def brevBits (w a : Nat) : Nat := (List.range w).foldl (fun acc i => acc + if a.testBit i then 2 ^ (w - 1 - i) else 0) 0

def execClz (o : OpI1) (s : State) : Res := op1 s o 1 (bits1 o.ty (clzBits o.ty.width))
def execPop (o : OpI1) (s : State) : Res := op1 s o 1 (bits1 o.ty (popBits o.ty.width))
def execBrev (o : OpI1) (s : State) : Res := op1 s o 1 (bits1 o.ty (brevBits o.ty.width))

/-- R204: extract `len` bits at `pos`, clipped at the lane's top. -/
def bfxBits (t : ITy) (a pos len : Nat) : Nat :=
  let w := t.width
  if len = 0 || w ≤ pos then 0
  else
    let n := if len < w - pos then len else w - pos
    let f := a / 2 ^ pos % 2 ^ n
    if t.signed then wrapI w (sgn n f) else f

/-- R204: insert; C packs the position in its low half and the length in its high half. -/
def bfiBits (w a b c : Nat) : Nat :=
  let pos := c % 2 ^ (w / 2)
  let len := c / 2 ^ (w / 2)
  if len = 0 || w ≤ pos then a
  else
    let n := if len < w - pos then len else w - pos
    let m := (2 ^ n - 1) * 2 ^ pos
    (a &&& (2 ^ w - 1 - m)) ||| (b * 2 ^ pos &&& m)

def execBfx (o : OpI3) (s : State) : Res := op3 s o 1 (bits3 o.ty (bfxBits o.ty))
def execBfi (o : OpI3) (s : State) : Res := op3 s o 1 (bits3 o.ty (bfiBits o.ty.width))

/-! ## Compares and predicates (R205, R206) -/

def condHolds (c : Cond) (a b : Int) : Bool :=
  match c with
  | .eq => a == b
  | .ne => a != b
  | .lt => a < b
  | .le => a ≤ b
  | .gt => b < a
  | .ge => b ≤ a

/-- Sixteen bits from a function of the bit number. -/
def bits16 (f : Nat → Bool) : BitVec 16 := BitVec.ofNat 16 ((List.range 16).foldl (fun a j => a + if f j then 2 ^ j else 0) 0)

/-- R205: write a predicate: guarded bits below n, and zero in bits n to 15. -/
def predOp (s : State) (h : Hdr) (w p lat : Nat) (srcs : List Src) (vs : List Val) (tag : TagExp) (nf : Nat → Nat)
    (f : Nat → Bool) : Res :=
  let g := s.myGuard h
  let n := laneCount w
  if nullified g n then .next (clearFresh s h srcs)
  else if !tagOk tag vs then .next (raise s .domainTag)
  else
    .next (send (clearFresh s h srcs) lat (fAll (((List.range n).filter (guardBit g)).map nf)) 0
      (.pred s.cur.unit p (bits16 fun j => if j < n then guardBit g j else true) (bits16 fun j => j < n && f j)))

def execCmp (o : OpCmp) (s : State) : Res :=
  let vs := [readI s o.ty o.a, readI s o.ty o.b]
  let w := o.ty.width
  predOp s o.h w o.p 1 [o.a, o.b] vs o.tag (fun _ => 0) fun j => condHolds o.cc (ival o.ty (lv w vs 0 j)) (ival o.ty (lv w vs 1 j))

def execTest (o : OpTest) (s : State) : Res :=
  let vs := [readI s o.ty o.a, readI s o.ty o.b]
  let w := o.ty.width
  predOp s o.h w o.p 1 [o.a, o.b] vs o.tag (fun _ => 0) fun j => (lv w vs 0 j &&& lv w vs 1 j) != 0

/-- R206: an instruction on predicates; the guard governs each of the 16 bits. -/
def predBits (s : State) (h : Hdr) (p : Nat) (v : BitVec 16) : Res :=
  let g := s.myGuard h
  if nullified g 16 then .next s else .next (send s 1 0 0 (.pred s.cur.unit p g v))

def execPand (o : OpP2) (s : State) : Res := predBits s o.h o.p (s.myElem.pred o.a &&& s.myElem.pred o.b)
def execPor (o : OpP2) (s : State) : Res := predBits s o.h o.p (s.myElem.pred o.a ||| s.myElem.pred o.b)
def execPxor (o : OpP2) (s : State) : Res := predBits s o.h o.p (s.myElem.pred o.a ^^^ s.myElem.pred o.b)
def execPnot (o : OpP1) (s : State) : Res := predBits s o.h o.p (~~~(s.myElem.pred o.a))
def execPmov (o : OpP1) (s : State) : Res := predBits s o.h o.p (s.myElem.pred o.a)

/-! ## Selects, moves and constants (R207 to R211) -/

/-- Planes of a result whose lane j comes from lane `i` of a source, or is zero-filled. -/
def movePlanes (width w : Nat) (f : Nat → Option (Val × Nat)) : List (Nat × V128) :=
  (planeNums width).map fun p =>
    (p, ofLanes w (laneCount w) fun j =>
      match f j with
      | some (v, i) => laneOfV w (v.plane p) i
      | none => 0)

/-- R207: the guard selects, lane by lane, and every lane is written. -/
def execSel (o : OpI2) (s : State) : Res :=
  let w := o.ty.width
  let n := laneCount w
  let a := readI s o.ty o.a
  let b := readI s o.ty o.b
  let g := s.myGuard o.h
  if !tagOk o.tag [a, b] then .next (raise s .domainTag)
  else
    let pick (j : Nat) : Val := if guardBit g j then a else b
    .next (sendElem (clearFresh s o.h [o.a, o.b]) 1 w (fun _ => true) o.d (ofLanes w n fun j => laneOfV w (pick j).bits j)
      ((List.range n).any fun j => (pick j).scaled) (movePlanes s.myLane.width w fun j => some (pick j, j)) 0 0)

/-- Entries that move lanes of A, with A's tag and planes (R194, R208, R212); they check no tag. -/
def moveOp (s : State) (h : Hdr) (w : Nat) (d : Dst) (srcs : List Src) (a : Val) (f : Nat → Option Nat) : Res :=
  let g := s.myGuard h
  let n := laneCount w
  if nullified g n then .next (clearFresh s h srcs)
  else
    .next (sendElem (clearFresh s h srcs) 1 w (guardBit g) d
      (ofLanes w n fun j => match f j with | some i => laneOfV w a.bits i | none => 0)
      a.scaled (movePlanes s.myLane.width w fun j => (f j).map fun i => (a, i)) 0 0)

def execMov (o : OpMov) (s : State) : Res :=
  moveOp s o.h o.ty.width o.d [o.a] (readI s o.ty o.a) some

/-- R209: the constant register of the bank active at firing. -/
def execMovk (o : OpMovk) (s : State) : Res :=
  let w := o.ty.width
  let g := s.myGuard o.h
  let a := readI s o.ty o.a
  if nullified g (laneCount w) then .next (clearFresh s o.h [o.a])
  else
    let drop := (List.range (laneCount w)).any fun j => guardBit g j && tanNonzero s.myLane.width w a j
    .next (send (clearFresh s o.h [o.a]) 1 0 (fIf drop tDROP)
      (.const s.cur.unit s.myLane.act o.k (maskOf w (guardBit g)) a.bits a.scaled))

/-- Entries without sources: the guarded lanes of a fixed value, unscaled, with zero planes. -/
def fillOp (s : State) (h : Hdr) (w : Nat) (d : Dst) (f : Nat → Nat) : Res :=
  let g := s.myGuard h
  if nullified g (laneCount w) then .next s
  else .next (sendElem s 1 w (guardBit g) d (ofLanes w (laneCount w) f) false (zeroPlanes s.myLane.width) 0 0)

def execLi (o : OpLi) (s : State) : Res := fillOp s o.h o.ty.width o.d fun _ => wrapI o.ty.width o.imm

/-- R211: the element's number within the region. -/
def elemIndex (l : Lane) (u : Nat) : Nat := (u / 8 - l.org.1) * l.hdr.cols + (u % 8 - l.org.2)

def execIdx (o : OpD) (s : State) : Res :=
  let n := laneCount o.ty.width
  fillOp s o.h o.ty.width o.d fun j => elemIndex s.myLane s.cur.unit * n + j

/-! ## Lane movement and reductions (R212, R213) -/

def execBcast (o : OpNum) (s : State) : Res :=
  moveOp s o.h o.ty.width o.d [o.a] (readI s o.ty o.a) fun _ => some o.n

def execLrot (o : OpNum) (s : State) : Res :=
  moveOp s o.h o.ty.width o.d [o.a] (readI s o.ty o.a) fun j => some ((j + o.n) % laneCount o.ty.width)

def execShuf (o : OpShuf) (s : State) : Res :=
  let w := o.ty.width
  let b := readI s o.ty o.b
  moveOp s o.h w o.d [o.a, o.b] (readI s o.ty o.a) fun j =>
    let i := laneOfV w b.bits j
    if i < laneCount w then some i else none

/-- Every lane of A takes part. -/
def everyLane (_j _k _i : Nat) : Bool := true

def execLsum (o : OpI1) (s : State) : Res :=
  op1 s o 3 (fun vs _ =>
    (wrapI o.ty.width ((List.range (laneCount o.ty.width)).foldl (fun t i => t + ival o.ty (lv o.ty.width vs 0 i)) 0), 0)) everyLane

def execLmax (o : OpI1) (s : State) : Res :=
  op1 s o 3 (fun vs _ =>
    (wrapI o.ty.width ((List.range (laneCount o.ty.width)).foldl
      (fun t i => let x := ival o.ty (lv o.ty.width vs 0 i); if t < x then x else t) (ival o.ty (lv o.ty.width vs 0 0))), 0)) everyLane

/-! ## TRI5 and packed integers (R214 to R217) -/

def execTri5 (o : OpTri) (s : State) : Res :=
  let a := readI s .i8 o.a
  laneOp s o.h 8 2 o.d [o.a] [a] .any a.scaled
    (fun vs j => let e := 16 * o.g + j; let b := lv 8 vs 0 (e / 5); (wrapI 8 (trit b (e % 5)), fIf (243 ≤ b) fCODE))
    fun j _ i => i == (16 * o.g + j) / 5

/-- Bits of an element of a packed format (R215). -/
def pfBits : PFmt → Nat
  | .int4 | .nat4 => 4
  | .int2 => 2
  | .bin1 => 1

/-- R216: the code of one element, and whether it was clipped. -/
def packCode (f : PFmt) (x : Int) : Nat × Bool :=
  match f with
  | .bin1 => (if 0 ≤ x then 1 else 0, x != 1 && x != -1)
  | .nat4 => let r := clip 0 15 x; (wrapI 4 r.1, r.2)
  | .int4 => let r := clip (-8) 7 x; (wrapI 4 r.1, r.2)
  | .int2 => let r := clip (-2) 1 x; (wrapI 2 r.1, r.2)

/-- The lane type of a packed format (R215). -/
def pfTy : PFmt → ITy
  | .nat4 => .n8
  | .int4 | .int2 | .bin1 => .i8

/-- Element `i` of 32: the lanes of A, then those of B. -/
def packElem (t : ITy) (vs : List Val) (i : Nat) : Int :=
  if i < 16 then ival t (lv 8 vs 0 i) else ival t (lv 8 vs 1 (i - 16))

def execPack (o : OpPack) (s : State) : Res :=
  let t := (pfTy o.fmt)
  let n := 8 / (pfBits o.fmt)
  let vs := [readI s t o.a, readI s t o.b]
  laneOp s o.h 8 2 o.d [o.a, o.b] vs .any (anyScaled vs)
    (fun vs j =>
      let codes := (List.range n).map fun e =>
        if j * n + e < 32 then packCode o.fmt (packElem t vs (j * n + e)) else (0, false)
      (codes.foldr (fun c acc => acc * 2 ^ (pfBits o.fmt) + c.1) 0, fIf (codes.any (·.2)) fSAT))
    fun j k i => let e := 16 * k + i; j * n ≤ e && e < j * n + n

def execUnpk (o : OpUnpk) (s : State) : Res :=
  let wb := (pfBits o.fmt)
  let a := readI s (pfTy o.fmt) o.a
  laneOp s o.h 8 2 o.d [o.a] [a] .any a.scaled
    (fun vs j =>
      let c := laneOfV wb ((vs[0]?).getD ({} : Val)).bits j
      (match o.fmt with
       | .bin1 => if c = 1 then 1 else 0xFF
       | .nat4 => c
       | .int4 | .int2 => wrapI 8 (sgn wb c), 0))
    fun j _ i => i == j * wb / 8

/-! ## Tokens and nop (R218 to R221) -/

/-- R219: a `tokw` that fires takes one token of its channel; a nullified one takes none. -/
def execTokw (o : OpN) (s : State) : Res :=
  if nullified (s.myGuard o.h) 1 then .next s
  else .next (s.modCore (coreOf s.cur.lane) fun c =>
    let e := c.elem s.cur.unit
    c.setElem s.cur.unit { e with tokens := tblPut e.tokens o.n (tblGet 0 e.tokens o.n - 1) })

/-- The listened channels of a timed list (R218). -/
def listens (entries : List Nat) (ch : Nat) : Bool :=
  entries.any fun w =>
    match decodeElement w with
    | .ok (.tokw o) => o.n == ch
    | _ => false

/-- The elements of a lane's region that listen on a channel in the active bank. -/
def listeners (c : Core) (l : Lane) (slot ch : Nat) : List Nat :=
  (List.range 64).filter fun u => c.ownedBy u slot && listens (c.list u l.act) ch

/-- Tokens on a channel emitted and not yet landed (R220). -/
def tokensInFlight (l : Lane) (ch : Nat) : Nat :=
  (l.flights.filter fun f => match f.land with | .token k => k == ch | _ => false).length

/-- R220: with one token more, the count of some listener could pass 255. -/
def tokenFull (s : State) (ch : Nat) : Bool :=
  let c := s.myCore
  let l := s.myLane
  (listeners c l (slotOf s.cur.lane) ch).any fun u => 255 < tblGet 0 (c.elem u).tokens ch + tokensInFlight l ch + 1

/-- R219, R220: emit a token, unless some listener's count could pass 255. -/
def emitToken (s : State) (ch : Nat) : State := if tokenFull s ch then raise s .barrier else send s 1 0 0 (.token ch)

def execToke (o : OpN) (s : State) : Res :=
  if nullified (s.myGuard o.h) 1 then .next s else .next (emitToken s o.n)

/-- R221. -/
def execNop (_h : Hdr) (s : State) : Res := .next s

end Sys2Proof.Machine
end

