-- ==== Sys2Proof/Machine/Float.lean ====
section
/-! DEFINITION. Element instructions of class 01 (12_float.md) with their tangents (R249 to R253, R256). -/

namespace Sys2Proof.Machine

/-! ## Drawing counters (R238) -/

/-- The seed record and table entry of the block under way: seed, first counter, PIDX, CTROFF, CTRLEN; none when the
entry draws from no range (SEEDSEL 0xF). -/
def State.drawRange (s : State) : Option (Nat × Nat × Nat × Nat × Nat) :=
  s.myLane.rel.bind fun r =>
    if r.entry.seedsel = 15 then none
    else
      (s.works.find? fun w => w.workid == r.entry.workid).bind fun w =>
        (w.launch.seeds[r.entry.seedsel]?).map fun x => (x.seed, x.first, r.pidx, r.entry.ctroff, r.entry.ctrlen)

/-- R238: the local index of draw `q` of the entry under way. -/
def State.drawIndex (s : State) (q : Nat) : Nat :=
  ((s.myLane.blockInt * 64 + elemIndex s.myLane s.cur.unit) * 256 + s.cur.idx) * 32 + q

/-- The 64-bit value of draw `q`. -/
def State.draw (s : State) (q : Nat) : Nat :=
  match s.drawRange with
  | none => 0
  | some (seed, f, pidx, off, _) => kh seed (pidx * 2 ^ 40 + (f + off * 2 ^ 16 + s.drawIndex q))

/-- Random bits [31:0] of draw `q`. -/
def State.draw32 (s : State) (q : Nat) : Nat := s.draw q % 2 ^ 32

/-- R124, R238: the first of the draws that lies outside the entry's range, by its local index. -/
def State.badDraw (s : State) (qs : List Nat) : Option Nat :=
  match s.drawRange with
  | none => (qs.head?).map s.drawIndex
  | some (_, _, _, _, len) => (qs.map s.drawIndex).find? fun l => decide (len * 2 ^ 16 ≤ l)

/-! ## One floating-point entry -/

/-- What an entry of this chapter computes in each destination lane. `prim` gives bits and flags, or none where a
conversion policy says FAULT; `tan p j` the tangent of plane p with its flags; `srcT` and `srcP` the tangents and
primals that lane j reads; `lin` the terms of `drn.lin`, absent for a packed target, which a prefix does not change. -/
structure FOp where
  h : Hdr
  w : Nat
  n : Nat
  lat : Nat
  d : Dst
  srcs : List Src
  vs : List Val
  tag : TagExp := .any
  rtag : Bool
  qs : Nat → List Nat
  prim : Nat → Option (Nat × Nat)
  tan : Nat → Nat → Nat × Nat
  srcT : Nat → Nat → List XR
  lin : Option (DrnCap → Nat → Nat → Nat × Nat)

/-- A fraction that is not zero, or no number. -/
def xNonzero (x : XR) : Bool := !x.isZero

/-- R256: the captured prefix of the entry with header `h`. -/
def drnFor (e : Elem) (h : Hdr) : Option DrnCap := e.drn.bind fun c => if c.stamp + 1 = h.stamp then some c else none

/-- A target uses its prefix once. -/
def dropDrn (s : State) (h : Hdr) : State :=
  match drnFor s.myElem h with
  | none => s
  | some _ =>
    s.modCore (coreOf s.cur.lane) fun c => c.setElem s.cur.unit { c.elem s.cur.unit with drn := none }

/-- The tangent of a lane: the instruction's own rule, or its prefix's. -/
def FOp.tangent (o : FOp) (e : Elem) (p j : Nat) : Nat × Nat :=
  match drnFor e o.h, o.lin with
  | some c, some lin => if c.lin then lin c p j else (0, fIf ((o.srcT p j).any xNonzero) tCUT)
  | _, _ => o.tan p j

/-- R222 to R224: run an entry of this chapter. -/
def floatOp (s : State) (o : FOp) : Res :=
  let g := s.myGuard o.h
  let s1 := dropDrn (clearFresh s o.h o.srcs) o.h
  if nullified g o.n then .next s1
  else if !tagOk o.tag o.vs then .next (raise s .domainTag)
  else
    let on := (List.range o.n).filter (guardBit g)
    match s.badDraw (on.flatMap o.qs) with
    | some l => .next (raise s .rngReuse l)
    | none =>
      if on.any fun j => (o.prim j).isNone then .next (raise s .convert)
      else
        let all := laneCount o.w
        let pr (j : Nat) : Nat × Nat := if j < o.n then (o.prim j).getD (0, 0) else (0, 0)
        let wd := s.myLane.width
        let e := s.myElem
        let planes := (planeNums wd).map fun p =>
          (p, ofLanes o.w all fun j => if j < o.n && guardBit g j then (o.tangent e p j).1 else 0)
        let tf := fAll ((planeNums wd).flatMap fun p => on.map fun j => (o.tangent e p j).2)
        .next (sendElem s1 o.lat o.w (fun j => if j < o.n then guardBit g j else true) o.d
          (ofLanes o.w all fun j => (pr j).1) o.rtag planes (fAll (on.map fun j => (pr j).2)) tf)

/-! ## Lanes as extended reals -/

/-- Lane `j` of source `k` under a floating-point type. -/
def fl (t : FTy) (vs : List Val) (k j : Nat) : XR := ffDecode (ffOf t) (lv (ffOf t).width vs k j)
/-- Its plane-`p` tangent. -/
def ft (t : FTy) (vs : List Val) (p k j : Nat) : XR :=
  ffDecode (ffOf t) (laneOfV (ffOf t).width (((vs[k]?).getD ({} : Val)).plane p) j)

/-- R61: a source under a floating-point type: an immediate is the integer rounded to nearest even. -/
def readF (s : State) (t : FTy) (a : Src) : Val :=
  readSrc s (ffOf t).width (fun v => (fRound (ffOf t) .rne 0 (XR.ofInt v)).1) a

/-- A tangent rounded once (R249), with its flags; `nanIn` says that a source was NaN. -/
def tRound (f : FF) (nanIn : Bool) (x : XR) : Nat × Nat :=
  let r := fRound f .rne 0 x
  (r.1, (r.2 &&& (fNX ||| fUF ||| fOF)) ||| fIf (x.isNan && !nanIn) tNV)

/-- R249: the exact sum of products, rounded once. -/
def tLin (f : FF) (nanIn : Bool) (ts : List (XR × XR)) : Nat × Nat :=
  tRound f nanIn (XR.sum false (ts.map fun t => (t.1.mul t.2).1)).1

def xOne : XR := XR.ofInt 1
def xNegOne : XR := XR.ofInt (-1)

/-- The flags of products and sums that are invalid (R223). -/
def nvIf (b : Bool) : Nat := fIf b fNV

/-- The number of lanes of a floating-point type. -/
def fLanes (t : FTy) : Nat := laneCount (ffOf t).width

/-- Lane j's draw under SR. -/
def laneDraw (rm : RMode) (j : Nat) : List Nat := if rm == .sr then [j] else []

/-- The draw of lane j, or nothing to draw. -/
def uOf (s : State) (rm : RMode) (q : Nat) : Nat := if rm == .sr then s.draw32 q else 0

/-- R256: `drn.lin` on a target whose lanes are of type `t`: the captured values' lanes times the target's tangents. -/
def linLane (t : FTy) (vs : List Val) (c : DrnCap) (tans : List XR) (j : Nat) : Nat × Nat :=
  let cap (v : V128) : XR := ffDecode (ffOf t) (laneOfV (ffOf t).width v j)
  let cs := [cap c.a, cap c.b, cap c.c]
  let nanIn := (cs ++ tans).any XR.isNan || (List.range vs.length).any fun k => (fl t vs k j).isNan
  tLin (ffOf t) nanIn (List.zip cs tans)

/-- A lane-by-lane entry of one type: `f` gives the exact result and its flags, `df` the tangent's terms from the
lane's primals and tangents. -/
def lanesOp (s : State) (h : Hdr) (t : FTy) (lat : Nat) (d : Dst) (srcs : List Src) (tag : TagExp) (rtag : List Val → Bool)
    (rm : RMode) (draws : Bool) (f : Nat → List XR → Nat × Nat) (df : List XR → List XR → Nat × Nat) : Res :=
  let vs := srcs.map (readF s t)
  let ks := List.range srcs.length
  floatOp s
    { h, w := (ffOf t).width, n := fLanes t, lat, d, srcs, vs, tag, rtag := rtag vs,
      qs := fun j => if draws then laneDraw rm j else [],
      prim := fun j => some (f (uOf s rm j) (ks.map fun k => fl t vs k j)),
      tan := fun p j => df (ks.map fun k => fl t vs k j) (ks.map fun k => ft t vs p k j),
      srcT := fun p j => ks.map fun k => ft t vs p k j,
      lin := some fun c p j => linLane t vs c (ks.map fun k => ft t vs p k j) j }

/-- A NaN among lanes. -/
def anyNan (xs ts : List XR) : Bool := xs.any XR.isNan || ts.any XR.isNan

/-- The sum of products of two operands at a time, each with a sign, rounded once with its flags. -/
def sumOf (f : FF) (rm : RMode) (u : Nat) (ts : List (XR × Bool)) : Nat × Nat :=
  let v := XR.sum (rm == .rdn) (ts.map (·.1))
  let r := fRound f rm u v.1
  (r.1, r.2 ||| nvIf (v.2 || ts.any (·.2)))

def xi (xs : List XR) (k : Nat) : XR := (xs[k]?).getD .nan

def plain (x : XR) : XR × Bool := (x, false)
def negP (x : XR × Bool) : XR × Bool := (x.1.neg, x.2)

/-- R225, R251: additions. -/
def addLike (s : State) (o : OpF2) (neg : Bool) : Res :=
  let f := ffOf o.ty
  lanesOp s o.h o.ty 3 o.d [o.a, o.b] o.tag anyScaled o.rm true
    (fun u x => sumOf f o.rm u [plain (xi x 0), plain (if neg then (xi x 1).neg else xi x 1)])
    (fun x t => tLin f (anyNan x t) [(xOne, xi t 0), (if neg then xNegOne else xOne, xi t 1)])

def execFadd (o : OpF2) (s : State) : Res := addLike s o false
def execFsub (o : OpF2) (s : State) : Res := addLike s o true

/-- R225, R235, R251: products. -/
def mulLike (s : State) (o : OpF2) (lat : Nat) (rtag : List Val → Bool) : Res :=
  let f := ffOf o.ty
  lanesOp s o.h o.ty lat o.d [o.a, o.b] o.tag rtag o.rm true
    (fun u x =>
      let m := (xi x 0).mul (xi x 1)
      let r := fRound f o.rm u m.1
      (r.1, r.2 ||| nvIf m.2))
    (fun x t => tLin f (anyNan x t) [(xi t 0, xi x 1), (xi x 0, xi t 1)])

def execFmul (o : OpF2) (s : State) : Res := mulLike s o 3 anyScaled
def execScl (o : OpF2) (s : State) : Res := mulLike s o 2 fun _ => true
def execUscl (o : OpF2) (s : State) : Res := mulLike s o 2 fun _ => false

/-- R225, R251: fused forms: `np` negates the product and `nc` the addend. -/
def fmaLike (s : State) (o : OpF3) (np nc : Bool) : Res :=
  let f := ffOf o.ty
  let sp := if np then xNegOne else xOne
  let sc := if nc then xNegOne else xOne
  lanesOp s o.h o.ty 3 o.d [o.a, o.b, o.c] o.tag anyScaled o.rm true
    (fun u x =>
      let m := (xi x 0).mul (xi x 1)
      sumOf f o.rm u [if np then negP m else m, plain (if nc then (xi x 2).neg else xi x 2)])
    (fun x t =>
      tLin f (anyNan x t) [((sp.mul (xi t 0)).1, xi x 1), ((sp.mul (xi x 0)).1, xi t 1), (sc, xi t 2)])

def execFma (o : OpF3) (s : State) : Res := fmaLike s o false false
def execFms (o : OpF3) (s : State) : Res := fmaLike s o false true
def execFnma (o : OpF3) (s : State) : Res := fmaLike s o true false

/-! ## Minimum, maximum, sign, compare and classify (R228 to R230) -/

/-- R228: the order of two values that are no NaN, −0 below +0. -/
def xLess (a b : XR) : Bool :=
  match a, b with
  | .inf true, .inf true => false
  | .inf true, _ => true
  | _, .inf true => false
  | .inf false, _ => false
  | _, .inf false => true
  | .fin s m, .fin t n => (XR.fin s m).val.lt (XR.fin t n).val || (m.isZero && n.isZero && s && !t)
  | _, _ => false

/-- R228: which source is delivered: 0 or 1, or none for the canonical NaN. -/
def pickMM (mx : Bool) (a b : XR) : Option Nat :=
  if a.isNan && b.isNan then none
  else if a.isNan then some 1
  else if b.isNan then some 0
  else if mx then (if xLess a b then some 1 else some 0)
  else if xLess b a then some 1 else some 0

def minMax (s : State) (o : OpG2) (mx : Bool) : Res :=
  let f := ffOf o.ty
  lanesOp s o.h o.ty 1 o.d [o.a, o.b] o.tag anyScaled .rne false
    (fun _ x => match pickMM mx (xi x 0) (xi x 1) with | none => (f.canon, 0) | some k => ((fRound f .rne 0 (xi x k)).1, 0))
    (fun x t =>
      match pickMM mx (xi x 0) (xi x 1) with
      | none => (f.canon, 0)
      | some k => tLin f (anyNan x t) [(xOne, xi t k)])

def execFmin (o : OpG2) (s : State) : Res := minMax s o false
def execFmax (o : OpG2) (s : State) : Res := minMax s o true

/-- R228: the sign instructions change one bit of each lane, NaNs included. -/
def signOp (s : State) (o : OpG1) (bit : Nat → Bool → Nat) (dsign : Bool → XR) : Res :=
  let f := ffOf o.ty
  let w := f.width
  let a := readF s o.ty o.a
  floatOp s
    { h := o.h, w, n := fLanes o.ty, lat := 1, d := o.d, srcs := [o.a], vs := [a], tag := o.tag, rtag := a.scaled,
      qs := fun _ => [],
      prim := fun j => let x := laneOfV w a.bits j; some (bit (x % 2 ^ (w - 1)) (x.testBit (w - 1)), 0),
      tan := fun p j =>
        let t := ft o.ty [a] p 0 j
        tLin f (anyNan [fl o.ty [a] 0 j] [t]) [(dsign ((laneOfV w a.bits j).testBit (w - 1)), t)],
      srcT := fun p j => [ft o.ty [a] p 0 j],
      lin := some fun c p j => linLane o.ty [a] c [ft o.ty [a] p 0 j] j }

def execFabs (o : OpG1) (s : State) : Res :=
  signOp s o (fun x _ => x) fun n => if n then xNegOne else xOne
def execFneg (o : OpG1) (s : State) : Res :=
  signOp s o (fun x n => if n then x else x + 2 ^ ((ffOf o.ty).width - 1)) fun _ => xNegOne

/-- Equality of two values that are no NaN; −0 equals +0. -/
def xEq (a b : XR) : Bool :=
  match a, b with
  | .inf s, .inf t => s == t
  | .fin s m, .fin t n => (XR.fin s m).val.eq (XR.fin t n).val
  | _, _ => false

/-- R229. -/
def fcondHolds (c : FCond) (a b : XR) : Bool :=
  let un := a.isNan || b.isNan
  let eq := xEq a b
  match c with
  | .eq => !un && eq
  | .ne => !un && !eq
  | .lt => !un && !eq && xLess a b
  | .le => !un && (eq || xLess a b)
  | .gt => !un && !eq && xLess b a
  | .ge => !un && (eq || xLess b a)
  | .unordered => un
  | .ordered => !un

def execFcmp (o : OpFcmp) (s : State) : Res :=
  let vs := [readF s o.ty o.a, readF s o.ty o.b]
  predOp s o.h (ffOf o.ty).width o.p 1 [o.a, o.b] vs o.tag (fun _ => 0) fun j =>
    fcondHolds o.cc (fl o.ty vs 0 j) (fl o.ty vs 1 j)

/-- R230: the class bits of a value. -/
def classBits (f : FF) : XR → Nat
  | .nan => 0x01
  | .inf true => 0x02
  | .inf false => 0x40
  | .fin s m =>
    if m.isZero then (if s then 0x08 else 0x10)
    else (if s then 0x04 else 0x20) + (if m.lt f.minNormal then 0x80 else 0)

def execFclass (o : OpFclass) (s : State) : Res :=
  let vs := [readF s o.ty o.a]
  predOp s o.h (ffOf o.ty).width o.p 1 [o.a] vs .any (fun _ => 0) fun j =>
    (o.mask &&& classBits (ffOf o.ty) (fl o.ty vs 0 j)) != 0

/-! ## Rounding to integers, scaling, paired products, lane sums (R225 to R227, R236) -/

/-- R225: round to an integral value in the format. -/
def frndLane (f : FF) (rm : RMode) (u : Nat) : XR → Nat × Nat
  | .fin s m => ((fRound f .rne 0 (.fin s (Q.ofInt (roundNat rm s u m.num.natAbs m.den).1))).1, 0)
  | x => ((fRound f .rne 0 x).1, 0)

/-- A zero tangent, with TCUT where it replaces a nonzero one. -/
def tZero (ts : List XR) : Nat × Nat := (0, fIf (ts.any xNonzero) tCUT)

def execFrnd (o : OpF1) (s : State) : Res :=
  lanesOp s o.h o.ty 2 o.d [o.a] o.tag anyScaled o.rm true (fun u x => frndLane (ffOf o.ty) o.rm u (xi x 0)) fun _ t => tZero t

/-- R225: the clamped scale of `fscl`: lane bits read as a signed integer. -/
def fsclK (w x : Nat) : Int := let k := sgn w x; if k < -1024 then -1024 else if 1023 < k then 1023 else k

def execFscl (o : OpF2) (s : State) : Res :=
  let f := ffOf o.ty
  let vs := [readF s o.ty o.a, readF s o.ty o.b]
  let k (j : Nat) : Int := fsclK f.width (lv f.width vs 1 j)
  floatOp s
    { h := o.h, w := f.width, n := fLanes o.ty, lat := 3, d := o.d, srcs := [o.a, o.b], vs, tag := o.tag,
      rtag := anyScaled vs, qs := laneDraw o.rm,
      prim := fun j =>
        match fl o.ty vs 0 j with
        | .fin n m => some (fRound f o.rm (uOf s o.rm j) (.fin n (m.shift (k j))))
        | x => some ((fRound f .rne 0 x).1, 0),
      tan := fun p j =>
        let a := fl o.ty vs 0 j
        let t := ft o.ty vs p 0 j
        match a with
        | .fin _ _ => tLin f (anyNan [a] [t]) [(XR.ofQ (Q.pow2 (k j)), t)]
        | _ => (f.canon, fIf (!anyNan [a] [t]) tNV),
      srcT := fun p j => [ft o.ty vs p 0 j, ft o.ty vs p 1 j],
      lin := some fun c p j => linLane o.ty vs c [ft o.ty vs p 0 j, ft o.ty vs p 1 j] j }

/-- The destination format of `fdot2` (R226). -/
def dotDst : FTy → FTy
  | .f16 | .bf16 => .f32
  | _ => .f16

def execFdot2 (o : OpF3) (s : State) : Res :=
  let dt := dotDst o.ty
  let f := ffOf dt
  let vs := [readF s o.ty o.a, readF s o.ty o.b, readF s dt o.c]
  let a (i : Nat) : XR := fl o.ty vs 0 i
  let b (i : Nat) : XR := fl o.ty vs 1 i
  let ta (p i : Nat) : XR := ft o.ty vs p 0 i
  let tb (p i : Nat) : XR := ft o.ty vs p 1 i
  let prims (j : Nat) : List XR := [a (2 * j), b (2 * j), a (2 * j + 1), b (2 * j + 1), fl dt vs 2 j]
  let tans (p j : Nat) : List XR := [ta p (2 * j), tb p (2 * j), ta p (2 * j + 1), tb p (2 * j + 1), ft dt vs p 2 j]
  floatOp s
    { h := o.h, w := f.width, n := fLanes dt, lat := 3, d := o.d, srcs := [o.a, o.b, o.c], vs, tag := o.tag,
      rtag := anyScaled vs, qs := laneDraw o.rm,
      prim := fun j =>
        some (sumOf f o.rm (uOf s o.rm j)
          [plain (fl dt vs 2 j), (a (2 * j)).mul (b (2 * j)), (a (2 * j + 1)).mul (b (2 * j + 1))]),
      tan := fun p j =>
        tLin f (anyNan (prims j) (tans p j))
          ((xOne, ft dt vs p 2 j) :: [2 * j, 2 * j + 1].flatMap fun i => [(ta p i, b i), (a i, tb p i)]),
      srcT := tans,
      lin := some fun c p j =>
        let ca (i : Nat) : XR := ffDecode (ffOf o.ty) (laneOfV (ffOf o.ty).width c.a i)
        let cb (i : Nat) : XR := ffDecode (ffOf o.ty) (laneOfV (ffOf o.ty).width c.b i)
        let cc : XR := ffDecode f (laneOfV f.width c.c j)
        let caps := [ca (2 * j), ca (2 * j + 1), cb (2 * j), cb (2 * j + 1), cc]
        tLin f (anyNan (prims j ++ caps) (tans p j))
          ((cc, ft dt vs p 2 j) :: [2 * j, 2 * j + 1].flatMap fun i => [(ca i, ta p i), (cb i, tb p i)]) }

/-- R55: one level of the pairwise tree; `node q l r` gives a node's value and flags, and nodes are numbered from q. -/
def treeLevel (node : Nat → Nat → Nat → Nat × Nat) (q : Nat) : List Nat → List Nat × Nat × Nat
  | l :: r :: t =>
    let v := node q l r
    let rest := treeLevel node (q + 1) t
    (v.1 :: rest.1, v.2 ||| rest.2.1, rest.2.2)
  | l => (l, 0, q)

/-- R55: the tree's root and its flags. -/
def treeSum (node : Nat → Nat → Nat → Nat × Nat) : Nat → Nat → List Nat → Nat × Nat
  | 0, _, l => ((l.head?).getD 0, 0)
  | k + 1, q, l =>
    let v := treeLevel node q l
    let r := treeSum node k v.2.2 v.1
    (r.1, r.2 ||| v.2.1)

/-- Levels of a tree over n lanes. -/
def treeDepth (n : Nat) : Nat := n.log2

/-- A node of a floating-point sum: rounded once under R54's special cases. -/
def sumNode (f : FF) (rm : RMode) (u : Nat) (l r : Nat) : Nat × Nat :=
  sumOf f rm u [plain (ffDecode f l), plain (ffDecode f r)]

def execLsumf (o : OpF1) (s : State) : Res :=
  let f := ffOf o.ty
  let a := readF s o.ty o.a
  let n := fLanes o.ty
  let is := List.range n
  floatOp s
    { h := o.h, w := f.width, n, lat := 3, d := o.d, srcs := [o.a], vs := [a], tag := o.tag, rtag := a.scaled,
      qs := fun _ => if o.rm == .sr then List.range (n - 1) else [],
      prim := fun _ =>
        some (treeSum (fun q => sumNode f o.rm (uOf s o.rm q)) (treeDepth n) 0 (is.map fun i => laneOfV f.width a.bits i)),
      tan := fun p _ =>
        let nanIn := anyNan (is.map fun i => fl o.ty [a] 0 i) (is.map fun i => ft o.ty [a] p 0 i)
        treeSum (fun _ l r => tLin f (nanIn || (ffDecode f l).isNan || (ffDecode f r).isNan)
          [(xOne, ffDecode f l), (xOne, ffDecode f r)]) (treeDepth n) 0 (is.map fun i => laneOfV f.width (a.plane p) i),
      srcT := fun p _ => is.map fun i => ft o.ty [a] p 0 i,
      lin := some fun c p j => linLane o.ty [a] c [ft o.ty [a] p 0 j] j }

/-- R236: the largest magnitude of all lanes. -/
def amaxX (xs : List XR) : XR :=
  if xs.any XR.isNan then .nan
  else if xs.any XR.isInf then .inf false
  else .fin false (amaxQ xs)

def execAmax (o : OpG1) (s : State) : Res :=
  let f := ffOf o.ty
  let a := readF s o.ty o.a
  let is := List.range (fLanes o.ty)
  let xs := is.map fun i => fl o.ty [a] 0 i
  let t := amaxX xs
  floatOp s
    { h := o.h, w := f.width, n := fLanes o.ty, lat := 3, d := o.d, srcs := [o.a], vs := [a], tag := o.tag,
      rtag := a.scaled, qs := fun _ => [],
      prim := fun _ => some ((fRound f .rne 0 t).1, 0),
      tan := fun p _ =>
        match is.find? fun i => xEq (fl o.ty [a] 0 i).abs t with
        | none => (f.canon, 0)
        | some i =>
          let ti := ft o.ty [a] p 0 i
          tLin f (anyNan xs [ti]) [(if (fl o.ty [a] 0 i).sign then xNegOne else xOne, ti)],
      srcT := fun p _ => is.map fun i => ft o.ty [a] p 0 i,
      lin := some fun c p j => linLane o.ty [a] c [ft o.ty [a] p 0 j] j }

/-! ## Conversions (R231 to R234, R252) -/

/-- The field of the policy that decided a conversion to a floating-point format: NAN, INF or OVF; none otherwise. -/
def decidedBy (f : FF) (pol : Nat) (rm : RMode) (u : Nat) : XR → Option Pol
  | .nan => some (polNan pol)
  | .inf _ => some (polInf pol)
  | .fin s m =>
    if m.isZero then none
    else
      let r := roundGrid f rm s u m
      if f.maxMag.lt ((Q.ofInt r.1).shift r.2.1) && !towardZero rm s then some (polOvf pol) else none

/-- R252: the tangent of a converted lane. -/
def cvtTan (td : LTy) (pol : Nat) (rm : RMode) (u : Nat) (a t : XR) : Nat × Nat :=
  match td with
  | .int _ => tZero [t]
  | .flt ty =>
    let f := ffOf ty
    match decidedBy f pol rm u a with
    | some .prop => (f.canon, fIf (!anyNan [a] [t]) tNV)
    | some _ => tZero [t]
    | none =>
      match convertF f 0xAA .rne 0 t with
      | some r => (r.1, (r.2 &&& (fNX ||| fUF ||| fOF)) ||| fIf ((ffDecode f r.1).isNan && !anyNan [a] [t]) tNV)
      | none => (0, 0)

/-- R61: the value a conversion reads; an immediate's lanes are formed under the type given, which is the entry's TY:
its destination's. -/
def readL (s : State) (t : LTy) (a : Src) : Val :=
  match t with
  | .int t => readI s t a
  | .flt t => readF s t a

/-- R66: the policy byte of constant register `k`. -/
def policyOf (s : State) (k : Nat) : Nat := laneOfV 8 (readSrc s 8 (fun _ => 0) (.k k)).bits 0

/-- R231, R232: convert lanes; `u j` gives lane j's 32 random bits. A second value is C of `cvtsr`, whose tangent counts
for a prefix alone, read in the destination's lanes (R252, R256; DEDUCED, log 141). -/
def cvtOp (s : State) (h : Hdr) (td ts : LTy) (d : Dst) (srcs : List Src) (vs : List Val) (k : Nat) (rm : RMode)
    (draws : Bool) (u : Nat → Nat) : Res :=
  let ws := lWidth ts
  let wd := lWidth td
  let m := 128 / (if ws < wd then wd else ws)
  let pol := policyOf s k
  let x (j : Nat) : XR := lDecode ts (lv ws vs 0 j)
  let t (p j : Nat) : XR := lDecode ts (laneOfV ws (((vs[0]?).getD ({} : Val)).plane p) j)
  let tc (p j : Nat) : XR := lDecode td (laneOfV wd (((vs[1]?).getD ({} : Val)).plane p) j)
  floatOp s
    { h, w := wd, n := m, lat := 2, d, srcs, vs, rtag := anyScaled vs,
      qs := fun j => if draws then laneDraw rm j else [],
      prim := fun j => convertL td pol rm (u j) (x j),
      tan := fun p j => cvtTan td pol rm (u j) (x j) (t p j),
      srcT := fun p j => [t p j, tc p j],
      lin := match td with
        | .int _ => none
        | .flt ty => some fun c p j =>
          let cap (v : V128) : XR := ffDecode (ffOf ty) (laneOfV wd v j)
          tLin (ffOf ty) (anyNan [x j, cap c.a, cap c.c] [t p j, tc p j]) [(cap c.a, t p j), (cap c.c, tc p j)] }

def execCvt (o : OpCvt) (s : State) : Res :=
  cvtOp s o.h o.td o.ts o.d [o.a] [readL s o.td o.a] o.k o.rm true (uOf s o.rm)

/-- R232: the random bits of element j, from C. -/
def srBits (m : Nat) (c : V128) (j : Nat) : Nat :=
  let g := 128 / m
  let b := if g < 32 then g else 32
  c.toNat / 2 ^ (g * j) % 2 ^ b * 2 ^ (32 - b)

def execCvtsr (o : OpCvtsr) (s : State) : Res :=
  let ws := lWidth o.ts
  let wd := lWidth o.td
  let c := readL s o.td o.c
  cvtOp s o.h o.td o.ts o.d [o.a, o.c] [readL s o.td o.a, c] o.k .sr false
    (srBits (128 / (if ws < wd then wd else ws)) c.bits)

/-- All of a list of options, or none. -/
def allSome {α : Type} : List (Option α) → Option (List α)
  | [] => some []
  | none :: _ => none
  | some a :: t => (allSome t).map (a :: ·)

/-- Little-endian bytes as a number. -/
def bytesNat (l : List Nat) : Nat := l.foldr (fun b a => a * 256 + b) 0

/-- R233: the guard reads bit 0 only, and the whole of D is written. -/
def execQuant (o : OpQuant) (s : State) : Res :=
  let a := readF s o.ty o.a
  let m := fLanes o.ty
  let is := List.range m
  let pol := policyOf s o.k
  let conv := allSome (is.map fun j => convertElem o.fmt pol o.rm (uOf s o.rm j) (fl o.ty [a] 0 j))
  let whole : Option (Nat × Nat) := conv.map fun rs => (bytesNat (packCodes o.fmt (rs.map (·.1))), fAll (rs.map (·.2)))
  floatOp s
    { h := o.h, w := 128, n := 1, lat := 2, d := o.d, srcs := [o.a], vs := [a], rtag := a.scaled,
      qs := fun _ => if o.rm == .sr then is else [],
      prim := fun _ => whole,
      tan := fun p _ => tZero (is.map fun j => ft o.ty [a] p 0 j),
      srcT := fun p _ => is.map fun j => ft o.ty [a] p 0 j,
      lin := none }

/-- A byte of a value. -/
def byteOf (v : V128) (i : Nat) : Nat := laneOfV 8 v i

def execDequ (o : OpQuant) (s : State) : Res :=
  let a := readF s o.ty o.a
  let f := ffOf o.ty
  let pol := policyOf s o.k
  let el (j : Nat) : XR × Bool := elemAt o.fmt (byteOf a.bits) j
  let src (p j : Nat) : Nat :=
    if isTri o.fmt then byteOf (a.plane p) (j / 5) else bytesBits (byteOf (a.plane p)) (j * fmtBits o.fmt) (fmtBits o.fmt)
  floatOp s
    { h := o.h, w := f.width, n := fLanes o.ty, lat := 2, d := o.d, srcs := [o.a], vs := [a], rtag := a.scaled,
      qs := laneDraw o.rm,
      prim := fun j => (convertF f pol o.rm (uOf s o.rm j) (el j).1).map fun r => (r.1, r.2 ||| fIf (el j).2 fCODE),
      tan := fun p j => (0, fIf (src p j != 0) tCUT),
      srcT := fun _ _ => [],
      lin := none }

/-! ## Scales and random numbers (R237, R239) -/

/-- R237: the E8M0 code of a block whose largest magnitude is x. -/
def mxCode (fmt : Fmt) : XR → Nat
  | .fin _ m => if m.isZero then 0 else e8m0 fmt m
  | _ => 0xFF

def execMxsc (o : OpMxsc) (s : State) : Res :=
  let a := readF s o.ty o.a
  floatOp s
    { h := o.h, w := (ffOf o.ty).width, n := fLanes o.ty, lat := 3, d := o.d, srcs := [o.a], vs := [a], rtag := false,
      qs := fun _ => [],
      prim := fun j => some (mxCode o.fmt (fl o.ty [a] 0 j), 0),
      tan := fun p j => tZero [ft o.ty [a] p 0 j],
      srcT := fun p j => [ft o.ty [a] p 0 j],
      lin := none }

/-- An entry without sources that draws. -/
def drawOp (s : State) (h : Hdr) (w : Nat) (d : Dst) (qs : Nat → List Nat) (f : Nat → Nat) : Res :=
  floatOp s
    { h, w, n := laneCount w, lat := 2, d, srcs := [], vs := [], rtag := false, qs, prim := fun j => some (f j, 0),
      tan := fun _ _ => (0, 0), srcT := fun _ _ => [], lin := none }

def execRnd (o : OpRnd) (s : State) : Res := drawOp s o.h 32 o.d (fun j => [j]) s.draw32

/-- R239: the exact value of a normal draw. -/
def rndnVal (h0 h1 : Nat) : Q :=
  (((Q.ofInt (popBits 64 h0)).sub (Q.ofInt 32)).add
    ((((Q.ofInt (h1 % 2 ^ 32 : Nat)).add (Q.pow2 (-1))).shift (-32)).sub (Q.pow2 (-1)))).shift (-2)

def execRndn (o : OpRndn) (s : State) : Res :=
  drawOp s o.h (ffOf o.ty).width o.d (fun j => [2 * j, 2 * j + 1]) fun j =>
    (fRound (ffOf o.ty) o.rm 0 (XR.ofQ (rndnVal (s.draw (2 * j)) (s.draw (2 * j + 1))))).1

/-! ## Function tables (R240 to R244, R253) -/

/-- The sign of a factor from its enclosure; 0 for an exact zero. A factor whose enclosure touches zero is a nonzero one
too small for it. -/
def FI.sgn (d : FI) : Int := if d.lo = 0 && d.hi = 0 then 0 else if d.hi ≤ 0 then -1 else 1

/-- R253: the tangent of a function. -/
def fnTan (f : Fn) (ty : FTy) (a t : XR) : Nat × Nat :=
  let ff := ffOf ty
  let nanOut : Nat × Nat := (ff.canon, fIf (!anyNan [a] [t]) tNV)
  let ord (x : Q) : Nat × Nat :=
    match t with
    | .fin _ m =>
      if m.isZero then
        let d := if interpolated ty then dvFI f x 448 else dfFI f 448 x
        (ff.zeroBits (t.sign != decide (d.sgn < 0)), 0)
      else
        let g (v : Q) : Nat × Nat := tRound ff false ((XR.ofQ v).mul t).1
        refine g (if interpolated ty then dvFI f x else fun p => dfFI f p x) precs
    | t =>
      let d := if interpolated ty then dvFI f x 448 else dfFI f 448 x
      tLin ff (anyNan [a] [t]) [(XR.ofInt d.sgn, t)]
  match a with
  | .nan => (ff.canon, 0)
  | .inf _ =>
    match fnSpecial f a with
    | some (.fin _ _, _) => tZero [t]
    | _ => nanOut
  | .fin n m =>
    match f with
    | .log2 | .rsq =>
      if m.isZero then (ff.canon, tNV) else if n then nanOut else ord a.val
    | .rcp => if m.isZero then (ff.canon, tNV) else ord a.val
    | _ => ord a.val

def fnOp (s : State) (f : Fn) (o : OpF1) : Res :=
  lanesOp s o.h o.ty 4 o.d [o.a] o.tag anyScaled o.rm true (fun u x => fnLane f o.ty o.rm u (xi x 0))
    fun x t => fnTan f o.ty (xi x 0) (xi t 0)

def execFnExp2 (o : OpF1) (s : State) : Res := fnOp s .exp2 o
def execFnLog2 (o : OpF1) (s : State) : Res := fnOp s .log2 o
def execFnRcp (o : OpF1) (s : State) : Res := fnOp s .rcp o
def execFnRsq (o : OpF1) (s : State) : Res := fnOp s .rsq o
def execFnSin (o : OpF1) (s : State) : Res := fnOp s .sin o
def execFnTanh (o : OpF1) (s : State) : Res := fnOp s .tanh o
def execFnSig (o : OpF1) (s : State) : Res := fnOp s .sig o
def execFnGelu (o : OpF1) (s : State) : Res := fnOp s .gelu o

/-! ## The Drone instructions (R254 to R256) -/

/-- A prefix captures its sources and writes nothing. -/
def capture (s : State) (c : DrnCap) : State :=
  s.modCore (coreOf s.cur.lane) fun co => co.setElem s.cur.unit { co.elem s.cur.unit with drn := some c }

def execDrnCut (o : OpCut) (s : State) : Res :=
  .next (capture s { lin := false, stamp := o.h.stamp, a := 0, b := 0, c := 0 })

def execDrnLin (o : OpLin) (s : State) : Res :=
  .next (capture s { lin := true, stamp := o.h.stamp, a := (readF s o.ty o.a).bits, b := (readF s o.ty o.b).bits,
                     c := (readF s o.ty o.c).bits })

/-- R255: an instruction that writes planes only. -/
def planeOp (s : State) (h : Hdr) (w : Nat) (d : Dst) (srcs : List Src) (planes : List (Nat × V128)) : Res :=
  let g := s.myGuard h
  let s1 := clearFresh s h srcs
  if nullified g (laneCount w) then .next s1
  else
    let (slot, latch) := dstOf s.myLane.base d
    .next (send s1 1 0 0 (.elem s.cur.unit slot latch (maskOf w (guardBit g)) none none planes))

def execDseed (o : OpNum) (s : State) : Res :=
  let a := readI s o.ty o.a
  planeOp s o.h o.ty.width o.d [o.a] ((planeNums s.myLane.width).map fun p => (p, if p = o.n then a.bits else 0))

def execDput (o : OpNum) (s : State) : Res :=
  let a := readI s o.ty o.a
  planeOp s o.h o.ty.width o.d [o.a] (if o.n ≤ s.myLane.width then [(o.n, a.bits)] else [])

def execDzero (o : OpD) (s : State) : Res := planeOp s o.h o.ty.width o.d [] (zeroPlanes s.myLane.width)

def execDget (o : OpNum) (s : State) : Res :=
  let w := o.ty.width
  let g := s.myGuard o.h
  let a := readI s o.ty o.a
  let s1 := clearFresh s o.h [o.a]
  if nullified g (laneCount w) then .next s1
  else
    .next (sendElem s1 1 w (guardBit g) o.d (if o.n ≤ s.myLane.width then a.plane o.n else 0) a.scaled
      (zeroPlanes s.myLane.width) 0 0)

end Sys2Proof.Machine
end

