-- ==== Sys2Proof/Machine/Ports.lean ====
section
/-! DEFINITION. Port tiles and generator tiles (R300 to R310), the atomics and reductions of R357 to R361, the write
queues and their performance at memory (R310, R342, R359), memory replies (R184), and hot pages (R160). -/

namespace Sys2Proof.Machine

/-! ## Generators (R304 to R306) -/

def genCtr (g : GenTile) (k : Nat) : GenCtr := tblGet {} g.ctrs k
def genPut (g : GenTile) (k : Nat) (c : GenCtr) : GenTile := { g with ctrs := tblPut g.ctrs k c }

/-- The four counters changed alike. -/
def genAll (g : GenTile) (f : GenCtr → GenCtr) : GenTile := (List.range 4).foldl (fun g k => genPut g k (f (genCtr g k))) g

/-- Apply pending values. -/
def genApply (g : GenTile) : GenTile :=
  genAll g fun c => { c with n := c.pn.getD c.n, s := c.ps.getD c.s, pn := none, ps := none }

/-- IDLE, or ENDED when a count is 0. -/
def genArm (g : GenTile) : GenTile :=
  { g with st := if (List.range 4).any fun k => (genCtr g k).n = 0 then .ended else .idle, goSent := false, endSent := false }

/-- R306: what a `run` does to a generator; its lookahead starts afresh. -/
def genRun (g : GenTile) : GenTile := genArm (genAll (genApply { g with taken := g.seen }) fun c => { c with i := 0 })

/-- The carry of a take, from counter `k`. -/
def genCarry : Nat → Nat → GenTile → GenTile
  | 0, _, g => g
  | f + 1, k, g =>
    let c := genCtr g k
    if c.i + 1 < c.n then genPut g k { c with i := c.i + 1 }
    else
      let g := genPut g k { c with i := 0 }
      if k = 3 then genApply { g with st := .ended } else genCarry f (k + 1) g

def genOffset (g : GenTile) : Int := (List.range 4).foldl (fun a k => a + (genCtr g k).i * (genCtr g k).s) 0

/-- R305: a take: the offset and the tile after it, or none when the sequence has ended. The lookahead is never behind
(R152). -/
def genTake (g : GenTile) : Option (Int × GenTile) :=
  if g.st = .ended then none
  else some (genOffset g, genCarry 4 0 { g with st := .run, taken := g.taken + 1, seen := max g.seen (g.taken + 1) })

/-- The tile as it will be `n` takes on, or none when its sequence ends before. -/
def genAfter : Nat → GenTile → Option GenTile
  | 0, g => if g.st = .ended then none else some g
  | n + 1, g => (genTake g).bind fun y => genAfter n y.2

/-- R306: a count or stride lands; `run` is the state its entry fired in. -/
def genLand (g : GenTile) (ctr : Nat) (stride run : Bool) (imm : Int) : GenTile :=
  let c := genCtr g ctr
  if run then genPut g ctr (if stride then { c with ps := some imm } else { c with pn := some imm.toNat })
  else
    let g := genPut g ctr (if stride then { c with s := imm } else { c with n := imm.toNat })
    genArm (genAll g fun c => { c with i := 0 })

/-- Bit 0 of the guard of a generator entry, read in the element in column 7 of its row. -/
def genGuard (s : State) (h : Hdr) : Bool := (guardOf h (s.myCore.elem (uElem (s.cur.unit - 72) 7))).getLsbD 0

def genEntry (s : State) (o : OpGen) (stride : Bool) : Res :=
  if genGuard s o.h then
    let row := s.cur.unit - 72
    .next (send s 1 0 0 (.gen row o.ctr stride (decide ((s.myCore.gen row).st = .run)) o.imm))
  else .next s

def execCnt (o : OpGen) (s : State) : Res := genEntry s o false
def execStep (o : OpGen) (s : State) : Res := genEntry s o true

/-- R306: `tokgo` emits once a sequence, before its end. -/
def execTokgo (o : OpN) (s : State) : Res :=
  let row := s.cur.unit - 72
  let g := s.myCore.gen row
  if genGuard s o.h && g.st != .ended && !g.goSent then
    if tokenFull s o.n then .next (raise s .barrier)
    else .next (emitToken (s.modCore (coreOf s.cur.lane) fun c => c.setGen row { g with goSent := true }) o.n)
  else .next s

def execTokend (o : OpN) (s : State) : Res :=
  let row := s.cur.unit - 72
  let g := s.myCore.gen row
  if genGuard s o.h && g.st == .ended && !g.endSent then
    if tokenFull s o.n then .next (raise s .barrier)
    else .next (emitToken (s.modCore (coreOf s.cur.lane) fun c => c.setGen row { g with endSent := true }) o.n)
  else .next s

/-! ## The front of every port entry: guard, take, checks and translation (R300, R302, R305) -/

def portBits (o : OpPort) : Nat := if o.size = 0 then 128 else if o.size = 1 then 64 else 32
def portLanes (o : OpPort) : Nat := portBits o / lWidth o.ty

/-- The element a port serves. -/
def portElem (s : State) : Elem := s.myCore.elem (uElem (s.cur.unit - 64) 0)

/-- The planes an access to a buffer moves: its primal, and the tangents of a DIFF buffer (R257, R259). -/
def planesFor (x : Bnd) (w : Nat) : List Nat := 0 :: (if x.f.diff then planeNums w else [])

/-- R302: check and translate a port access of the lanes whose guard is true, at offset `off` of its face. -/
def portPrep (s : State) (lane row : Nat) (o : OpPort) (indexed : Bool) (acc : Acc3) (x : Bnd) (off : Int)
    (on : List Nat) (latch : V128) : Prep :=
  let l := s.lane lane
  let w := l.width
  let face := accessFace s lane x (s.captured lane x.f) (acc != .read)
  let base := x.f.vaddr + planeOff x.f w face.1 0
  let sb : Nat := match s.attrAt lane (.port row) l.cwin x.b.hwin (vaOf base off) with
    | some a => (pairOf o.ty a).bytes o.ty
    | none => lWidth o.ty / 8
  let laneOff (j : Nat) : Int := off + (if indexed then laneOfV 16 latch (4 + j) else j) * (sb : Int)
  let bad : Option (Code × Nat) :=
    if indexed then on.findSome? fun j => faceCheck x base (laneOff j) sb sb
    else faceCheck x base off (portLanes o * sb) (portLanes o * sb)
  match bad with
  | some (c, i) => .bad s c i
  | none =>
    prepPieces lane (.port row) x l.cwin acc o.ty w face
      ((planesFor x w).flatMap fun p => on.map fun j => (j, p, (laneOff j).toNat, sb)) s

/-- What the front of a port entry finds. -/
inductive Front
  | skip
  | stop (s : State)
  | unbound
  | go (s : State) (x : Bnd) (ps : List Piece) (g : BitVec 16) (on : List Nat) (v : Val)

/-- R300 to R305: the front of a port entry that fires. -/
def portFront (s : State) (o : OpPort) (indexed : Bool) (acc : Acc3) : Front :=
  let row := s.cur.unit - 64
  let e := portElem s
  let g := guardOf o.h e
  let gt := s.myLane.org.1 + o.agen
  if nullified g (portLanes o) then .skip
  else
    match genTake (s.myCore.gen gt) with
    | none => .skip
    | some (off, g') =>
      match s.portBnd s.cur.lane row o.bsel with
      | none => .unbound
      | some x =>
        let on := (List.range (portLanes o)).filter (guardBit g)
        match portPrep s s.cur.lane row o indexed acc x off on e.latch.bits with
        | .bad s c i => .stop (raise s c i)
        | .absent s va => .stop (suspendPage s s.cur.lane row va)
        | .ok s ps =>
          .go (s.modCore (coreOf s.cur.lane) fun c => c.setGen gt g') x ps g on e.latch

/-! ## Hot pages (R160) -/

/-- Count delivered elements for a page of a work in a port's TLB; `page` is 1 + its base, 0 none. -/
def State.deliver (s : State) (core row workid page n : Nat) : State :=
  if page = 0 then s
  else s.modCore core fun c =>
    let p := c.port row
    c.setPort row { p with tlb := p.tlb.map fun e =>
      if e.va + 1 = page && e.workid = workid then { e with deliv := (e.deliv + n) % 2 ^ 32 } else e }

/-- Count the primal pieces of an access of a lane. -/
def State.deliverAll (s : State) (lane row : Nat) (ps : List Piece) : State :=
  let w := s.workOf lane
  ps.foldl (fun s p => if p.plane = 0 then s.deliver (coreOf lane) row w p.page 1 else s) s

/-- R160: a page whose HEAT has reached the threshold posts a HOT record, and its counters restart. -/
def execHotThreshold (core port page : Nat) (s : State) : Res :=
  let hot (e : TlbEnt) : Bool := e.va == page && decide ((s.die (core / 16)).hotThresh ≤ e.heat)
  match ((s.core core).port port).tlb.find? hot with
  | none => .next s
  | some e =>
    let rec_ := noteRec 0x20 (core / 16) (core % 16) port e.workid 0 page e.heat e.deliv s.tick
    .next (State.modCore (s.postNq rec_) core fun c =>
      let p := c.port port
      c.setPort port { p with tlb := p.tlb.map fun x =>
        if x.va = page && x.workid = e.workid then { x with heat := 0, deliv := 0 } else x })

/-- R160: a held cycle adds to the pages whose replies a port of the region awaits. -/
def heatPort (s : State) (core row : Nat) : State :=
  let c := s.core core
  let pages := (c.reqs.filter fun r => r.unit == row && !r.ready).flatMap fun r => r.pieces.map fun p => (s.workOf r.lane, p.page)
  let thresh := (s.die (core / 16)).hotThresh
  let p := c.port row
  let hit (e : TlbEnt) : Bool := pages.contains (e.workid, e.va + 1)
  let p' := { p with tlb := p.tlb.map fun e => if hit e then { e with heat := min 65535 (e.heat + 1) } else e }
  let s := s.setCore core (c.setPort row p')
  (p'.tlb.filter fun e => hit e && decide (thresh ≤ e.heat)).foldl
    (fun s e => s.soon (.hotThreshold core row e.va)) s

/-! ## Write queues (R310, R357, R359) -/

/-- Send the pieces of a queue entry that are not in the scratchpad: own-buffer pieces perform 25 cycles on (an
atomic's old value is due at 24), the others travel. -/
def dispatchEnt (s : State) (core row : Nat) (e : WEnt) : State :=
  (byHome s (e.pieces.filter fun p => !p.done)).foldl (fun s x =>
    match x.1 with
    | .spad _ => s
    | .buf d _ =>
      if d = core / 16 then s.post (s.now + if e.kind = .store then 25 else 24) (.writePerform core row)
      else s.sendWrite e.lane (.port core row e.id)
        (if e.kind = .store then x.2 else x.2.map fun p => { p with data := [] })
    | _ => s.sendWrite e.lane (.port core row e.id)
        (if e.kind = .store then x.2 else x.2.map fun p => { p with data := [] })) s

/-- Send the head of a port's queue, unless it is sent already or held by a blocked page (R163). -/
def sendHead (s : State) (core row : Nat) : State :=
  match ((s.core core).port row).queue with
  | [] => s
  | e :: q =>
    if e.sent.isSome || e.pieces.any (·.wblk) then s
    else
      let key := (core * 8 + row) * 8 + (match e.pieces with | p :: _ => s.homeDie p.pa | [] => 0)
      let tag := tblGet 0 s.tagNext key
      let s := if e.kind = .store then s else { s with tagNext := tblPut s.tagNext key ((tag + 1) % 2 ^ 16) }
      let e := { e with sent := some s.now, tag := if e.kind = .store then none else some tag }
      let s := s.modCore core fun c => c.setPort row { c.port row with queue := e :: q }
      let s := if e.kind = .store then s else s.post (s.now + 240) (.atomicResend core row)
      dispatchEnt s core row e

/-- The result of an atomic or reduction on one lane (R309). -/
def atomicNew (k : WKind) (ty : LTy) (old v cmp : Nat) : Nat :=
  let w := lWidth ty
  match ty with
  | .int t =>
    match k with
    | .aadd | .radd => (old + v) % 2 ^ w
    | .amin | .rmin => if ival t v < ival t old then v else old
    | .amax | .rmax => if ival t old < ival t v then v else old
    | .aand => old &&& v
    | .aor => old ||| v
    | .axor => old ^^^ v
    | .axch => v
    | .acas => if old = cmp then v else old
    | .store => v
  | .flt t =>
    let f := ffOf t
    let a := ffDecode f old
    let b := ffDecode f v
    match pickMM (k == .rmax) a b with
    | none => f.canon
    | some 0 => (fRound f .rne 0 a).1
    | some _ => (fRound f .rne 0 b).1

/-- One piece of a queue entry performs at its home: the state, and the bytes it found there. -/
def applyPiece (s : State) (e : WEnt) (p : Piece) : State × List Byte :=
  if e.kind = .store then (s.performPiece p, [])
  else
    let old := s.readBytes p.key p.pa p.n
    let s := s.chargeRead p.pa p.n
    (s.performPiece { p with data := leBytes p.n (atomicNew e.kind e.ty (leNat old) (leNat p.data) (leNat p.cmp)) }, old)

/-- R317: an atomic or reduction that finds a reserved tag at its home does not act: an atomic's reply carries the fault,
a reduction's entry raises it. -/
def eccAt (s : State) (core row : Nat) (e : WEnt) : State :=
  match e.req with
  | some id => s.modCore core fun c => { c with reqs := c.reqs.map fun r => if r.id = id then { r with ecc := true } else r }
  | none => raiseAt s e.lane (uPort row) e.entry .eccUncorr 0 .late

/-- Put the old bytes an atomic found into its request. -/
def State.setGot (s : State) (core id lane : Nat) (old : List Byte) : State :=
  s.modCore core fun c =>
    { c with reqs := c.reqs.map fun r =>
        if r.id = id then { r with pieces := r.pieces.map fun q => if q.lane = lane then { q with got := old, done := true } else q }
        else r }

/-- The reply of a request to another die is handed to the links: it was served by the end of the slot before this cycle
(R312). -/
def State.sendAnswer (s : State) (core id lane from_ n : Nat) : State :=
  (s.modCore core fun c => { c with reqs := c.reqs.map fun r => if r.id = id then { r with away := r.away + 1 } else r }).sendTrain lane
    from_ (core / 16) (flitsOf n) ((s.now - 1) / 120) (.answer core id)

/-- A reply has come: it may be delivered from cycle `t`. -/
def State.setReady (s : State) (core id t : Nat) : State :=
  s.modCore core fun c => { c with reqs := c.reqs.map fun r => if r.id = id then { r with ready := true, readyAt := t } else r }

/-- The record the home of an atomic keeps (R359): the last 64 of each source. -/
def State.recordTag (s : State) (a : Applied) : State :=
  let mine := s.applied.filter fun x => x.core == a.core && x.port == a.port
  let drop := if 64 ≤ mine.length then mine.head? else none
  { s with applied := (match drop with | some d => s.applied.erase d | none => s.applied) ++ [a] }

/-- The pieces of the head entry that `sel` picks perform; when all have, the entry is freed, its old value is there, or
on its way from another die, and the next entry is sent. -/
def performHead (s : State) (core row : Nat) (sel : Piece → Bool) : State :=
  match ((s.core core).port row).queue with
  | [] => s
  | e :: q =>
    if e.sent.isNone then s
    else
      let now_ := e.pieces.filter fun p => !p.done && sel p
      let s := if e.kind = .store then s.performPieces now_ else now_.foldl (fun s p =>
          if s.badTag p.pa p.n then eccAt s core row e
          else
          let (s, old) := applyPiece s e p
          match e.req, e.tag with
          | some id, some tag =>
            s.setGot core id p.lane old |>.recordTag { core, port := row, lane := p.lane, tag, old }
          | none, some tag => s.recordTag { core, port := row, lane := p.lane, tag, old }
          | _, none => s) s
      let e := { e with pieces := e.pieces.map fun p => if sel p then { p with done := true } else p }
      if e.pieces.all (·.done) then
        let s := s.modCore core fun c => c.setPort row { c.port row with queue := q }
        let s := match e.req, e.pieces.findSome? fun p => s.farDie (core / 16) p.pa with
          | some id, some d => s.sendAnswer core id e.lane d (e.pieces.foldl (fun a p => a + p.n) 0)
          | some id, none => s.setReady core id s.now
          | none, _ => s
        sendHead s core row
      else s.modCore core fun c => c.setPort row { c.port row with queue := e :: q }

/-- R310, R312: the head of a port's queue performs in its die's own buffer. -/
def execWritePerform (core port : Nat) (s : State) : Res :=
  .next (performHead s core port (fun p => match s.homeOf p.pa with | .buf d _ => d == core / 16 | _ => false))

/-- R359: an atomic or reduction not acknowledged 2 ticks after sending is sent again with its tag. -/
def execAtomicResend (core port : Nat) (s : State) : Res :=
  match ((s.core core).port port).queue with
  | e :: _ =>
    match e.sent with
    | some t =>
      if e.kind != .store && t + 240 ≤ s.now && e.pieces.any (fun p => !p.done) then
        .next (dispatchEnt (s.post (s.now + 240) (.atomicResend core port)) core port e)
      else .next s
    | none => .next s
  | [] => .next s

/-- Put an entry at the back of the queue of the port under way; alone, it is sent at once. -/
def enqueue (s : State) (row : Nat) (e : WEnt) : State :=
  let core := coreOf s.cur.lane
  let s := s.modCore core fun c => let p := c.port row; c.setPort row { p with queue := p.queue ++ [e] }
  sendHead s core row

/-! ## Stores -/

/-- The policy byte of an access. -/
def portPol (o : OpPort) (p : Piece) : Nat := if o.pdef then p.pol else o.pol

/-- A lane's stored bits and flags; none is FAULT. -/
def storeBits (o : OpPort) (p : Piece) (v : Val) : Option (Nat × Nat × Nat) :=
  let w := lWidth o.ty
  let prim := laneOfV w v.bits p.lane
  let tan := laneOfV w (v.plane p.plane) p.lane
  match pairFmt o.ty p.fmt with
  | .conv t =>
    if p.plane = 0 then (convertL t (portPol o p) o.rm 0 (lDecode o.ty prim)).map fun r => (r.1, r.2, 0)
    else let r := cvtTan t (portPol o p) o.rm 0 (lDecode o.ty prim) (lDecode o.ty tan); some (r.1, 0, r.2)
  | _ => some (if p.plane = 0 then prim else tan, 0, 0)

/-- R259: planes that a buffer without tangents drops. -/
def dropFlag (s : State) (o : OpPort) (x : Bnd) (v : Val) (on : List Nat) : Nat :=
  fIf (!x.f.diff && on.any fun j => tanNonzero s.myLane.width (lWidth o.ty) v j) tDROP

/-- Every piece of an access lies in the scratchpad. -/
def allSpad (s : State) (ps : List Piece) : Bool :=
  ps.all fun p => match s.homeOf p.pa with | .spad _ => true | _ => false

/-- R187, R395: the latency of a port access. -/
def portLatency (s : State) (ps : List Piece) : Nat := if allSpad s ps then 4 else 24

def portStore (s : State) (o : OpPort) (indexed : Bool) : Res :=
  let row := s.cur.unit - 64
  match portFront s o indexed .write with
  | .skip => .next s
  | .stop s => .next s
  | .unbound => .fault (.unbound s.cur.unit)
  | .go s' x ps _ on v =>
    match allSome (ps.map fun p => storeBits o p v) with
    | none => .next (raise s .convert)
    | some bs =>
      let ps' := ps.zipWith (fun p b => { p with data := leBytes p.n b.1 }) bs
      let (id, s') := s'.fresh
      let s' := s'.deliverAll s.cur.lane row ps
      let e : WEnt := { id, lane := s.cur.lane, bind := x.idx, kind := .store, ty := o.ty, rm := o.rm, scope := 0,
                        size := o.size, pieces := ps', entry := s.cur.idx, arr := s.now + 1 }
      let s' := noteWrote s' s.cur.lane x.f.id
      .next ((enqueue s' row e).orFlags s.cur.lane (fAll (bs.map (·.2.1))) (fAll (bs.map (·.2.2)) ||| dropFlag s o x v on))

/-- R308. -/
def execSt (o : OpPort) (s : State) : Res := portStore s o false
def execStg (o : OpPort) (s : State) : Res := portStore s o true

/-! ## Loads and their replies (R184, R308, R313, R316) -/

/-- The queued writes of the same port, older than a load, that cover one of its bytes; the youngest decides. -/
def forwardFor (q : List WEnt) (id pa : Nat) : Option (WEnt × Piece) :=
  (q.filter fun e => e.id < id).foldl (fun a e =>
    e.pieces.foldl (fun a p => if !p.done && p.pa ≤ pa && pa < p.pa + p.n then some (e, p) else a) a) none

/-- A load must wait for a queued atomic or reduction that covers one of its bytes. -/
def forwardWaits (q : List WEnt) (id : Nat) (p : Piece) : Bool :=
  (List.range p.n).any fun k => match forwardFor q id (p.pa + k) with | some (e, _) => e.kind != .store | none => false

/-- R333: a queued write of the port, older than a read, lies in the read's granule. -/
def ownDirty (q : List WEnt) (id : Nat) (p : Piece) : Bool :=
  p.map.isSome && q.any fun e => decide (e.id < id) && e.pieces.any fun x => !x.done && x.map == p.map

/-- The queue of the port that made a request. -/
def reqQueue (s : State) (core : Nat) (r : Req) : List WEnt := if r.unit < 8 then ((s.core core).port r.unit).queue else []

/-- A piece of a request waits for a queued atomic or reduction. -/
def pieceWaits (s : State) (core : Nat) (r : Req) (p : Piece) : Bool :=
  let q := reqQueue s core r
  forwardWaits q r.id (livePiece s (core / 16) (ownDirty q r.id p) p)

/-- A load's piece is served: its bytes, from the queue where a queued write covers them. -/
def servePiece (s : State) (core : Nat) (r : Req) (p : Piece) : State × Piece :=
  let die := core / 16
  let q := reqQueue s core r
  let p := livePiece s die (ownDirty q r.id p) p
  let byte (k : Nat) : Byte :=
    match forwardFor q r.id (p.pa + k) with
    | some (_, w) => (w.data[p.pa + k - w.pa]?).getD 0
    | none => s.viewByte die p.key (p.pa + k)
  let fwd := (List.range p.n).filterMap fun k => (forwardFor q r.id (p.pa + k)).map (·.1.id)
  let hits := s.stageHits die p.pa p.n
  let s := if fwd.isEmpty && hits.isEmpty then s
    else s.modLane r.lane fun l => { l with fwdWrites := (l.fwdWrites ++ fwd ++ hits).eraseDups }
  (s.chargeRead p.pa p.n, { p with got := (List.range p.n).map byte, done := true })

/-- Serve the pieces of a request that `sel` picks; the request is ready at `t` when all are served and no reply is on
the links. -/
def serveReq (s : State) (core : Nat) (r : Req) (sel : Piece → Bool) (t : Nat) : State :=
  let step (a : State × List Piece × Bool × Bool) (p : Piece) : State × List Piece × Bool × Bool :=
    let (s, ps, late, ecc) := a
    if p.done || !sel p then (s, ps ++ [p], late, ecc)
    else
      let ecc := ecc || s.badTag p.pa p.n
      let (lt, s) := s.lateRead p.pa p.n
      let (s, p) := servePiece s core r p
      (s, ps ++ [p], late || lt, ecc)
  let (s, ps, late, ecc) := r.pieces.foldl step (s, [], r.late, r.ecc)
  let far := (r.pieces.filter fun p => !p.done && sel p).filterMap fun p => (s.farDie (core / 16) p.pa).map fun d => (d, p.n)
  let dies := (far.map (·.1)).eraseDups
  let fin := ps.all (·.done) && dies.isEmpty && r.away == 0
  let s := s.modCore core fun c =>
    { c with reqs := c.reqs.map fun x =>
        if x.id = r.id then { x with pieces := ps, late, ecc, ready := fin, readyAt := if fin then max t x.readyAt else x.readyAt }
        else x }
  dies.foldl (fun s d =>
    s.sendAnswer core r.id r.lane d ((far.filter fun y => y.1 == d).foldl (fun a y => a + y.2) 0)) s

/-- The core that holds a request. -/
def State.findReq (s : State) (id : Nat) : Option (Nat × Req) :=
  s.cores.findSome? fun x => (x.2.reqs.find? fun r => r.id == id).map fun r => (x.1, r)

/-- A piece is due at its home now. -/
def dueNow (s : State) (p : Piece) : Bool := !p.done && !inSpad s p && (match p.due with | some t => decide (t ≤ s.now) | none => false)

/-- R184: memory outside the scratchpad serves what has come to it of a request; what the own die serves is the reply, and
another die's travels back (R312). -/
def execMemoryReply (id : Nat) (s : State) : Res :=
  match s.findReq id with
  | none => .next s
  | some (core, r) =>
    let due := r.pieces.filter (dueNow s)
    if due.isEmpty || r.atomic then .next s
    else if due.any fun p => s.asleep p.pa then .next (s.post (s.now + 120) (.memoryReply id))
    else if due.any (pieceWaits s core r) then .next (s.post (s.now + 1) (.memoryReply id))
    else .next (serveReq s core r (dueNow s) s.now)

/-- The channels of the DRAM pieces among some. -/
def channelsOf (s : State) (ps : List Piece) : List Nat :=
  (ps.filterMap fun p => match s.homeOf p.pa with | .dram _ => some (dramChannel s.liveCount p.pa) | _ => none).eraseDups

/-- A request goes to one home outside the scratchpad (R187, R312, R313, R316). -/
def askHome (s : State) (core : Nat) (r : Req) (home : Home) (ps : List Piece) : State :=
  let here (p : Piece) : Bool := s.homeOf p.pa == home
  match (ps.head?).bind fun p => s.farDie (core / 16) p.pa with
  | some d => s.sendTrain r.lane (core / 16) d 1 s.tick (.ask core r.id)
  | none =>
    match home with
    | .dram _ =>
      (channelsOf s ps).foldl (fun s ch =>
        let mine := ps.filter (s.onChannel ch)
        s.dramPost r.lane ch (mine.foldl (fun a p => a + s.readSlots p.pa p.n) 0) (.ask core r.id)) s
    | .ws _ g => s.reqDue core r.id (wsServe s g + 24) here
    | .host =>
      let (c, s) := s.free
      let s := s.sendTrain r.lane (core / 16) hostDie 1 s.tick .host
      let s := s.sendTrain r.lane hostDie (core / 16) (flitsOf (ps.foldl (fun (a : Nat) p => a + p.n) 0)) s.tick .host
      s.reqDue core r.id (s.now + 1 + Config.hostDelay c) here
    | .buf _ _ => s.reqDue core r.id (s.now + 24) here
    | _ => s.reqDue core r.id (s.now + 4) here

/-- Issue a request: scratchpad pieces reach their banks in the next cycle; the others go to their homes. -/
def issueReq (s : State) (core : Nat) (r : Req) : State :=
  let s := s.modCore core fun c => { c with reqs := c.reqs ++ [r] }
  (byHome s (r.pieces.filter fun p => !p.done && !inSpad s p)).foldl (fun s x => askHome s core r x.1 x.2) s

/-- A request as it is made anew. -/
def Req.fresh (r : Req) (now : Nat) : Req :=
  { r with ready := false, late := false, ecc := false, arr := now + 1, away := 0,
           pieces := r.pieces.map fun (p : Piece) => { p with done := false, got := [], due := none } }

/-! ## Messages on the links reach their destinations (R134, R135) -/

/-- A message is read at its destination: a write performs, a request is served, a reply is there. -/
def landTrain (s : State) (t : Train) : State :=
  match t.cargo with
  | .write flit => if s.flits.any fun f => f.id == flit then s.soon (.flitDelivery flit t.late) else s
  | .ask core id => (s.markDue core id s.now fun p => s.farDie (core / 16) p.pa == some t.dst).soon (.memoryReply id)
  | .answer core id =>
    let s := s.modCore core fun c => { c with reqs := c.reqs.map fun r =>
      if r.id = id then { r with away := r.away - 1, late := r.late || t.late } else r }
    match (s.core core).reqs.find? fun r => r.id == id with
    | some r => if r.away = 0 && (r.atomic || r.pieces.all (·.done)) then s.setReady core id (max s.now r.readyAt) else s
    | none => s
  | .host | .control => s

/-- R134, R135: the messages that can be read from this tick on, in posting order. One that needed more replays than R134
allows comes later, and is late. -/
def landTrains (s : State) : State :=
  if s.trains.isEmpty then s
  else
    let (due, rest) := s.trains.partition fun t => match t.due with | some k => decide (k ≤ s.tick) | none => false
    due.foldl (fun s t =>
      let (c, s) := s.free
      if !t.late && Config.flitLate c then
        { s with trains := s.trains ++ [{ t with late := true, due := some (s.tick + 1 + Config.lateTicks c) }] }
      else landTrain s t) { s with trains := rest }

def portLoad (s : State) (o : OpPort) (indexed : Bool) : Res :=
  let row := s.cur.unit - 64
  match portFront s o indexed .read with
  | .skip => .next s
  | .stop s => .next s
  | .unbound => .fault (.unbound s.cur.unit)
  | .go s' _ ps g _ _ =>
    let (id, s') := s'.fresh
    let r : Req := { id, lane := s.cur.lane, unit := row, entry := s.cur.idx, pieces := ps, ty := o.ty,
                     pol := if o.pdef then none else some o.pol, rm := o.rm, size := portBits o, mask := g.toNat,
                     arr := s.now + 1, prio := 1 + row, spad := allSpad s ps, indexed, hold := o.h.hold }
    .next (send (issueReq s' (coreOf s.cur.lane) r) (portLatency s ps) 0 0 (.port row id) o.h.hold)

/-- R308. -/
def execLd (o : OpPort) (s : State) : Res := portLoad s o false
def execLdg (o : OpPort) (s : State) : Res := portLoad s o true

/-! ## Presenting a reply (R300, R303) -/

/-- The value of one served piece in the lane type: bits, flags, tangent flags; none is FAULT. -/
def replyLane (r : Req) (ps : List Piece) (p : Piece) : Option (Nat × Nat × Nat) :=
  let v := leNat p.got
  match (if r.atomic then .raw else pairFmt r.ty p.fmt) with
  | .conv t =>
    let pol := r.pol.getD p.pol
    if p.plane = 0 then (convertL r.ty pol r.rm 0 (lDecode t v)).map fun x => (x.1, x.2, 0)
    else
      let prim := match ps.find? fun q => q.lane == p.lane && q.plane == 0 with
        | some q => leNat q.got
        | none => 0
      let x := cvtTan r.ty pol r.rm 0 (lDecode t prim) (lDecode t v)
      some (x.1, 0, x.2)
  | _ => some (v, 0, 0)

/-- The latch of a port tile after a reply: guarded lanes keep their contents, bits above the size are zero. -/
def replyLatch (old : Val) (r : Req) (vals : List (Piece × Nat × Nat × Nat)) : Val :=
  let w := lWidth r.ty
  let n := r.size / w
  let lane (p j : Nat) (keep : V128) : Nat :=
    match vals.find? fun x => x.1.plane == p && x.1.lane == j with
    | some x => x.2.1
    | none => if r.mask.testBit j then 0 else laneOfV w keep j
  let planes := (old.planes.map (·.1) ++ (vals.map (·.1.plane)).filter (· != 0)).eraseDups
  { bits := ofLanes w n fun j => lane 0 j old.bits,
    scaled := false,
    planes := planes.map fun p => (p, ofLanes w n fun j => lane p j (old.plane p)) }

/-- The reply of request `id` is presented at its result time: on port tile `row`, or to a fault raised after firing
(R303, R135, R317). -/
def presentReply (s : State) (lane unit entry row id : Nat) : State :=
  let core := coreOf lane
  match (s.core core).reqs.find? fun r => r.id == id with
  | none => s
  | some r =>
    let drop (s : State) : State := s.modCore core fun c => { c with reqs := c.reqs.filter fun x => x.id != id }
    if r.ecc then raiseAt (if r.atomic then drop s else s) lane unit entry .eccUncorr 0 .late
    else if r.late then raiseAt s lane unit entry .link 0 .late
    else
      match allSome (r.pieces.map fun p => (replyLane r r.pieces p).map fun x => (p, x)) with
      | none => raiseAt s lane unit entry .convert 0 .late
      | some vals =>
        let s := drop s
        let s := s.deliverAll lane row r.pieces
        let p := (s.core core).port row
        let s := s.modCore core fun c => c.setPort row { p with latch := { val := replyLatch p.latch.val r vals, fresh := true } }
        s.orFlags lane (fAll (vals.map (·.2.2.1))) (fAll (vals.map (·.2.2.2)))

/-! ## Atomics and reductions (R309, R357 to R361) -/

/-- The operand pieces of an atomic: lane values, and comparands for `acas`. -/
def operandPieces (o : OpPort) (v : Val) (cas : Bool) (ps : List Piece) : List Piece :=
  let w := lWidth o.ty
  ps.map fun p =>
    { p with data := leBytes p.n (laneOfV w v.bits p.lane),
             cmp := if cas then leBytes p.n (laneOfV w v.bits (portLanes o + p.lane)) else [] }

/-- R309, R357: an atomic takes a queue entry and returns the old value. -/
def portAtomic (s : State) (o : OpPort) (k : WKind) : Res :=
  let row := s.cur.unit - 64
  match portFront s o false .atomic with
  | .skip => .next s
  | .stop s => .next s
  | .unbound => .fault (.unbound s.cur.unit)
  | .go s' x ps g on v =>
    if ps.any fun p => match pairFmt o.ty p.fmt with | .raw => false | _ => true then .next (raise s .reservedCombo)
    else
      let (id, s') := s'.fresh
      let (rid, s') := s'.fresh
      let s' := s'.deliverAll s.cur.lane row ps
      let r : Req := { id := rid, lane := s.cur.lane, unit := row, entry := s.cur.idx, pieces := ps, ty := o.ty, pol := none,
                       rm := o.rm, size := portBits o, mask := g.toNat, arr := s.now + 1, prio := 1 + row, spad := allSpad s ps,
                       atomic := true, hold := o.h.hold }
      let e : WEnt := { id, lane := s.cur.lane, bind := x.idx, kind := k, ty := o.ty, rm := o.rm, scope := o.scope.code,
                        size := o.size, pieces := operandPieces o v (k == .acas) ps, entry := s.cur.idx, arr := s.now + 1,
                        req := some rid }
      let s' := s'.modCore (coreOf s.cur.lane) fun c => { c with reqs := c.reqs ++ [r] }
      .next (send (enqueue s' row e) (portLatency s ps) 0 (dropFlag s o x v on) (.port row rid) o.h.hold)

def execAadd (o : OpPort) (s : State) : Res := portAtomic s o .aadd
def execAmin (o : OpPort) (s : State) : Res := portAtomic s o .amin
def execAtomicMax (o : OpPort) (s : State) : Res := portAtomic s o .amax
def execAand (o : OpPort) (s : State) : Res := portAtomic s o .aand
def execAor (o : OpPort) (s : State) : Res := portAtomic s o .aor
def execAxor (o : OpPort) (s : State) : Res := portAtomic s o .axor
def execAxch (o : OpPort) (s : State) : Res := portAtomic s o .axch
def execAcas (o : OpPort) (s : State) : Res := portAtomic s o .acas

/-- R358: the youngest queue entry a reduction merges into: same operation, type, size, scope, binding and line. -/
def mergesWith (e : WEnt) (k : WKind) (o : OpPort) (bind : Nat) (ps : List Piece) : Bool :=
  e.sent.isNone && e.kind == k && e.ty == o.ty && e.size == o.size && e.scope == o.scope.code && e.bind == bind &&
    (match e.pieces, ps with | a :: _, b :: _ => a.va / 64 == b.va / 64 && a.pa / 64 == b.pa / 64 | _, _ => false)

/-- R358: merge lane by lane. -/
def mergePieces (k : WKind) (ty : LTy) (old new : List Piece) : List Piece :=
  let both := old.map fun a =>
    match new.find? fun b => b.va == a.va with
    | some b => { a with data := leBytes a.n (atomicNew k ty (leNat a.data) (leNat b.data) 0) }
    | none => a
  both ++ new.filter fun b => !old.any fun a => a.va == b.va

/-- Lines a reduction buffer holds (R361). -/
def partialLines (l : Lane) : List Nat := (l.partials.map fun p => p.pa / 64).eraseDups

/-- R358, R360, R361: a reduction. -/
def portReduce (s : State) (o : OpPort) (k : WKind) : Res :=
  let row := s.cur.unit - 64
  match portFront s o false .atomic with
  | .skip => .next s
  | .stop s => .next s
  | .unbound => .fault (.unbound s.cur.unit)
  | .go s' x ps _ on v =>
    if ps.any fun p => match pairFmt o.ty p.fmt with | .raw => false | _ => true then .next (raise s .reservedCombo)
    else
      let core := coreOf s.cur.lane
      let tf := dropFlag s o x v on
      let ops := operandPieces o v false ps
      let s' := s'.deliverAll s.cur.lane row ps
      match o.ty, k with
      | .flt t, .radd =>
        let add : List Partial := ops.map fun p =>
          { unit := s.cur.unit, entry := s.cur.idx, pa := p.pa, ty := t, rm := o.rm, bits := leNat p.data, key := p.key, ful := p.ful, scope := o.scope.code,
            workid := s.workOf s.cur.lane, fgroup := (s.myLane.rel.map (·.entry.fgroup)).getD 0 }
        let l := s'.lane s.cur.lane
        let l' := { l with partials := l.partials ++ add }
        if 64 < (partialLines l').length then .next (raise s .barrier)
        else .next ((s'.setLane s.cur.lane l').orFlags s.cur.lane 0 tf)
      | _, _ =>
        let q := ((s'.core core).port row).queue
        match q.getLast? with
        | some e =>
          if mergesWith e k o x.idx ops then
            let e' := { e with pieces := mergePieces k o.ty e.pieces ops }
            let s' := s'.modCore core fun c => c.setPort row { c.port row with queue := q.dropLast ++ [e'] }
            .next (s'.orFlags s.cur.lane 0 tf)
          else
            let (id, s') := s'.fresh
            .next ((enqueue s' row
              { id, lane := s.cur.lane, bind := x.idx, kind := k, ty := o.ty, rm := o.rm, scope := o.scope.code, size := o.size,
                pieces := ops, entry := s.cur.idx, arr := s.now + 1 }).orFlags s.cur.lane 0 tf)
        | none =>
          let (id, s') := s'.fresh
          .next ((enqueue s' row
            { id, lane := s.cur.lane, bind := x.idx, kind := k, ty := o.ty, rm := o.rm, scope := o.scope.code, size := o.size,
              pieces := ops, entry := s.cur.idx, arr := s.now + 1 }).orFlags s.cur.lane 0 tf)

def execRadd (o : OpPort) (s : State) : Res := portReduce s o .radd
def execRmin (o : OpPort) (s : State) : Res := portReduce s o .rmin
def execRmax (o : OpPort) (s : State) : Res := portReduce s o .rmax

/-! ## Page walks (R151, R152, R158) -/

/-- A port of a lane awaits the translation of an address that its lookahead met (R152). -/
def aheadWaits (s : State) (lane va : Nat) : Bool :=
  (List.range 8).any fun row => (s.core (coreOf lane)).ownedBy (uPort row) (slotOf lane) &&
    ((s.core (coreOf lane)).port row).ahead.any fun a => a.va == va

/-- A page walk completes: it marks the leaf, fills the TLB of every die on which a port of the work awaits it, and
ends the wait. -/
def execPageWalk (workid va : Nat) (store : Bool) (s : State) : Res :=
  let waits := s.lanes.filter fun x => s.workOf x.1 == workid && (x.2.xl.any (fun y => y.2.1 == va) || aheadWaits s x.1 va)
  .next (waits.foldl (fun s x =>
    let s := s.doWalk (dieOf x.1) workid va store
    s.modLane x.1 fun l => { l with xl := l.xl.map fun y => if y.2.1 == va then (y.1, va, s.now) else y }) s)

end Sys2Proof.Machine
end

