-- ==== Sys2Proof/Machine/Copy.lean ====
section
/-! DEFINITION. The copy engine (R320 to R328): descriptors, the checks at firing, the progress of the copy at the head
of the queue, its stops and faults, `drain`, and the writes that engines make (R328). -/

namespace Sys2Proof.Machine

/-! ## Descriptors (R320) -/

/-- The bytes of a descriptor, or none when it breaks R320. -/
def parseDesc (opc : Nat) (dop : Bool) (b : List Byte) : Option CopyDesc :=
  let n := leNat b
  let nd := fld n 128 8
  let dim (k : Nat) : Nat × Int × Int :=
    (fld n (256 + 96 * k) 32, toSigned 32 (fld n (288 + 96 * k) 32), toSigned 32 (fld n (320 + 96 * k) 32))
  let dims := (List.range nd).map dim
  let flags := fld n 144 8
  let ok := 1 ≤ nd && nd ≤ 8 && (List.range 8).all (fun k => k < nd || dim k == (0, 0, 0)) &&
    (match dims with | (_, a, c) :: _ => a == 0 && c == 0 | [] => true) && fld flags 4 4 == 0 && fld flags 1 3 < 5 &&
    fld n 160 96 == 0 && (if opc = 1 then (fmtOf (fld n 152 8)).isSome else fld n 152 8 == 0) &&
    (!dop || fld n 64 64 < 256)
  if ok then
    some { saddr := fld n 0 64, daddr := fld n 64 64, pol := fld n 136 8, pdef := flags.testBit 0, rm := fld flags 1 3,
           dfmt := fld n 152 8, dims }
  else none

def CopyDesc.c0 (d : CopyDesc) : Nat := match d.dims with | (c, _, _) :: _ => c | [] => 0
def CopyDesc.runs (d : CopyDesc) : Nat := (d.dims.drop 1).foldl (fun a x => a * x.1) 1
def CopyDesc.total (d : CopyDesc) : Nat := d.c0 * d.runs

/-- Source and destination offsets of run `r`: dimension 1 fastest. -/
def runOff : List (Nat × Int × Int) → Nat → Int × Int
  | [], _ => (0, 0)
  | (c, a, b) :: t, r =>
    let i := r % c
    let (x, y) := runOff t (r / c)
    (x + i * a, y + i * b)

/-- The least and greatest destination (`dst`) or source offset of any run's start. -/
def runSpan (dst : Bool) (dims : List (Nat × Int × Int)) : Int × Int :=
  (dims.drop 1).foldl (fun a x =>
    let st := if dst then x.2.2 else x.2.1
    let far := ((x.1 : Int) - 1) * st
    (a.1 + (if far < 0 then far else 0), a.2 + (if 0 < far then far else 0))) (0, 0)

/-- A rounding mode's meaning (R45). -/
def rmOf (n : Nat) : RMode := match n with | 0 => .rne | 1 => .rtz | 2 => .rup | 3 => .rdn | 4 => .rna | _ => .sr

/-! ## Engine accesses -/

/-- The binding an entry names, or the whole address space for 0xFF. -/
def copyBnd (s : State) (lane k : Nat) : Option Bnd :=
  if k = 0xFF then
    some { idx := 0xFF,
           b := { buf := 0xFFFF, img := 0xFFFF, tile := 0xFF, dir := 2, hwin := 0xFF, dramPk := 0, linkPk := 0 },
           f := { id := 0xFFFF, mode := 2, mem := 0, pubScope := 0, diff := false, strict := false, init := 0xFFFF,
                  size := 2 ^ 48, vaddr := 0 } }
  else s.engBnd lane k

/-- Split [va, va + n) at multiples of `g`; `fuel` bounds the pieces. -/
def splitBy (g : Nat) : Nat → Nat → Nat → List (Nat × Nat)
  | 0, _, _ => []
  | k + 1, va, n =>
    if n = 0 then [] else let m := min n (g - va % g); (va, m) :: splitBy g k (va + m) (n - m)

/-- Check and translate bytes [off, off + n) of plane `p` of a face for an engine, split by lines, and by granules where
each granule takes its own face or its own dirty bit (R333). -/
def engPieces (s : State) (lane : Nat) (ag : Agent) (x : Bnd) (wins : List Win) (acc : Acc3) (face : Nat × Option Nat)
    (p : Nat) (off : Int) (n : Nat) : Prep :=
  let w := (s.lane lane).width
  let base := x.f.vaddr + planeOff x.f w face.1 p
  match faceCheck x base off n 1 with
  | some (c, i) => .bad s c i
  | none =>
    let o := off.toNat
    let lines := (splitBy 128 (n / 128 + 2) (base + o) n).map fun y => (y.1 - base, y.2)
    let runs := if x.f.mode = 1 && (acc != .read || face.2.isSome) then lines.flatMap fun y => splitBy 64 4 y.1 y.2 else lines
    prepPieces lane ag x wins acc (.int .i64) w face (runs.map fun y => (0, p, y.1, y.2)) s

/-- Read pieces as an engine of a die sees them: the bytes, and whether a late flit or a reserved tag was met. -/
def engRead (s : State) (lane : Nat) (ps : List Piece) : State × List Byte × Bool × Bool :=
  ps.foldl (fun a p =>
    let (s, bs, late, ecc) := a
    let p := livePiece s (dieOf lane) false p
    let ecc := ecc || s.badTag p.pa p.n
    let (lt, s) := s.lateRead p.pa p.n
    let hits := s.stageHits (dieOf lane) p.pa p.n
    let s := if hits.isEmpty then s else s.modLane lane fun l => { l with fwdWrites := (l.fwdWrites ++ hits).eraseDups }
    (s.chargeRead p.pa p.n, bs ++ s.viewBytes (dieOf lane) p.key p.pa p.n, late || lt, ecc)) (s, [], false, false)

/-- Fill pieces with bytes in order. -/
def fillPieces : List Piece → List Byte → List Piece
  | [], _ => []
  | p :: r, bs => { p with data := bs.take p.n } :: fillPieces r (bs.drop p.n)

/-- The firing a write belongs to. -/
def Sender.num : Sender → Nat
  | .port _ _ e => e
  | .copy _ i | .epw _ i | .felt _ i => i
  | .step _ => 0

/-- The lines of 128 bytes that some pieces lie in, each with its pieces, in order of appearance; `fuel` bounds them. -/
def byLine : Nat → List Piece → List (List Piece)
  | 0, _ | _, [] => []
  | n + 1, p :: r => let (mine, rest) := r.partition fun q => q.pa / 128 == p.pa / 128; (p :: mine) :: byLine n rest

/-- R328: an engine's writes: scratchpad pieces through the banks with a priority, the others to their homes, one write for
each line. -/
def engWrite (s : State) (lane : Nat) (sender : Sender) (prio : Nat) (entry : Nat) (ps : List Piece) : State :=
  (byHome s ps).foldl (fun s x =>
    match x.1 with
    | .spad _ =>
      let (id, s) := s.fresh
      s.modCore (coreOf lane) fun c =>
        { c with reqs := c.reqs ++ [{ id, lane, unit := 240, entry, pieces := x.2, ty := .int .i64, pol := none, rm := .rne,
                                      size := 0, mask := 0, arr := s.now + 1, prio, spad := true, store := true, src := sender.num }] }
    | .ws _ _ => s.performPieces x.2
    | _ => (byLine x.2.length x.2).foldl (fun s ps => s.sendWrite lane sender ps) s) s

/-! ## Operand memory as a destination (R266, R268, R322) -/

/-- The operand slots a copy's destination touches, first and last. -/
def opmSpan (d : CopyDesc) (runLen : Nat) : Int × Int :=
  let (lo, hi) := runSpan true d.dims
  ((d.daddr : Int) + lo / 1536, (d.daddr : Int) + (hi + (runLen : Int) - 1) / 1536)

/-- Slots of a span. -/
def slotsOf (a : Int × Int) : List Nat := (List.range ((a.2 - a.1).toNat + 1)).map fun (k : Nat) => (a.1 + (k : Int)).toNat

/-- R278: the slots that steps `j` to `rep` - 1 of a row read: element slots, second B slot, aux slots. -/
def stepSlots (r : OpRow) (sparse : Bool) (m j : Nat) (auxA auxB : Bool) : List Nat × List Nat :=
  let at_ (b : Nat) (st : Int) : Nat := (((b : Int) + j * st) % (m : Int)).toNat
  ((at_ r.as r.astep :: (if auxA then [at_ r.ax r.astep] else [])),
   (at_ r.bs r.bstep :: (if sparse then [(at_ r.bs r.bstep + 1) % m] else []) ++ (if auxB then [at_ r.bx r.bstep] else [])))

/-- The format of an operand: named, or the slot's. -/
def operandFmt (c : Core) (f : Option Fmt) (slot : Nat) : Option Fmt := match f with | some x => some x | none => fmtOf (c.slot slot).sfmt

/-- R278: the reading set of an unretired row instance. -/
def readingSet (c : Core) (m : Nat) (r : RowInst) : List Nat :=
  (List.range (r.rep - r.done)).flatMap fun k =>
    let j := r.done + k
    let e := stepSlots r.row r.sparse m j true true
    let auxA := r.sparse || (match (e.1.head?).bind (operandFmt c r.row.afmt) with | some f => isBlock f | none => false)
    let auxB := match (e.2.head?).bind (operandFmt c r.row.bfmt) with | some f => isBlock f | none => false
    let x := stepSlots r.row r.sparse m j auxA auxB
    x.1 ++ x.2

/-- R268: a slot may be filled. -/
def fillable (c : Core) (m slot : Nat) : Bool :=
  match (c.slot slot).st with
  | .empty | .full => !c.rows.any fun r => r.active && (readingSet c m r).contains slot
  | _ => false

/-- Write bytes of operand memory at a byte offset from slot `first`, in plane `p`. -/
def opmWrite (c : Core) (m first p : Nat) : Int → List Byte → Core
  | _, [] => c
  | off, b :: bs =>
    let slot := ((first : Int) + off / 1536).toNat + p * m
    let k := (off % 1536).toNat
    let x := c.slot slot
    opmWrite (c.setSlot slot { x with bytes := tblSet 0 x.bytes k b }) m first p (off + 1) bs

/-- Set the state of slots. -/
def setSlots (c : Core) (st : SlotSt) (l : List Nat) : Core := l.foldl (fun c k => c.setSlot k { c.slot k with st }) c

/-! ## Firing (R320 to R323) -/

/-- Bytes of a copy's destination run. -/
def dstRun (op : Nat) (d : CopyDesc) : Nat :=
  if op = 1 then (match fmtOf d.dfmt with | some f => rowStride f d.c0 | none => 0) else d.c0

/-- R322: `copyc` accepts a pair of formats. -/
def copyPair (d : CopyDesc) (src : Attr) (dst : Option Attr) : Bool :=
  match fmtOf src.fmt, fmtOf d.dfmt with
  | some f, some g =>
    !comboBad src && (!isBlock f || d.c0 == 2 ^ (src.rowl + 5)) &&
      (!isBlock g ||
        match dst with
        | some a => a.scl == 1 && d.c0 == 2 ^ (a.rowl + 5) && !comboBad { a with fmt := d.dfmt }
        | none => false)
  | _, _ => false

/-- A physical address of a weight store's bank group. -/
def wsGroup (s : State) (pa : Nat) : Option Nat := match s.homeOf pa with | .ws _ g => some g | _ => none

/-- The physical address of a virtual one, without an access. -/
def State.paAt (s : State) (lane : Nat) (wins : List Win) (hwin va : Nat) : Option Nat :=
  if hwin != 0xFF then (wins[hwin]?).map fun w => winPa w va
  else
    match wins.find? fun w => winHit w va with
    | some w => some (winPa w va)
    | none =>
      match s.tlbSearch lane .copy (s.workOf lane) va false with
      | .hit _ e => some (fld e.leaf 12 40 * 4096 + (va - e.va))
      | .miss =>
        match s.walk (s.workOf lane) va with
        | .leaf w base _ _ => some (fld w 12 40 * 4096 + (va - base))
        | _ => none

/-- The physical address of a virtual one of a work, by windows or the page table alone. -/
def State.paOf (s : State) (workid : Nat) (wins : List Win) (hwin va : Nat) : Option Nat :=
  let w := if hwin != 0xFF then wins[hwin]? else wins.find? fun w => winHit w va
  match w, hwin with
  | some w, _ => some (winPa w va)
  | none, 0xFF =>
    match s.walk workid va with
    | .leaf l base _ _ => some (fld l 12 40 * 4096 + (va - base))
    | _ => none
  | none, _ => none

/-- R314: some bindings read a weight-store buffer with bytes in the group; `pa` translates. -/
def readsGroup (s : State) (bs : List Bnd) (group : Nat) (pa : Nat → Nat → Option Nat) : Bool :=
  bs.any fun x =>
    x.f.mem == 2 && (x.b.dir == 0 || x.b.dir == 2) &&
      (List.range ((2 * x.f.size - 1) / 4096 + 1)).any fun k => ((pa x.b.hwin (x.f.vaddr + 4096 * k)).bind (wsGroup s)) == some group

/-- R314: a block of the die between its start and its retirement, running or saved, has a reading binding on a
weight-store buffer with bytes in the group. -/
def wsRead (s : State) (die group : Nat) : Bool :=
  (s.lanes.any fun y =>
    let lane := y.1
    decide (dieOf lane = die) && y.2.rel.isSome && !y.2.retired &&
      readsGroup s (s.bnds lane) group (s.paAt lane (if y.2.cwin.isEmpty then y.2.hwin else y.2.cwin))) ||
    s.elastics.any fun x =>
      match x.saved, s.works.find? fun w => w.workid == x.entry.workid with
      | some v, some w =>
        decide (dieOf x.entry.lane = die) &&
          (match s.conts[w.cont]? with
          | some c => (match c.block x.rel.block with
            | some b => readsGroup s (bndsOf c b) group (s.paOf w.workid (if v.lane.cwin.isEmpty then v.lane.hwin else v.lane.cwin))
            | none => false)
          | none => false)
      | _, _ => false

/-- The kind of memory a destination lies in: 0 scratchpad, 1 operand memory, 2 outside the core, 3 weight store (R321). -/
def memKind (s : State) (pa : Nat) : Nat :=
  match s.homeOf pa with
  | .spad _ => 0
  | .ws _ _ => 3
  | _ => 2

/-- R320: read the descriptor that q register `dq` names, in the firing cycle. -/
def readDesc (s : State) (lane : Nat) (opc : Nat) (dop : Bool) (dq : Nat) : State × ((CopyDesc × Nat) ⊕ (Code × Nat) ⊕ Nat) :=
  let va := ((s.lane lane).getQ dq).toNat
  let held := ((s.core (coreOf lane)).srcXl, (s.core (coreOf lane)).dstXl)
  -- the copy at work keeps its own translations
  let keep (s : State) : State := s.modCore (coreOf lane) fun c => { c with srcXl := held.1, dstXl := held.2 }
  if va % 128 ≠ 0 then (s, .inr (.inl (.permission, va)))
  else
    match (s.modCore (coreOf lane) fun c => { c with srcXl := [], dstXl := [] }).translate lane .copy (s.lane lane).cwin 0xFF va 128 .read false with
    | (s, .fault c i) => (keep s, .inr (.inl (c, i)))
    | (s, .absent v) => (keep s, .inr (.inr v))
    | (s, .ok pa a _ _ _) =>
      let s := keep s
      match s.homeOf pa with
      | .spad _ =>
        match parseDesc opc dop (s.viewBytes (dieOf lane) a.key pa 128) with
        | some d => (s, .inl (d, pa))
        | none => (s, .inr (.inl (.reservedCombo, 0)))
      | _ => (s, .inr (.inl (.permission, va)))

/-- What stops a copy at its firing, or the slots it fills. -/
def copyCheck (s : State) (lane op : Nat) (d : CopyDesc) (src dst : Bnd) (dop : Bool) (sface dface : Nat) :
    (Code × Nat) ⊕ List Nat :=
  let l := s.lane lane
  let c := s.core (coreOf lane)
  let m := slotLimit l.width
  let sva := vaOf (src.f.vaddr + planeOff src.f l.width sface 0) (d.saddr : Int)
  let dva := vaOf (dst.f.vaddr + planeOff dst.f l.width dface 0) (d.daddr : Int)
  let sattr := s.attrAt lane .copy l.cwin src.b.hwin sva
  let dattr := if dop then none else s.attrAt lane .copy l.cwin dst.b.hwin dva
  let span := opmSpan d (dstRun op d)
  let kind := if dop then 1 else match s.paAt lane l.cwin dst.b.hwin dva with | some pa => memKind s pa | none => 2
  let ends := [(d.daddr : Int) + (runSpan true d.dims).1, (d.daddr : Int) + (runSpan true d.dims).2 + dstRun op d - 1]
  let groups := (ends.map fun e => s.paAt lane l.cwin dst.b.hwin (vaOf dst.f.vaddr e)).filterMap fun p => p.bind (wsGroup s)
  let gl := match groups with
    | [a, b] => (List.range 8).filter fun g => min a b ≤ g && g ≤ max a b
    | g => g
  if op = 3 then .inr []
  else if (op = 1 && match sattr with | some a => !copyPair d a dattr | none => false) then .inl (.reservedCombo, 0)
  else if op = 4 && kind ≠ 3 || op ≠ 4 && kind = 3 then .inl (.permission, dva)
  else if op = 4 && gl.any (wsRead s (dieOf lane)) then .inl (.weightWrite, 0)
  else if dop then
    let slots := slotsOf span
    if span.1 < 0 || (m : Int) ≤ span.2 then .inl (.slotClaim, 0)
    else if slots.all (fillable c m) then .inr slots
    else .inl (.slotClaim, 0)
  else .inr []

/-- R320 to R323: a data-moving entry fires. -/
def copyFire (s : State) (op : Nat) (o : OpCopy) (vq : Nat) : Res :=
  let lane := s.cur.lane
  let l := s.lane lane
  match copyBnd s lane o.sb, copyBnd s lane o.db with
  | some src, some dst =>
    match readDesc s lane op o.dop o.dq with
    | (_, .inr (.inl (c, i))) => .next (raise s c i)
    | (_, .inr (.inr va)) => .next (suspendPage s lane 0xFE va)
    | (s', .inl (d, dpa)) =>
      let sface := if src.f.mode = 2 then 0 else s.face (dieOf lane) (s.workOf lane) src.f.id
      let dface := s.shadow lane dst.f
      let (id, s') := s'.fresh
      -- the descriptor's two banks are taken in the next cycle, at the first priority
      let busy : Req := { id, lane, unit := 241, entry := s.cur.idx, pieces := [], ty := .int .i64, pol := none, rm := .rne,
                          size := dpa / 64 % 32, mask := 0, arr := s.now + 1, prio := 0, spad := true }
      let s' := s'.modCore (coreOf lane) fun c => { c with reqs := c.reqs ++ [busy] }
      let s' := noteFb s' lane src
      if d.total = 0 then .next s'
      else
        match copyCheck s' lane op d src dst o.dop sface dface with
        | .inl (c, i) => .next (raise s c i)
        | .inr slots =>
          let x : CopyOp := { id, lane, entry := s.cur.idx, op, sb := o.sb, db := o.db, dop := o.dop, desc := d,
                              vq := (l.getQ vq).toNat, wins := l.cwin, sface, dface,
                              st := .queued, outIdx := 0, chunk := 0, code := false, strictCode := false, next := s.now + 1 }
          let s' := s'.modCore (coreOf lane) fun c =>
            { setSlots c .filling slots with copies := c.copies ++ [x] }
          .next (if op = 3 || o.dop || o.db = 0xFF then s' else noteWrote s' lane dst.f.id)
  | _, _ => .fault (.unbound s.cur.unit)

def execCopy (o : OpCopy) (s : State) : Res := copyFire s 0 o 0
def execCopyc (o : OpCopy) (s : State) : Res := copyFire s 1 o 0
/-- A fill has no source. -/
def execFill (o : OpCopy) (vq : Nat) (s : State) : Res := copyFire s 2 { o with sb := 0xFF } vq
/-- A prefetch has no destination. -/
def execPrefetch (o : OpCopy) (s : State) : Res := copyFire s 3 { o with db := 0xFF } 0
def execWld (o : OpCopy) (s : State) : Res := copyFire s 4 { o with db := 0xFF } 0

/-- R324: a `drain` that fires does nothing more. -/
def execDrain (_h : EHdr) (_mem : Nat) (s : State) : Res := .next s

/-- The memory a copy writes (R321). -/
def copyMem (s : State) (x : CopyOp) : Nat :=
  if x.dop then 1 else if x.op = 4 then 3
  else match copyBnd s x.lane x.db with
    | none => 2
    | some b =>
      if x.db = 0xFF then match s.paAt x.lane x.wins 0xFF x.desc.daddr with | some pa => memKind s pa | none => 2
      else if b.f.mem = 0 then 0 else if b.f.mem = 2 then 3 else 2

/-- The memory of a binding's buffer. -/
def bndMem (s : State) (lane k : Nat) : Nat :=
  match s.engBnd lane k with
  | some b => if b.f.mem = 0 then 0 else if b.f.mem = 2 then 3 else 2
  | none => 2

/-- R324: a `drain` of memory `mem` waits. -/
def drainWaits (s : State) (core mem : Nat) : Bool :=
  let c := s.core core
  c.copies.any (fun x => x.op != 3 && x.st != .faulted && copyMem s x == mem) ||
    (mem == 2 && s.flits.any fun f => match f.sender with | .copy k _ | .epw k _ | .felt k _ => k == core | _ => false) ||
    (mem == 0 && c.reqs.any fun r => r.store && r.unit == 240) ||
    (List.range 4).any fun sl =>
      (s.lane (laneOf core sl)).flights.any fun f =>
        match f.land with
        | .epw b _ _ | .fxout b _ | .fpop b _ => bndMem s (laneOf core sl) b == mem
        | _ => false

/-! ## Progress of the copy at the head of the queue -/

/-- Elements whose destination ends on a byte: the unit of R325. -/
def outGroup (op : Nat) (d : CopyDesc) : Nat :=
  if op != 1 then 1
  else match fmtOf d.dfmt with
    | none => 1
    | some f => if isTri f then 5 else if fmtBits f = 6 then 4 else if fmtBits f < 8 then 8 / fmtBits f else 1

/-- R325: elements of a source chunk. -/
def chunkOf (op : Nat) (d : CopyDesc) (sf : Fmt) : Nat :=
  if op != 1 then 1
  else if isBlock sf then d.c0
  else if isTri sf then 5
  else if fmtBits sf = 6 then 4
  else if fmtBits sf < 8 then 8 / fmtBits sf
  else 1

/-- The source's attributes at an offset of its face, as they translate now. -/
def srcAttr (s : State) (x : CopyOp) (src : Bnd) (off : Int) : Attr :=
  let w := (s.lane x.lane).width
  (s.attrAt x.lane .copy x.wins src.b.hwin (vaOf (src.f.vaddr + planeOff src.f w x.sface 0) off)).getD {}

/-- Offsets of run `r` of a copy in its source and its destination (relative to slot DADDR in operand memory). -/
def CopyOp.runAt (x : CopyOp) (r : Nat) : Int × Int :=
  let (so, dof) := runOff (x.desc.dims.drop 1) r
  (x.desc.saddr + so, (if x.dop then 0 else (x.desc.daddr : Int)) + dof)

/-- The source's format in run `r`: bytes stand for themselves in all but `copyc`. -/
def srcFmt (s : State) (x : CopyOp) (src : Bnd) (r : Nat) : Option Fmt :=
  if x.op = 1 then fmtOf (srcAttr s x src (x.runAt r).1).fmt else some .int8

def dstFmt (x : CopyOp) : Option Fmt := if x.op = 1 then fmtOf x.desc.dfmt else some .int8

/-- Bytes [lo, hi) of a run that hold elements [i, i + n): whole rows of a block format. -/
def spanOf (f : Fmt) (c0 i n : Nat) : Nat × Nat :=
  if isBlock f then (0, rowBytes f c0)
  else if isTri f then (i / 5, (i + n + 4) / 5)
  else (i * fmtBits f / 8, ((i + n) * fmtBits f + 7) / 8)

/-- Elements from `i` on that end within `b` bytes of the byte `i` begins in. -/
def elemsIn (f : Fmt) (i b : Nat) : Nat :=
  if isTri f then b * 5 - i % 5 else (b * 8 - i * fmtBits f % 8) / fmtBits f

/-- Bytes from an address to where its translation may change: the end of its page, or of a window's 256-byte unit. -/
def roomAt (x : CopyOp) (va : Nat) : Nat := if x.wins.any Win.valid then 256 - va % 256 else 4096 - va % 4096

/-- The address of a byte of plane `p` of the source or the destination. -/
def srcVa (s : State) (x : CopyOp) (src : Bnd) (p : Nat) (off : Int) : Nat :=
  vaOf (src.f.vaddr + planeOff src.f (s.lane x.lane).width x.sface p) off
def dstVa (s : State) (x : CopyOp) (dst : Bnd) (p : Nat) (off : Int) : Nat :=
  vaOf (dst.f.vaddr + planeOff dst.f (s.lane x.lane).width x.dface p) off

/-- R323: how many outputs from `o` on move together: at most 256 bytes of the destination and of the source (128 from an
on-die buffer), within a run and within the pages of both ends, in units of R325. Block-format rows move whole. -/
def batchAt (s : State) (x : CopyOp) (src dst : Bnd) (o : Nat) : Nat :=
  let c0 := x.desc.c0
  let i := o % c0
  let left := c0 - i
  let (so, dof) := x.runAt (o / c0)
  match srcFmt s x src (o / c0), dstFmt x with
  | some sf, some df =>
    if isBlock sf || isBlock df then left
    else
      let sva := srcVa s x src 0 (so + (spanOf sf c0 i 1).1)
      let dva := dstVa s x dst 0 (dof + (spanOf df c0 i 1).1)
      let rate : Nat := match s.paAt x.lane x.wins src.b.hwin sva with
        | some pa => (match s.homeOf pa with | .buf _ _ => 128 | _ => 256)
        | none => 256
      let fromSrc := if x.op = 2 then 256 else elemsIn sf i (min rate (roomAt x sva))
      let intoDst := elemsIn df i (min 256 (if x.dop then 256 else roomAt x dva))
      let g := outGroup x.op x.desc
      min left (max g (min fromSrc intoDst / g * g))
  | _, _ => min left 1

/-! ### What outputs are made of -/

/-- What some outputs of a run are: bytes as (plane, offset in the destination's run, byte), the first output not made, the
flags, and whether an illegal code was decoded. -/
structure Made where
  bytes : List (Nat × Nat × Byte)
  upto : Nat
  bad : Bool := false
  nf : Nat := 0
  tf : Nat := 0

/-- R261: formats whose operand slots hold planes. -/
def holdsPlanes : Fmt → Bool
  | .fp32 | .fp19 | .bf16 | .fp16 => true
  | _ => false

/-- The planes a copy writes: tangents into a DIFF destination, or into operand memory (R259, R261). -/
def copyPlanes (x : CopyOp) (dst : Bnd) (w : Nat) (fmt : Nat) : List Nat :=
  if x.dop then (match fmtOf fmt with | some f => if holdsPlanes f then 0 :: planeNums w else [0] | none => [0])
  else planesFor dst w

/-- The bytes of one plane, from a byte offset of the run on. -/
def planeBytes (p off : Nat) (bs : List Byte) : List (Nat × Nat × Byte) :=
  (List.range bs.length).map fun k => (p, off + k, (bs[k]?).getD 0)

/-- Nonzero tangents that no plane of the destination takes (R259). -/
def lostFlag (x : CopyOp) (lost : Bool) : Nat := if x.dop then fIf lost tCUT else fIf lost tDROP

/-- R322, `fill`: byte `k` of a run is byte `k` mod 8 of the register; its companions are zero. -/
def makeFill (x : CopyOp) (pl : List Nat) (i n : Nat) : Made :=
  let v := leBytes 8 x.vq
  { bytes := pl.flatMap fun p => planeBytes p i ((List.range n).map fun k => if p = 0 then (v[(i + k) % 8]?).getD 0 else 0),
    upto := i + n }

/-- R322, `copy`: bytes unchanged, plane by plane. -/
def makeCopy (x : CopyOp) (pl : List Nat) (i n : Nat) (data : List (Nat × List Byte)) : Made :=
  let of (p : Nat) : List Byte := ((data.find? fun y => y.1 == p).map fun y => y.2.take n).getD (List.replicate n 0)
  { bytes := pl.flatMap fun p => planeBytes p i (of p), upto := i + n,
    tf := lostFlag x (data.any fun y => y.1 != 0 && !pl.contains y.1 && (y.2.take n).any (· != 0)) }

/-- R322, `copyc`: outputs `i` to `i` + `n` - 1 from the source bytes that begin at byte `lo` of the run. -/
def makeConv (x : CopyOp) (pol : Nat) (sf df : Fmt) (pl : List Nat) (i n lo : Nat) (data : List (Nat × List Byte)) : Made :=
  let c0 := x.desc.c0
  let rm := rmOf x.desc.rm
  let zero : XR := .fin false (Q.ofInt 0)
  let el (p k : Nat) : XR × Bool :=
    match data.find? fun y => y.1 == p with
    | some y => rowAt sf c0 (fun b => ((y.2[b - lo]?).getD 0).toNat) k
    | none => (zero, false)
  let g := outGroup x.op x.desc
  let idx (upto : Nat) : List Nat := (List.range (upto - i)).map (i + ·)
  -- the outputs before the first that faults, down to a unit's start
  let parts := if isBlock df then rowParts df pol rm (fmtMax sf) ((List.range c0).map fun k => (el 0 k).1) else []
  let single (k : Nat) : Option (Nat × Nat) := convertElem df pol rm 0 (el 0 k).1
  let stop : Option Nat := if isBlock df then (parts.find? fun y => y.2.isNone).map (·.1) else (idx (i + n)).find? fun k => (single k).isNone
  let upto := match stop with | some k => max i (min (i + n) (k / g * g)) | none => i + n
  let prim : List (Nat × Nat × Byte) × Nat :=
    if isBlock df then
      let xs := (List.range c0).map fun k => match stop with | some b => if b ≤ k then zero else (el 0 k).1 | none => (el 0 k).1
      let row := ((blockRow df pol rm (fmtMax sf) xs).map (·.1)).getD []
      ((planeBytes 0 0 (row.map fun b => BitVec.ofNat 8 b)).filter fun y => i ≤ rowOwner df c0 y.2.1 && rowOwner df c0 y.2.1 < upto,
       fAll (parts.filterMap fun y => if i ≤ y.1 && y.1 < upto then y.2 else none))
    else
      let cs := (idx upto).filterMap single
      (planeBytes 0 (spanOf df c0 i 1).1 ((packCodes df (cs.map (·.1))).map fun b => BitVec.ofNat 8 b), fAll (cs.map (·.2)))
  let tangents (p : Nat) : List (Nat × Nat × Byte) × Nat :=
    let cs : List (Nat × Nat) := (idx upto).map fun k =>
      match fmtLty df with
      | some t => cvtTan t pol rm 0 (el 0 k).1 (el p k).1
      | none => (((convertElem df 0xAA .rne 0 zero).map (·.1)).getD 0, fIf (!(el p k).1.isZero) tCUT)
    (planeBytes p (spanOf df c0 i 1).1 ((packCodes df (cs.map (·.1))).map fun b => BitVec.ofNat 8 b), fAll (cs.map (·.2)))
  let tans : List (List (Nat × Nat × Byte) × Nat) := (pl.filter (· != 0)).map tangents
  let bad := (idx upto).any fun k => (el 0 k).2
  let lost := data.any fun y => y.1 != 0 && !pl.contains y.1 && (idx upto).any fun k => !(el y.1 k).1.isZero
  { bytes := (if pl.contains 0 then prim.1 else []) ++ tans.flatMap (·.1), upto, bad,
    nf := prim.2 ||| fIf bad fCODE, tf := fAll (tans.map (·.2)) ||| lostFlag x lost }

/-- The outputs `i` to `i` + `n` - 1 of run `r`. -/
def make (s : State) (x : CopyOp) (src dst : Bnd) (r i n : Nat) (data : List (Nat × List Byte)) : Made :=
  let w := (s.lane x.lane).width
  let a := srcAttr s x src ((x.runAt r).1 + i)
  if x.op = 2 then makeFill x (if x.dop then [0] else planesFor dst w) i n
  else
    match srcFmt s x src r, dstFmt x with
    | some sf, some df =>
      let lo := (spanOf sf x.desc.c0 i n).1
      -- the policy of the page that holds these source bytes (R48)
      let here := srcAttr s x src ((x.runAt r).1 + lo)
      if x.op = 1 then makeConv x (if x.desc.pdef then here.pol else x.desc.pol) sf df (copyPlanes x dst w x.desc.dfmt) i n lo data
      else makeCopy x (copyPlanes x dst w a.fmt) i n data
    | _, _ => { bytes := [], upto := i }

/-- The element of the run that a destination byte belongs to. -/
def ownerOf (x : CopyOp) (off : Nat) : Nat :=
  match dstFmt x with
  | some f => rowOwner f x.desc.c0 off
  | none => off

/-! ### State of a copy -/

/-- Replace the copy at the head of the queue. -/
def setHead (s : State) (core : Nat) (x : CopyOp) : State :=
  s.modCore core fun c => { c with copies := match c.copies with | _ :: r => x :: r | [] => [] }

/-- COPY.PROG (R325). -/
def copyProg (x : CopyOp) (active stopped fault : Bool) : Nat :=
  x.outIdx * 2 ^ 16 + x.entry * 2 ^ 8 + fIf x.code 8 + fIf fault 4 + fIf stopped 2 + fIf active 1

/-- COPY.PROG, and the chunk that COPY.CHUNK shows. -/
def setProg (s : State) (core : Nat) (x : CopyOp) (active stopped fault : Bool) : State :=
  s.modCore core fun c => { c with prog := copyProg x active stopped fault, chunk := x.chunk }

/-- The operand slots a copy fills. -/
def copySlots (x : CopyOp) : List Nat := if x.dop then slotsOf (opmSpan x.desc (dstRun x.op x.desc)) else []

/-- R252, R325: the source element of the chunk that output `o` reads. -/
def chunkIdx (s : State) (x : CopyOp) (src : Bnd) (o : Nat) : Nat :=
  if x.op != 1 then o
  else
    let g := match srcFmt s x src (o / x.desc.c0) with | some f => chunkOf x.op x.desc f | none => 1
    o / x.desc.c0 * x.desc.c0 + o % x.desc.c0 / g * g

/-- The banks of the scratchpad that pieces need. -/
def banksOf (s : State) (ps : List Piece) : List Nat := (ps.filter (inSpad s)).map fun p => p.pa / 64 % 32

/-- R328: the lines of a copy that `sel` picks are handed over, one write for each. -/
def handOver (s : State) (x : CopyOp) (sel : List Piece → Bool) : State × CopyOp :=
  let (go, stay) := (byLine x.lines.length x.lines).partition sel
  (go.foldl (fun s ps => s.sendWrite x.lane (.copy (coreOf x.lane) x.id) ps) s, { x with lines := stay.flatten })

/-- A write of the copy has still to perform. -/
def copyWrites (s : State) (core : Nat) (x : CopyOp) : Bool :=
  !x.lines.isEmpty || s.flits.any (fun f => f.sender == .copy core x.id) ||
    (s.core core).reqs.any fun r => r.lane == x.lane && r.unit == 240 && r.src == x.id

/-- What the copy at the head of the queue has asked for and not used is dropped. -/
def dropLegs (s : State) (core : Nat) (x : CopyOp) : State × CopyOp :=
  (s.modCore core fun c => { c with reqs := c.reqs.filter (fun r => !x.legs.any fun y => y.2 == r.id), srcXl := [], dstXl := [] },
   { x with legs := [], rdIdx := x.outIdx, rdNext := 0, blocked := false, haltAt := none })

/-- A copy faults: it counts as done, and slots it was filling return to EMPTY (R266, R324); it keeps its place until
the fault is decided, for it may be retried (R373). -/
def copyFault (s : State) (core : Nat) (x : CopyOp) (c : Code) (info : Nat) : State :=
  let (s, x) := handOver s x fun _ => true
  let (s, x) := dropLegs s core x
  let s := setProg s core x false false true
  let s := s.modCore core fun k => { setSlots k .empty (copySlots x) with copies := { x with st := .faulted } :: k.copies.drop 1 }
  raiseAt s x.lane (uEng 2) x.entry c info .late

/-- R325: a copy stops at its next output; what it has made is written. -/
def copyStopAt (s : State) (core : Nat) (x : CopyOp) : State :=
  let (s, x) := handOver s x fun _ => true
  let (s, x) := dropLegs s core x
  let x := { x with st := .stopped }
  setProg (setHead s core x) core x true true false

/-- A copy that stops on an invalid page: its block is suspended (R157, R325). -/
def copyStopPage (s : State) (core : Nat) (x : CopyOp) (va : Nat) : State := suspendPage (copyStopAt s core x) x.lane 0xFE va

/-- R325: a stop for another reason leaves OUTIDX at any boundary from what is known to be written up to what was made. -/
def copyStopFree (s : State) (core : Nat) (x : CopyOp) (src : Bnd) : State :=
  let (k, s) := s.free
  let g := outGroup x.op x.desc
  let o := x.low + Config.copyStop k % (x.outIdx - x.low + 1)
  let o := if o = x.outIdx then o else max x.low (o / x.desc.c0 * x.desc.c0 + o % x.desc.c0 / g * g)
  copyStopAt s core { x with outIdx := o, chunk := chunkIdx s x src o }

/-! ### Reading ahead -/

/-- The face a copy's reads take (R333), and the live one besides. -/
def copyFace (x : CopyOp) (src : Bnd) : Nat × Option Nat :=
  if src.f.mode = 2 || src.b.dir = 0 then (x.sface, none)
  else if src.f.mode = 1 then (1 - x.sface, some x.sface) else (1 - x.sface, none)

/-- The pieces of a run of bytes in each of some planes. -/
def readPieces (x : CopyOp) (src : Bnd) (off : Int) (n : Nat) : List Nat → State → Prep
  | [], s => .ok s []
  | p :: r, s =>
    match engPieces s x.lane .copy src x.wins .read (copyFace x src) p off n with
    | .ok s a =>
      match readPieces x src off n r s with
      | .ok s b => .ok s (a ++ b)
      | e => e
    | e => e

/-- R151: the cycles that translations at some addresses add, the most of them; a walk has no stated bound. -/
def xlDelay (s : State) (x : CopyOp) (hwin : Nat) (store : Bool) (vas : List Nat) : Nat × State :=
  vas.foldl (fun a va =>
    match a.2.probe x.lane .copy x.wins hwin va store with
    | some n => (max a.1 n, a.2)
    | none => let (c, s) := a.2.free; (max a.1 (30 + Config.walkDelay c), s)) (0, s)

/-- The first and last bytes of a run in each plane. -/
def endsOf (va : Nat → Int → Nat) (pl : List Nat) (off : Int) (n : Nat) : List Nat :=
  pl.flatMap fun p => [va p off, va p (off + ((n : Int) - 1))]

/-- R153: only the translations of the pages just used are kept. -/
def keepXl (s : State) (core : Nat) (store : Bool) (ps : List Piece) : State :=
  let used (e : TlbEnt) : Bool := ps.any fun p =>
    [some p.va, p.alt.map fun _ => p.altV, p.map.map fun _ => p.mapV].any fun o =>
      match o with | some v => decide (e.va ≤ v) && decide (v < e.va + e.size) | none => false
  s.modCore core fun c => if store then { c with dstXl := c.dstXl.filter used } else { c with srcXl := c.srcXl.filter used }

/-- The planes of a source that a copy reads. -/
def readPlanes (s : State) (x : CopyOp) (src : Bnd) : List Nat := planesFor src (s.lane x.lane).width

/-- R153, R323: the copy asks for the source of its next outputs, once its pages are translated. An invalid page or a fault
counts when every output before has been made. -/
def copyAsk (s : State) (core : Nat) (x : CopyOp) (src dst : Bnd) : State :=
  if x.desc.total ≤ x.rdIdx || s.now < x.rdNext || x.blocked then s
  else
    let c0 := x.desc.c0
    let n := batchAt s x src dst x.rdIdx
    let go (s : State) (id : Nat) : State := setHead s core { x with rdIdx := x.rdIdx + n, legs := x.legs ++ [(n, id)] }
    if x.op = 2 then go s 0
    else
      match srcFmt s x src (x.rdIdx / c0) with
      | none => if x.legs.isEmpty then copyFault s core x .reservedCombo 0 else s
      | some sf =>
        let (lo, hi) := spanOf sf c0 (x.rdIdx % c0) n
        let off := (x.runAt (x.rdIdx / c0)).1 + lo
        let pl := readPlanes s x src
        let (wait_, s1) := xlDelay s x src.b.hwin false (endsOf (srcVa s x src) pl off (hi - lo))
        match readPieces x src off (hi - lo) pl s1 with
        | .bad s c i => if x.legs.isEmpty then copyFault s core x c i else s
        | .absent s va => if x.legs.isEmpty then copyStopPage s core x va else s
        | .ok s2 ps =>
          if wait_ != 0 then setHead s2 core { x with rdNext := s.now + wait_ }
          else
            let (id, s2) := (keepXl s2 core false ps).fresh
            let r : Req := { id, lane := x.lane, unit := 243, entry := x.entry, pieces := ps, ty := .int .i64, pol := none, rm := .rne,
                             size := 0, mask := 0, arr := s.now + 1, prio := 11, spad := ps.all (inSpad s2), src := x.id }
            go (issueReq s2 core r) id

/-! ### Writing -/

/-- Contiguous runs of bytes of one plane, in order. -/
def gather : List (Nat × Nat × Byte) → List (Nat × Nat × List Byte)
  | [] => []
  | y :: r =>
    match gather r with
    | (p, o, bs) :: t => if p = y.1 && o = y.2.1 + 1 then (p, y.2.1, y.2.2 :: bs) :: t else (y.1, y.2.1, [y.2.2]) :: (p, o, bs) :: t
    | [] => [(y.1, y.2.1, [y.2.2])]

/-- The same cut at line boundaries and at the end of the face, as (plane, offset in the run, bytes). -/
def cutLines (s : State) (x : CopyOp) (dst : Bnd) (dof : Int) (y : Nat × Nat × List Byte) : List (Nat × Nat × List Byte) :=
  let va := dstVa s x dst y.1 (dof + y.2.1)
  let pieces := (splitBy 128 (y.2.2.length / 128 + 2) va y.2.2.length).map fun z => (y.1, y.2.1 + (z.1 - va), (y.2.2.drop (z.1 - va)).take z.2)
  pieces.flatMap fun z =>
    let room := ((dst.f.size : Int) - (dof + z.2.1)).toNat
    if 0 < room && room < z.2.2.length then [(z.1, z.2.1, z.2.2.take room), (z.1, z.2.1 + room, z.2.2.drop room)] else [z]

/-- What keeps some bytes from their places: an absent page, or a fault. -/
inductive NoPlace
  | absent (va : Nat)
  | fault (c : Code) (info : Nat)

/-- The pieces of a destination's bytes, and the first output that finds no place. -/
structure Placed where
  s : State
  ps : List Piece := []
  stop : Option (Nat × NoPlace) := none

/-- The earlier of two outputs that stop a copy. -/
def Placed.meet (a : Placed) (s : State) (o : Nat) (w : NoPlace) : Placed :=
  { a with s, stop := match a.stop with | some (k, v) => if o < k then some (o, w) else some (k, v) | none => some (o, w) }

def place (s : State) (x : CopyOp) (dst : Bnd) (dof : Int) (bytes : List (Nat × Nat × Byte)) : Placed :=
  ((gather bytes).flatMap (cutLines s x dst dof)).foldl (fun a y =>
    match engPieces a.s x.lane .copy dst x.wins .write (x.dface, none) y.1 (dof + y.2.1) y.2.2.length with
    | .ok s ps => { a with s, ps := a.ps ++ fillPieces ps y.2.2 }
    | .bad s c i => a.meet s (ownerOf x y.2.1) (.fault c i)
    | .absent s va => a.meet s (ownerOf x y.2.1) (.absent va)) { s }

/-- R261, R266, R322: bytes into operand memory; each slot touched takes the source's format and STRICT mark, and TZ. -/
def fillSlots (s : State) (core : Nat) (x : CopyOp) (src : Bnd) (dof : Int) (a : Attr) (m : Made) : State × CopyOp :=
  let (k, s) := s.free
  let fmt := if x.op = 1 then x.desc.dfmt else if x.op = 2 then Config.freeBits k % 28 else a.fmt
  let strict := x.op != 2 && (a.strict || src.f.strict)
  let tz := x.op = 2 || !(src.f.diff && holdsPlanes ((fmtOf fmt).getD .int8))
  let w := (s.lane x.lane).width
  let slots := ((m.bytes.filter fun y => y.1 == 0).map fun y => (((x.desc.daddr : Int) + (dof + y.2.1) / 1536)).toNat).eraseDups
  (s.modCore core fun c =>
    let c := (gather m.bytes).foldl (fun (c : Core) y => opmWrite c (slotLimit w) x.desc.daddr y.1 (dof + y.2.1) y.2.2) c
    slots.foldl (fun c k =>
      let o := c.slot k
      let again := x.touched.contains k
      c.setSlot k { o with sfmt := fmt, strict := strict || (again && o.strict), tz := tz && (!again || o.tz) }) c,
   { x with touched := (x.touched ++ slots).eraseDups })

/-- R328: bytes outside the core: to a scratchpad through its banks, to a DRAM line when the line is complete, else to
their homes. -/
def putPieces (s : State) (core : Nat) (x : CopyOp) (ps : List Piece) : State × CopyOp :=
  let inDram (p : Piece) : Bool := match s.homeOf p.pa with | .dram _ => true | _ => false
  let (lines, rest) := ps.partition inDram
  (engWrite s x.lane (.copy core x.id) 11 x.entry rest, { x with lines := x.lines ++ lines })

/-- A later output of the copy writes to bytes [lo, lo + 128) of plane `p` of its destination; `x` has come to OUTIDX. -/
def touchesLater (s : State) (x : CopyOp) (dst : Bnd) (p lo : Nat) : Bool :=
  let c0 := x.desc.c0
  let len := dstRun x.op x.desc
  let from_ (r : Nat) : Nat :=
    if r != x.outIdx / c0 then 0
    else match dstFmt x with | some f => if isBlock f then 0 else (spanOf f c0 (x.outIdx % c0) 1).1 | none => 0
  (List.range (x.desc.runs - x.outIdx / c0)).any fun k =>
    let r := x.outIdx / c0 + k
    let base := (dst.f.vaddr + planeOff dst.f (s.lane x.lane).width x.dface p : Int) + (x.runAt r).2
    decide (base + from_ r < lo + 128) && decide ((lo : Int) < base + len)

/-- R328: all the bytes that a copy writes to a line are there. -/
def lineDone (s : State) (x : CopyOp) (dst : Bnd) (ps : List Piece) : Bool :=
  ((List.range 128).all fun k => ps.any fun p => p.pa % 128 ≤ k && k < p.pa % 128 + p.n) ||
    (match ps with | p :: _ => x.outIdx = x.desc.total || !touchesLater s x dst p.plane (p.va / 128 * 128) | [] => true)

/-- Outputs are written, with their flags (R322). -/
def commit (s : State) (core : Nat) (x : CopyOp) (src dst : Bnd) (dof : Int) (a : Attr) (m : Made) (ps : List Piece) : State × CopyOp :=
  let (s, x) := if x.dop then fillSlots s core x src dof a m else putPieces (keepXl s core true ps) core x ps
  let n := m.upto - x.outIdx % x.desc.c0
  let x := { x with outIdx := x.outIdx + n, code := x.code || m.bad, strictCode := x.strictCode || (m.bad && (a.strict || src.f.strict)),
                    next := s.now + max 1 ((m.bytes.length + 255) / 256) }
  let x := { x with chunk := chunkIdx s x src x.outIdx }
  let (s, x) := handOver (s.orFlags x.lane m.nf m.tf) x (lineDone s x dst)
  (setProg (setHead s core x) core x true false false, x)

/-- The outputs of the oldest leg are made and written, up to the first that faults or meets an invalid page. -/
def copyUse (s : State) (core : Nat) (x : CopyOp) (src dst : Bnd) (n : Nat) (data : List (Nat × List Byte)) : State :=
  let r := x.outIdx / x.desc.c0
  let i := x.outIdx % x.desc.c0
  let (so, dof) := x.runAt r
  let a := srcAttr s x src (so + match srcFmt s x src r with | some f => (spanOf f x.desc.c0 i n).1 | none => i)
  let m := make s x src dst r i n data
  let put (s : State) (m : Made) : Placed := if x.dop then { s } else place s x dst dof m.bytes
  let (wait_, s) : Nat × State := if x.dop then (0, s)
    else xlDelay s x dst.b.hwin true ((gather m.bytes).flatMap fun y => endsOf (dstVa s x dst) [y.1] (dof + y.2.1) y.2.2.length)
  let g := outGroup x.op x.desc
  let p := put s m
  let (m, p) := match p.stop with
    | some (k, _) => let m' := make p.s x src dst r i (max i (k / g * g) - i) data; (m', { put p.s m' with stop := p.stop })
    | none => (m, p)
  -- a page that is absent leaves no translation to wait for
  if wait_ != 0 && p.stop.isNone then setHead p.s core { x with next := s.now + wait_ }
  else if p.ps.any (·.wblk) then setHead p.s core { x with blocked := true }
  else
    let legs := match x.legs with | _ :: t => t | [] => []
    let (s, x) := if m.upto = i then (p.s, x) else commit p.s core { x with legs } src dst dof a m p.ps
    match p.stop with
    | some (_, .absent va) => copyStopPage s core x va
    | some (_, .fault c info) => copyFault s core x c info
    | none => if m.upto < i + n then copyFault s core x .convert 0 else s

/-- The oldest leg is used when its source bytes have come. -/
def copyTake (s : State) (core : Nat) (x : CopyOp) (src dst : Bnd) : State :=
  if s.now < x.next || x.blocked then s
  else
    match x.legs with
    | [] => s
    | (n, id) :: _ =>
      if id = 0 then copyUse s core x src dst n []
      else
        match (s.core core).reqs.find? fun r => r.id == id with
        | none => copyFault s core x .eccUncorr 0
        | some r =>
          if !(r.ready && r.readyAt ≤ s.now) then s
          else
            let data := (readPlanes s x src).map fun p => (p, (r.pieces.filter fun q => q.plane == p).flatMap (·.got))
            if r.ecc then copyFault s core x .eccUncorr 0
            else if r.late then copyFault s core x .link 0
            else
              let s' := copyUse s core x src dst n data
              -- the request is forgotten once its outputs are made
              match (s'.core core).copies with
              | y :: _ => if y.legs.any (fun z => z.2 == id) then s' else s'.modCore core fun c => { c with reqs := c.reqs.filter fun q => q.id != id }
              | [] => s'

/-- R153, R322: `prefetch`: every page of a run of the source is translated; elastic work asks for one that is invalid and
goes on. -/
def prefetchRun (s : State) (core : Nat) (x : CopyOp) (src : Bnd) : State :=
  let off := (x.runAt (x.outIdx / x.desc.c0)).1
  let base := src.f.vaddr + planeOff src.f (s.lane x.lane).width x.sface 0
  let out : State × Option (Code × Nat) := match faceCheck src base off x.desc.c0 1 with
    | some e => (s, some e)
    | none =>
      (splitBy 4096 (x.desc.c0 / 4096 + 2) (vaOf base off) x.desc.c0).foldl (fun a y =>
        match a with
        | (s, some e) => (s, some e)
        | (s, none) =>
          match s.translate x.lane .copy x.wins src.b.hwin y.1 1 .read (hostOk src) with
          | (s, .absent va) => (s.note 0x21 (dieOf x.lane) (coreOf x.lane % 16) 0xFE (s.workOf x.lane) 0 va 0 0, none)
          | (s, .fault c i) => (s, some (c, i))
          | (s, _) => (s, none)) (s, none)
  match out with
  | (s, some (c, i)) => copyFault s core x c i
  | (s, none) =>
    let x := { x with st := .running, outIdx := x.outIdx + x.desc.c0, next := s.now + 1 }
    setProg (setHead (s.modCore core fun c => { c with srcXl := [] }) core x) core x true false false

/-- One cycle of the copy engine of a core: the copy at the head of the queue uses what has come, asks for more, and is
done when its last write has performed (R323). -/
def copyCycle (s : State) (core : Nat) : State :=
  match (s.core core).copies with
  | [] => s
  | x :: _ =>
    match copyBnd s x.lane x.sb, copyBnd s x.lane x.db with
    | some src, some dst =>
      let x := if copyWrites s core x then x else { x with low := x.outIdx }
      if x.st = CopySt.stopped || x.st = CopySt.faulted then s
      else if (match x.haltAt with | some t => x.st == CopySt.queued || decide (t ≤ s.now) | none => false) then
        if x.st = CopySt.queued then s else copyStopFree s core x src
      else if x.outIdx = x.desc.total then
        if copyWrites s core x || s.now < x.next then s
        else setHead s core { x with next := s.now + 1 } |>.soon (.copyDone core)
      else if x.op = 3 then (if s.now < x.next then s else prefetchRun s core x src)
      else
        let s := if x.st = CopySt.queued then let y := { x with st := .running }; setProg (setHead s core y) core y true false false
          else setHead s core x
        let head (s : State) : Option CopyOp := ((s.core core).copies.head?).filter fun y => y.id == x.id && y.st == .running
        let s := match head s with | some y => copyTake s core y src dst | none => s
        match head s with
        | some y => copyAsk s core y src dst
        | none => s
    | _, _ => s

/-- R323: a copy is done: its slots are FULL, a strict illegal code is raised now (R40), and the next copy starts. -/
def execCopyDone (core : Nat) (s : State) : Res :=
  match (s.core core).copies with
  | [] => .next s
  | x :: r =>
    if x.outIdx = x.desc.total then
      let s := s.modCore core fun c => { setSlots c .full (copySlots x) with copies := r, srcXl := [], dstXl := [] }
      let s := setProg s core x false false false
      .next (if x.strictCode then raiseAt s x.lane (uEng 2) x.entry .illegalCode 0 .async else s)
    else .next s

/-- R313: a bank group of a weight store enters its refresh window; its calendar is read by `wsServe` and WS.CAL. -/
def execWeightStoreRefresh (die group : Nat) (s : State) : Res :=
  .next (s.post (s.now + 400 * 120) (.weightStoreRefresh die group))

end Sys2Proof.Machine
end

