-- ==== Sys2Proof/Machine/Matrix.lean ====
section
/-! DEFINITION. The matrix engine and the result ring (R266 to R280, R288) with their tangent passes (R261, R262). -/

namespace Sys2Proof.Machine

/-! ## The ring (R279, R280) -/

/-- What the ring will be once every action that has fired has landed: the head's mode, FULL with the pops that have
fired taken off, and FULL as the epilogue counts it (R286). -/
structure RingView where
  mode : TileMode
  full : Nat
  avail : Nat
  deriving DecidableEq, Repr

def modeOf : Acc → TileMode
  | .f32 => .f32
  | .w32 => .w32
  | .s32 => .s32

/-- The row instance with an identity. -/
def Core.inst (c : Core) (id : Nat) : Option RowInst := c.rows.find? fun r => r.id == id

/-- Pops that have fired and not landed. -/
def pendingPops (l : Lane) : Nat :=
  l.flights.foldl (fun a f => match f.land with | .pop n => a + n | .epw _ _ n => a + n | _ => a) 0

def ringView (c : Core) (l : Lane) : RingView :=
  let start : TileMode × Nat := ((c.tile c.head).mode, c.full)
  let r := l.flights.foldl (fun (a : TileMode × Nat) f =>
    match f.land with
    | .mmz acc => (modeOf acc, a.2)
    | .radv => (.unset, a.2 + 1)
    | .row id j =>
      match c.inst id with
      | some r =>
        let m := if j = 0 && r.row.z then modeOf r.row.acc else a.1
        if j + 1 = r.rep && r.row.adv then (.unset, a.2 + 1) else (m, a.2)
      | none => a
    | _ => a) start
  { mode := r.1, full := r.2 - pendingPops l, avail := c.full - pendingPops l }

/-- R280: the ring has room for an advance that fires now. -/
def ringRoom (c : Core) (l : Lane) : Bool := decide ((ringView c l).full < tileLimit l.width - 1)

/-- The physical tile of plane `p` of ring tile `t` (R261). -/
def planeTile (w t p : Nat) : Nat := t + p * tileLimit w

/-- Zero the head in a mode: all planes, guard bits cleared (R274, R280). -/
def ringZero (c : Core) (w : Nat) (mode : TileMode) (m n : Nat) : Core :=
  (0 :: planeNums w).foldl (fun c p => c.setTile (planeTile w c.head p) { mode, m, n, acc := [], gov := [] }) c

/-- R276: an accumulator of a saturating tile as it leaves the head, and whether it was clipped. -/
def satFinish (t : Tile) (k : Nat) (v : Int) : Int × Bool :=
  match tblGet 0 t.gov k with
  | 1 => (2 ^ 31 - 1, true)
  | 2 => (-(2 ^ 31), true)
  | _ => if v < -(2 ^ 31) then (-(2 ^ 31), true) else if 2 ^ 31 - 1 < v then (2 ^ 31 - 1, true) else (v, false)

/-- R279: an advance: the head is finished, FULL and HEAD move, the new head is unset. Returns whether SAT is set. -/
def ringAdvance (c : Core) (w : Nat) : Core × Bool :=
  let t := c.tile c.head
  let fin := t.acc.map fun y => (y.1, satFinish t y.1 y.2)
  let clipped := t.mode = .s32 && fin.any fun y => y.2.2
  let t' := if t.mode = .s32 then { t with acc := fin.map fun y => (y.1, y.2.1), gov := [] } else t
  let c := c.setTile c.head t'
  let h := (c.head + 1) % tileLimit w
  let c := { c with full := c.full + 1, head := h }
  (c.setTile h { c.tile h with mode := .unset }, clipped)

/-- An epilogue pop of `n` tiles. -/
def ringPop (c : Core) (w n : Nat) : Core := { c with full := c.full - n, tail := (c.tail + n) % tileLimit w }

def execMmz (_h : EHdr) (acc : Acc) (s : State) : Res := .next (send s 4 0 0 (.mmz acc))

def execRadv (_h : EHdr) (s : State) : Res :=
  let v := ringView s.myCore s.myLane
  if !ringRoom s.myCore s.myLane || v.mode = .unset then .next (raise s .ring) else .next (send s 4 0 0 .radv)

/-! ## Firing of a row (R271, R273, R274) -/

/-- R273, for formats that slots give. -/
def rowReserved (r : OpRow) (sparse : Bool) (a b : Option Fmt) : Bool :=
  match a, b with
  | some a, some b => reservedRow sparse a b r.acc r.k
  | _, _ => true

/-- The state of a slot. -/
def slotHeld (c : Core) (k : Nat) : Bool := match (c.slot k).st with | .free | .empty => false | _ => true

/-- The formats and slots of step `j` of a row. -/
structure StepSlots where
  fa : Option Fmt
  fb : Option Fmt
  a : List Nat
  b : List Nat
  deriving DecidableEq, Repr

def rowSlots (c : Core) (m : Nat) (r : OpRow) (sparse : Bool) (j : Nat) : StepSlots :=
  let e := stepSlots r sparse m j true true
  let fa := (e.1.head?).bind (operandFmt c r.afmt)
  let fb := (e.2.head?).bind (operandFmt c r.bfmt)
  let auxA := sparse || (match fa with | some f => isBlock f | none => false)
  let auxB := match fb with | some f => isBlock f | none => false
  let x := stepSlots r sparse m j auxA auxB
  { fa, fb, a := x.1, b := x.2 }

/-- R274, check (c): a step waits for a fill. -/
def rowFilling (c : Core) (x : StepSlots) : Bool := (x.a ++ x.b).any fun k => (c.slot k).st == .filling

/-- The operand slots a step reads in every plane: A, its aux, B, the second B, its aux. -/
def readStep (c : Core) (w m : Nat) (r : OpRow) (sparse : Bool) (j : Nat) : List OpSlot :=
  let e := stepSlots r sparse m j true true
  let g (l : List Nat) (k p : Nat) : OpSlot := match l[k]? with | some n => c.slot (n + p * m) | none => {}
  (0 :: planeNums w).flatMap fun p =>
    [g e.1 0 p, g e.1 1 p, g e.2 0 p, if sparse then g e.2 1 p else {}, g e.2 (if sparse then 2 else 1) p]

/-- R262: engine steps a row makes beyond the clock cycles of an interval. -/
def tangentHold (c : Core) (w ii : Nat) (r : OpRow) (sparse : Bool) (x : StepSlots) : Nat :=
  let z (l : List Nat) : Nat := if l.all fun k => (c.slot k).tz then 0 else 1
  if r.acc = .f32 then 1 + w * (z (x.a.take 1) + z (x.b.take (if sparse then 2 else 1))) - ii * stretch w else 0

/-- The instance an entry continues: the one with steps still to fire. -/
def currentInst (c : Core) (bank entry lane : Nat) : Option RowInst :=
  c.rows.find? fun r => r.bank == bank && r.entry == entry && r.lane == lane && r.active && decide (r.j < r.rep)

def putInst (c : Core) (r : RowInst) : Core :=
  { c with rows := if c.rows.any fun x => x.id == r.id then c.rows.map fun x => if x.id = r.id then r else x else c.rows ++ [r] }

/-- The instance of the row entry that fires, as this firing leaves it; the newest instance of an entry keeps its
progress register (R288). -/
def newInst (s : State) (fresh : Bool) (r : RowInst) : State :=
  let s := { s with nextId := s.nextId + 1 }
  s.modCore (coreOf s.cur.lane) fun c =>
    putInst (if fresh then { c with rows := c.rows.filter fun y => y.active || !(y.bank == r.bank && y.entry == r.entry) } else c) r

/-- R269 to R274: a row entry fires. -/
def rowFire (s : State) (o : OpRow) (sparse : Bool) : Res :=
  let c := s.myCore
  let l := s.myLane
  let w := l.width
  let m := slotLimit w
  let qrep := match o.repq with | some q => ((l.getQ q).toNat) | none => o.rep
  let rep := min 4096 qrep
  let sat := 4096 < qrep
  let (fresh, inst) := match currentInst c l.act s.cur.idx s.cur.lane with
    | some r => (false, r)
    | none => (true, { id := s.nextId, bank := l.act, entry := s.cur.idx, lane := s.cur.lane, row := o, sparse, rep, j := 0,
                       done := 0, active := true, code := false, strictCode := false, fault := false, everFault := false, reads := [] })
  if fresh && qrep = 0 then .next s
  else
    let j := inst.j
    let x := rowSlots c m o sparse j
    let v := ringView c l
    let lastStep := j + 1 = inst.rep
    let bad : Option Code :=
      if j = 0 && (o.afmt.isNone || o.bfmt.isNone) && rowReserved o sparse x.fa x.fb then some .reservedCombo
      else if !(x.a ++ x.b).all (slotHeld c) || rowFilling c x then some .slotClaim
      else if !(j = 0 && o.z) && v.mode != modeOf o.acc then some .ring
      else if lastStep && o.adv && !ringRoom c l then some .ring
      else none
    match bad with
    | some code =>
      -- nothing of the step is done; but the instance is unretired from its first firing (R278), unless its row may
      -- not start at all (R273)
      .next (raise (newInst s fresh { inst with active := code != .reservedCombo, fault := true, everFault := true }) code)
    | none =>
      let r := { inst with j := j + 1, fault := false, reads := inst.reads ++ [(j, readStep c w m o sparse j)] }
      let s := newInst s fresh r
      let s := s.modLane s.cur.lane fun l => { l with mxHold := l.mxHold + tangentHold c w l.hdr.ii o sparse x }
      .next (send s 4 (fIf (fresh && sat) fSAT) 0 (.row r.id j))

def execMm (o : OpRow) (s : State) : Res := rowFire s o false
def execMms (o : OpRow) (s : State) : Res := rowFire s o true

/-! ## One step's arithmetic (R54, R271, R272, R275, R276) -/

/-- Byte `k` of slot row `i`. -/
def slotByte (x : OpSlot) (i k : Nat) : Nat := (tblGet 0 x.bytes (i * 96 + k)).toNat

/-- Bytes of a scale entry in an aux slot: a QN4 entry carries its superblock scale (R271). -/
def auxBytes (f : Fmt) : Nat := if f = .qn4 then 5 else scaleBytes f

/-- The exact value of element `p` of slot row `i`, and whether its byte is illegal. `e` is the element within the slot
row (it differs from `p` in `mms`), `j` and `kk` the step and its K. -/
def operandAt (f : Fmt) (x aux : OpSlot) (i p e j kk : Nat) : XR × Bool :=
  let v := elemAt f (slotByte x i) e
  if isBlock f then
    let blk := if blockSize f = 0 then 0 else (j * kk + p) / blockSize f - j * kk / blockSize f
    let off := blk * auxBytes f
    let c := natAt (slotByte aux i) off (scaleBytes f)
    let sup := if f = .qn4 then natAt (slotByte aux i) (off + 1) 4 else 0
    (scaled f v.1 (scaleVal f c sup) (c == 0), v.2)
  else v

/-- R272: the two positions a group of four keeps, in slot row `i` of the metadata, or none when illegal. -/
def sparseGroup (aux : OpSlot) (i g : Nat) : Option (Nat × Nat) :=
  let p0 := bytesBits (slotByte aux i) (4 * g) 2
  let p1 := bytesBits (slotByte aux i) (4 * g + 2) 2
  if p0 < p1 then some (p0, p1) else none

/-- The value of A at position `p` of row `i`: none where it is pruned; and whether its code is illegal. -/
def aAt (r : RowInst) (f : Fmt) (x aux : OpSlot) (i p j : Nat) : Option XR × Bool :=
  if r.sparse then
    let g := p / 4
    match sparseGroup aux i g with
    | none => (none, true)
    | some (p0, p1) =>
      if p % 4 = p0 then let v := elemAt f (slotByte x i) (2 * g); (some v.1, v.2)
      else if p % 4 = p1 then let v := elemAt f (slotByte x i) (2 * g + 1); (some v.1, v.2)
      else (none, false)
  else let v := operandAt f x aux i p p j r.row.k; (some v.1, v.2)

/-- Position `p` of a step takes B from its second slot (R271). -/
def secondB (r : RowInst) (p : Nat) : Bool := r.sparse && r.row.k / 2 ≤ p

/-- The value of B at position `p` of column `k`. -/
def bAt (r : RowInst) (f : Fmt) (x x2 aux : OpSlot) (k p j : Nat) : XR × Bool :=
  if secondB r p then operandAt f x2 aux k p (p - r.row.k / 2) j r.row.k else operandAt f x aux k p p j r.row.k

/-- The five operand slots of plane `p` of a step. -/
def planeSlots (l : List OpSlot) (p : Nat) : List OpSlot := (l.drop (5 * p)).take 5
def nth5 (l : List OpSlot) (k : Nat) : OpSlot := (l[k]?).getD {}

/-- The factors of one output in one step, pruned positions left out: position, A's value and B's. -/
def factors (r : RowInst) (fa fb : Fmt) (pa pb : List OpSlot) (i k j : Nat) : List (Nat × XR × XR) :=
  (List.range r.row.k).filterMap fun p =>
    match (aAt r fa (nth5 pa 0) (nth5 pa 1) i p j).1 with
    | some a => some (p, a, (bAt r fb (nth5 pb 2) (nth5 pb 3) (nth5 pb 4) k p j).1)
    | none => none

/-- Their products. -/
def products (r : RowInst) (fa fb : Fmt) (pa pb : List OpSlot) (i k j : Nat) : List (XR × Bool) :=
  (factors r fa fb pa pb i k j).map fun x => x.2.1.mul x.2.2

/-- The operand slots of a step in which an illegal value stands (R277), by their places in `readStep`: A, or the
metadata of A in `mms`; the first B slot; the second. -/
def illegalIn (r : RowInst) (fa fb : Fmt) (l : List OpSlot) (j : Nat) : List Nat :=
  let ks := List.range r.row.k
  let badB (second : Bool) : Bool := (List.range r.row.n).any fun k => ks.any fun p =>
    secondB r p == second && (bAt r fb (nth5 l 2) (nth5 l 3) (nth5 l 4) k p j).2
  (if (List.range r.row.m).any fun i => ks.any fun p => (aAt r fa (nth5 l 0) (nth5 l 1) i p j).2
    then [if r.sparse then 1 else 0] else []) ++
  (if badB false then [2] else []) ++ (if badB true then [3] else [])

/-- R54: one FP32 accumulator update: the word and its flags. -/
def accFloat (rm : RMode) (acc : Nat) (ts : List (XR × Bool)) : Nat × Nat :=
  sumOf ffFP32 rm 0 ((ffDecode ffFP32 acc, false) :: ts)

/-- The integer of an exact integer value. -/
def xInt (x : XR) : Int := x.val.floor

/-- R276: one integer accumulator update: value and guard mark. -/
def accInt (sat : Bool) (acc : Int) (gov : Nat) (sum : Int) : Int × Nat :=
  if sat then
    let v := acc + sum
    let gov := if gov = 0 && 2 ^ 39 ≤ v.natAbs then (if 0 ≤ v then 1 else 2) else gov
    (if gov = 1 then 2 ^ 39 - 1 else if gov = 2 then -(2 ^ 39 - 1) else v, gov)
  else (toSigned 32 (ofSigned 32 (acc + sum)), 0)

/-- One step's update of the primal head tile: the tile and the flags. -/
def stepTile (r : RowInst) (fa fb : Fmt) (l : List OpSlot) (j : Nat) (t : Tile) : Tile × Nat :=
  let pl := planeSlots l 0
  (List.range (r.row.m * r.row.n)).foldl (fun (a : Tile × Nat) q =>
    let i := q / r.row.n
    let k := q % r.row.n
    let key := i * 16 + k
    let ts := products r fa fb pl pl i k j
    let old := tblGet 0 a.1.acc key
    if r.row.acc = .f32 then
      let v := accFloat r.row.rm old.toNat ts
      ({ a.1 with acc := tblSet 0 a.1.acc key (v.1 : Int) }, a.2 ||| v.2)
    else
      let v := accInt (r.row.acc = .s32) old (tblGet 0 a.1.gov key) (ts.foldl (fun b x => b + xInt x.1) 0)
      ({ a.1 with acc := tblSet 0 a.1.acc key v.1, gov := tblSet 0 a.1.gov key v.2 }, a.2)) (t, 0)

/-- The operand slots of a tangent plane: elements of the plane, with the primal's metadata (R262, R271). -/
def tangentSlots (prim tan : List OpSlot) : List OpSlot := [nth5 tan 0, nth5 prim 1, nth5 tan 2, nth5 tan 3, nth5 prim 4]

/-- R262: one step's update of the tangent tile of plane `p`; a term whose operand slot has TZ = 1 is omitted. -/
def stepTangent (r : RowInst) (fa fb : Fmt) (l : List OpSlot) (j p : Nat) (t : Tile) : Tile × Nat :=
  let prim := planeSlots l 0
  let tan := tangentSlots prim (planeSlots l p)
  let zA := (nth5 prim 0).tz
  let zB (p : Nat) : Bool := (nth5 prim (if secondB r p then 3 else 2)).tz
  (List.range (r.row.m * r.row.n)).foldl (fun (a : Tile × Nat) q =>
    let i := q / r.row.n
    let k := q % r.row.n
    let key := i * 16 + k
    let fs := (if zA then [] else factors r fa fb tan prim i k j) ++
      (factors r fa fb prim tan i k j).filter fun x => !zB x.1
    let acc := ffDecode ffFP32 (tblGet 0 a.1.acc key).toNat
    let nanIn := acc.isNan || (factors r fa fb prim prim i k j ++ fs).any fun x => x.2.1.isNan || x.2.2.isNan
    let v := tRound ffFP32 nanIn (XR.sum false (acc :: fs.map fun x => (x.2.1.mul x.2.2).1)).1
    ({ a.1 with acc := tblSet 0 a.1.acc key (v.1 : Int) }, a.2 ||| v.2)) (t, 0)

/-! ## Landing of a step and retirement of a row (R274, R277, R278) -/

/-- R278: the slots that a last-read mark frees: those read for A or B that no other unretired row still reads. -/
def freeMarks (c : Core) (m : Nat) (r : RowInst) : Core :=
  let steps := (List.range r.rep).map fun j => rowSlots c m r.row r.sparse j
  let want := (if r.row.lra then steps.flatMap (·.a) else []) ++ (if r.row.lrb then steps.flatMap (·.b) else [])
  let busy := (c.rows.filter fun x => x.active && x.id != r.id).flatMap (readingSet c m)
  setSlots c .free (want.eraseDups.filter fun k => !busy.contains k)

/-- R274: a step lands: the head is zeroed where the row says so, updated, and on the last step the instance retires. -/
def landStep (s : State) (core id j : Nat) : State :=
  let c := s.core core
  match c.inst id with
  | none => s
  | some r =>
    let l := s.lane r.lane
    let w := l.width
    let m := slotLimit w
    let slots := tblGet [] r.reads j
    let fmt (f : Option Fmt) (k : Nat) : Fmt := (match f with | some x => some x | none => fmtOf (nth5 slots k).sfmt).getD .fp32
    let fa := fmt r.row.afmt 0
    let fb := fmt r.row.bfmt 2
    let c := if j = 0 && r.row.z then ringZero c w (modeOf r.row.acc) r.row.m r.row.n else c
    let u := stepTile r fa fb slots j { c.tile c.head with m := r.row.m, n := r.row.n }
    let ill := illegalIn r fa fb (planeSlots slots 0) j
    let c := c.setTile c.head u.1
    let tn := if r.row.acc = .f32 then
        (planeNums w).foldl (fun (a : Core × Nat) p =>
          let k := planeTile w a.1.head p
          let v := stepTangent r fa fb slots j p { a.1.tile k with m := r.row.m, n := r.row.n }
          (a.1.setTile k v.1, a.2 ||| v.2)) (c, 0)
      else (c, 0)
    let c := tn.1
    let bad := !ill.isEmpty
    let strict := ill.any fun k => (nth5 slots k).strict
    let r := { r with done := j + 1, code := r.code || bad, strictCode := r.strictCode || strict, reads := tblDel r.reads j }
    let lastStep := j + 1 = r.rep
    let (c, sat) := if lastStep && r.row.adv then ringAdvance c w else (c, false)
    let r := { r with active := !lastStep }
    let c := putInst c r
    let c := if lastStep && !r.everFault && !r.strictCode then freeMarks c m r else c
    let s := (s.setCore core c).orFlags r.lane (u.2 ||| fIf bad fCODE ||| fIf sat fSAT) tn.2
    if lastStep && r.strictCode then raiseAt s r.lane (uEng 0) r.entry .illegalCode 0 .async else s

/-- A step whose result time has come lands. -/
def execMatrixStepLand (core : Nat) (s : State) : Res :=
  match (s.core core).landing with
  | [] => .next s
  | (id, j) :: r => .next (landStep (s.modCore core fun c => { c with landing := r }) core id j)

/-- MX.PROG[n] (R288): the newest instance of the n-th row entry of the active bank's pattern, in stamp order. -/
def mxProg (c : Core) (bank : Nat) (entries : List Nat) (n : Nat) : Nat :=
  match entries[n]? with
  | none => 0
  | some e =>
    match (c.rows.filter fun r => r.bank == bank && r.entry == e).getLast? with
    | none => 0
    | some r => e * 2 ^ 56 + r.done % 4096 * 2 ^ 44 + (r.rep - 1) * 2 ^ 32 + fIf r.code 4 + fIf r.fault 2 + fIf r.active 1

end Sys2Proof.Machine
end

