-- ==== Sys2Proof/Machine/Epilogue.lean ====
section
/-! DEFINITION. The epilogue engine (R281 to R287) with its tangent chain (R263). -/

namespace Sys2Proof.Machine

/-- The configuration in force: RAW until an `epc` (R281). -/
def epCfg (c : Core) : EpCfg :=
  c.epc.getD { ofmt := .fp32, raw := true, rm := .rne, act := 0, scm := 0, bim := 0, otag := false, scale := 0x3F800000, pol := 0 }

/-- The scale of accumulator (i, k) (R281, R283). -/
def epScale (c : Core) (g : EpCfg) (i k : Nat) : XR :=
  match g.scm with
  | 1 => ffDecode ffFP32 g.scale
  | 2 => ffDecode ffFP32 ((c.scale[i]?).getD 0x3F800000)
  | 3 => ffDecode ffFP32 ((c.scale[k]?).getD 0x3F800000)
  | _ => xOne

/-- The bias, or its tangent in plane `p`. -/
def epBias (c : Core) (g : EpCfg) (i k p : Nat) : XR :=
  let v := if p = 0 then c.bias else tblGet [] c.biasT p
  match g.bim with
  | 1 => ffDecode ffFP32 ((v[i]?).getD 0)
  | 2 => ffDecode ffFP32 ((v[k]?).getD 0)
  | _ => .fin false (Q.ofInt 0)

/-- The function of an activation code. -/
def actFn : Nat → Option Fn
  | 2 => some .tanh
  | 3 => some .sig
  | 4 => some .gelu
  | 5 => some .exp2
  | _ => none

/-- The exact value of an accumulator. -/
def accVal (t : Tile) (i k : Nat) : XR :=
  let v := tblGet 0 t.acc (i * 16 + k)
  if t.mode = .f32 then ffDecode ffFP32 v.toNat else XR.ofInt v

/-- The 32 bits of an accumulator. -/
def accBits (t : Tile) (i k : Nat) : Nat := ofSigned 32 (tblGet 0 t.acc (i * 16 + k))

/-- R283: the value before conversion, and the flags of the stages before it. -/
def epValue (g : EpCfg) (x s b : XR) : XR × Nat :=
  let xs := x.mul s
  let y := XR.sum (g.rm == .rdn) [xs.1, b]
  let inv := nvIf (xs.2 || y.2)
  if g.act = 0 then (y.1, inv)
  else
    let r := fRound ffFP32 g.rm 0 y.1
    let yv := ffDecode ffFP32 r.1
    match actFn g.act with
    | some f => let z := fnLane f .f32 g.rm 0 yv; (ffDecode ffFP32 z.1, r.2 ||| inv ||| z.2)
    | none =>
      -- relu
      match yv with
      | .nan => (.nan, r.2 ||| inv)
      | .inf n => (if n then .fin false (Q.ofInt 0) else .inf false, r.2 ||| inv)
      | .fin n m => (if n || m.isZero then .fin false (Q.ofInt 0) else .fin false m, r.2 ||| inv)

/-- R263: the tangent before conversion: the scale as `fmul`, the bias as `fadd`, the activation as `fn.`. -/
def epTangent (g : EpCfg) (x s b t tb : XR) : XR × Nat :=
  let t1 := tLin ffFP32 (anyNan [x, s] [t]) [(s, t)]
  let v1 := ffDecode ffFP32 t1.1
  let t2 := tLin ffFP32 (anyNan [x, s, b] [v1, tb]) [(xOne, v1), (xOne, tb)]
  let v2 := ffDecode ffFP32 t2.1
  if g.act = 0 then (v2, t1.2 ||| t2.2)
  else
    let y := ffDecode ffFP32 (fRound ffFP32 g.rm 0 (XR.sum (g.rm == .rdn) [(x.mul s).1, b]).1).1
    match actFn g.act with
    | some f => let r := fnTan f .f32 y v2; (ffDecode ffFP32 r.1, t1.2 ||| t2.2 ||| r.2)
    | none =>
      match y with
      | .nan => (.nan, t1.2 ||| t2.2)
      | .inf n => (if n then .fin false (Q.ofInt 0) else v2, t1.2 ||| t2.2)
      | .fin n m => (if n || m.isZero then .fin false (Q.ofInt 0) else v2, t1.2 ||| t2.2)

/-- Bits of one output. -/
def outBits (g : EpCfg) : Nat := if g.raw then 32 else fmtBits g.ofmt

/-- R263: the tangent of accumulator (i, k) in plane `p` as it comes to conversion, and its flags; RAW carries the
accumulator's own. -/
def epTan (c : Core) (g : EpCfg) (prim tan : Tile) (i k p : Nat) : XR × Nat :=
  let t := if prim.mode = .f32 then accVal tan i k else .fin false (Q.ofInt 0)
  if g.raw then (t, 0) else epTangent g (accVal prim i k) (epScale c g i k) (epBias c g i k 0) t (epBias c g i k p)

/-- An output code, flags and tangent flags: plane 0 the primal, none is FAULT. `ts` are the tail's tiles by plane. -/
def epOut (c : Core) (g : EpCfg) (prim tan : Tile) (i k p : Nat) : Option (Nat × Nat × Nat) :=
  if g.raw then some (accBits (if p = 0 then prim else tan) i k, 0, 0)
  else
    let x := accVal prim i k
    let s := epScale c g i k
    let b := epBias c g i k 0
    if p = 0 then
      let v := epValue g x s b
      (convertElem g.ofmt g.pol g.rm 0 v.1).map fun r => (r.1, r.2 ||| v.2, 0)
    else
      let t := epTan c g prim tan i k p
      match fmtLty g.ofmt with
      | some ty => let r := cvtTan ty g.pol g.rm 0 (epValue g x s b).1 t.1; some (r.1, 0, r.2 ||| t.2)
      | none => some (((convertElem g.ofmt 0xAA .rne 0 (.fin false (Q.ofInt 0))).map (·.1)).getD 0, 0, t.2 ||| fIf (!t.1.isZero) tCUT)

/-- The tail tile, `d` tiles on, in plane `p`. -/
def tailTile (c : Core) (w d p : Nat) : Tile := c.tile (planeTile w ((c.tail + d) % tileLimit w) p)

/-- R282: configuration for the entries of the next counter cycle on. -/
def execEpc (_h : EHdr) (g : EpCfg) (s : State) : Res := .next (send s 1 0 0 (.epc g))

/-- R286. -/
def execEpd (_h : EHdr) (s : State) : Res :=
  if (ringView s.myCore s.myLane).avail = 0 then .next (raise s .ring) else .next (send s 1 0 0 (.pop 1))

/-- R282: sixteen FP32 values of slot row 0 as the scale or the bias vector. -/
def execEpb (_h : EHdr) (slot : Nat) (bias : Bool) (s : State) : Res :=
  let c := s.myCore
  let w := s.myLane.width
  if (c.slot slot).st = .full && slot < slotLimit w then
    let vec (x : OpSlot) : List Nat := (List.range 16).map fun k => natAt (slotByte x 0) (4 * k) 4
    let planes := if (c.slot slot).tz then [] else (planeNums w).map fun p => (p, vec (c.slot (slot + p * slotLimit w)))
    .next (send s 2 0 0 (.vec bias (vec (c.slot slot)) planes))
  else .next (raise s .slotClaim)

/-- R284: the latches of one converted tile row: latch number and value. -/
def rowLatches (g : EpCfg) (planes : List (Nat × List Nat)) : List Val :=
  let per := 128 / outBits g
  let n := outBits g / 8
  let row (l : List Nat) (q : Nat) : V128 := ofLanes (outBits g) per fun j => (l[q * per + j]?).getD 0
  (List.range n).map fun q =>
    { bits := row (((planes.find? fun y => y.1 == 0).map (·.2)).getD []) q,
      scaled := g.otag,
      planes := (planes.filter fun y => y.1 != 0).map fun y => (y.1, row y.2 q) }

/-- R284: one tile row to the north latches. -/
def execEpi (h : EHdr) (row col : Nat) (pop : Bool) (s : State) : Res :=
  let c := s.myCore
  let l := s.myLane
  let w := l.width
  let g := epCfg c
  if (ringView c l).avail = 0 then .next (raise s .ring)
  else if !g.raw && (fmtBits g.ofmt < 8 || isTri g.ofmt || isBlock g.ofmt) then .next (raise s .reservedCombo)
  else
    let prim := tailTile c w 0 0
    let planes := (0 :: planeNums w).map fun p =>
      (p, (List.range 16).map fun k => if k < prim.n then epOut c g prim (tailTile c w 0 p) row k p else some (0, 0, 0))
    if planes.any fun y => y.2.any (·.isNone) then .next (raise s .convert)
    else
      let vals := planes.map fun y => (y.1, y.2.filterMap id)
      let nf := fAll (vals.flatMap fun y => y.2.map (·.2.1))
      let tf := fAll (vals.flatMap fun y => y.2.map (·.2.2))
      let latches := rowLatches g (vals.map fun y => (y.1, y.2.map (·.1)))
      let s1 := (List.range latches.length).foldl (fun s q =>
        send s 6 (if q = 0 then nf else 0) (if q = 0 then tf else 0)
          (.edge true (l.org.2 + col + q) ((latches[q]?).getD {})) h.hold) s
      .next (if pop then send s1 6 0 0 (.pop 1) else s1)

/-- The bytes of tile row `i` of an `epw` in plane `p`: packed values, or a block row; none is FAULT. -/
def epwRow (c : Core) (g : EpCfg) (w : Nat) (pair : Bool) (i p : Nat) : Option (List Nat × Nat × Nat) :=
  let t0 := tailTile c w 0 0
  if pair then
    if p = 0 then
      let t1 := tailTile c w 1 0
      let vs := (List.range 32).map fun k =>
        let t := if k < 16 then t0 else t1
        if k % 16 < t.n then epValue g (accVal t i (k % 16)) (epScale c g i (k % 16)) (epBias c g i (k % 16) 0)
        else (.fin false (Q.ofInt 0), 0)
      (blockRow g.ofmt g.pol g.rm ffFP32.maxMag (vs.map (·.1))).map fun r => (r.1, r.2 ||| fAll (vs.map (·.2)), 0)
    else
      -- R263: a block's tangent is zero
      let ts := (List.range 32).filterMap fun k =>
        let d := k / 16
        let t := tailTile c w d 0
        if k % 16 < t.n then some (epTan c g t (tailTile c w d p) i (k % 16) p) else none
      some (List.replicate (rowStride g.ofmt 32) 0, 0, fAll (ts.map fun t => t.2 ||| fIf (!t.1.isZero) tCUT))
  else
    let os := (List.range t0.n).map fun k => epOut c g t0 (tailTile c w 0 p) i k p
    match allSome os with
    | none => none
    | some l =>
      let w' := outBits g
      let n := (l.map (·.1)).foldr (fun x a => a * 2 ^ w' + x % 2 ^ w') 0
      some ((List.range (l.length * w' / 8)).map fun k => n / 256 ^ k % 256, fAll (l.map (·.2.1)), fAll (l.map (·.2.2)))

/-- A nonzero tangent of the tiles an `epw` takes comes to conversion. -/
def epwTan (c : Core) (g : EpCfg) (w : Nat) (pair : Bool) : Bool :=
  (planeNums w).any fun p => (List.range (if pair then 2 else 1)).any fun d =>
    let t := tailTile c w d 0
    (List.range t.m).any fun i => (List.range t.n).any fun k => !(epTan c g t (tailTile c w d p) i k p).1.isZero

/-- R250, R263: the tangent flags of an `epw`: those of the chain in every plane; where the buffer has no companion a
tangent is dropped, not cut. -/
def epwTflags (c : Core) (g : EpCfg) (w : Nat) (pair diff : Bool) : Nat :=
  let fl := fAll ((planeNums w).flatMap fun p =>
    (List.range (tailTile c w 0 0).m).map fun i => ((epwRow c g w pair i p).map (·.2.2)).getD 0)
  if diff then fl else (fl ^^^ (fl &&& tCUT)) ||| fIf (epwTan c g w pair) tDROP

/-- Join rows that follow one another in memory: (offset, bytes). -/
def joinRows : List (Int × List Byte) → List (Int × List Byte)
  | [] => []
  | (o, b) :: r =>
    match joinRows r with
    | (o', b') :: t => if o + b.length = o' then (o, b ++ b') :: t else (o, b) :: (o', b') :: t
    | [] => [(o, b)]

/-- R285, R294: the pieces that write rows into the write face of an engine's binding, plane by plane. -/
def engRows (s : State) (lane : Nat) (ag : Agent) (x : Bnd) : List (Nat × Int × List Byte) → State → Prep
  | [], _ => .ok s []
  | (p, o, b) :: r, st =>
    match engPieces st lane ag x (s.lane lane).cwin .write (s.shadow lane x.f, none) p o b.length with
    | .bad s c i => .bad s c i
    | .absent s v => .absent s v
    | .ok st ps =>
      match r with
      | [] => .ok st (fillPieces ps b)
      | _ =>
        match engRows s lane ag x r st with
        | .ok st qs => .ok st (fillPieces ps b ++ qs)
        | e => e

/-- A write that would leave the face raises PERMISSION (R285, R294). -/
def outOfFace (x : Bnd) (rows : List (Int × List Byte)) : Option Nat :=
  (rows.find? fun y => decide (y.1 < 0) || decide ((x.f.size : Int) < y.1 + y.2.length)).map fun y => vaOf x.f.vaddr y.1

/-- R285: the tail tile, or a pair, to memory. -/
def execEpw (_h : EHdr) (bsel : Nat) (pop pair : Bool) (oq pitch : Nat) (s : State) : Res :=
  let c := s.myCore
  let l := s.myLane
  let w := l.width
  let g := epCfg c
  let need := if pair then 2 else 1
  match s.engBnd s.cur.lane bsel with
  | none => .fault (.unbound s.cur.unit)
  | some x =>
    if (ringView c l).avail < need then .next (raise s .ring)
    else
      let t0 := tailTile c w 0 0
      let base := (l.getQ oq).toNat
      let at_ := s.attrAt s.cur.lane .epi l.cwin x.b.hwin (vaOf (x.f.vaddr + planeOff x.f w (s.shadow s.cur.lane x.f) 0) base)
      let geo := match at_ with | some a => a.rowl == 0 && a.scl == 1 | none => true
      if (!pair && t0.n * outBits g % 8 != 0) || pair != (!g.raw && isBlock g.ofmt) || (pair && !geo) then
        .next (raise s .reservedCombo)
      else
        let planes := 0 :: (if x.f.diff then planeNums w else [])
        let rows := planes.map fun p => (p, (List.range t0.m).map fun i => epwRow c g w pair i p)
        if rows.any fun y => y.2.any (·.isNone) then .next (raise s .convert)
        else
          let vals := rows.map fun y => (y.1, y.2.filterMap id)
          let runs := vals.map fun y =>
            (y.1, (List.range y.2.length).map fun (i : Nat) =>
              ((base : Int) + (i * pitch : Nat), (((y.2[i]?).map (·.1)).getD []).map fun b => (BitVec.ofNat 8 b : Byte)))
          match outOfFace x (((runs.head?).map (·.2)).getD []) with
          | some va => .next (raise s .permission va)
          | none =>
            match engRows s s.cur.lane .epi x (runs.flatMap fun y => (joinRows y.2).map fun z => (y.1, z.1, z.2)) s with
            | .bad _ cd i => .next (raise s cd i)
            | .absent _ va => .next (suspendPage s s.cur.lane 0xFB va)
            | .ok s' ps =>
              let nf := fAll (vals.flatMap fun y => y.2.map (·.2.1))
              .next (send (noteWrote s' s.cur.lane x.f.id) 4 nf (epwTflags c g w pair x.f.diff) (.epw bsel ps (if pop then need else 0)))

/-- The writes of an `epw` issue, and its tiles are popped (R285). -/
def landEpw (s : State) (lane entry id : Nat) (ps : List Piece) (pops : Nat) : State :=
  let s := engWrite s lane (.epw (coreOf lane) id) 9 entry ps
  s.modCore (coreOf lane) fun c => ringPop c (s.lane lane).width pops

end Sys2Proof.Machine
end

