-- ==== Sys2Proof/Machine/Felt.lean ====
section
/-! DEFINITION. The Felt lookup fabric (R289 to R299). -/

namespace Sys2Proof.Machine

def Felt.ctx (f : Felt) (k : Nat) : CtxSt := tblGet .empty f.ctxs k
def Felt.cell (f : Felt) (ctx k : Nat) : Cell := tblGet {} f.cells (ctx * 4096 + k)
def Felt.wire (f : Felt) (k : Nat) : BitVec 256 := tblGet 0 f.wires k

def State.felt (s : State) (lane : Nat) : Felt := (s.core (coreOf lane)).felt
def State.modFelt (s : State) (core : Nat) (g : Felt → Felt) : State := s.modCore core fun c => { c with felt := g c.felt }

/-- R290: the output of a cell on the wires given. -/
def cellOut (f : Felt) (c : Cell) : BitVec 256 :=
  let sel (k : Nat) : BitVec 256 := f.wire ((c.sel[k]?).getD 0)
  let ws := (List.range 6).map sel
  BitVec.ofNat 256 ((List.range 256).foldr (fun b a =>
    let x := (List.range 6).foldl (fun x k => x + (if ((ws[k]?).getD 0).getLsbD b then 2 ^ k else 0)) 0
    a * 2 + (if c.tt.testBit x then 1 else 0)) 0)

/-- R291: a cell record. -/
def parseCell (b : List Byte) : Cell :=
  let n := leNat b
  let s16 (k : Nat) : Nat := fld n (64 + 16 * k) 16
  { tt := fld n 0 64, sel := (List.range 6).map fun k => s16 k % 8192,
    bad := (List.range 6).any (fun k => 8192 ≤ s16 k) || fld n 160 96 != 0 }

/-! ## Loads (R291, R292, R299) -/

/-- Records a counter cycle, and counter cycles to the first. -/
def feltRate (x : Bnd) : Nat × Nat := if x.f.mem = 0 then (16, 4) else (4, 24)

/-- FELT.PROG (R299). -/
def feltProg (l : FeltLoad) : Nat := l.last * 2 ^ 28 + l.next % 4096 * 2 ^ 16 + l.entry * 2 ^ 8 + l.ctx * 2 + 1

/-- The loads in flight, in channel order, with FELT.PROG showing the first. -/
def Felt.withLoads (f : Felt) (ls : List FeltLoad) : Felt := { f with loads := ls, prog := ((ls.head?).map feltProg).getD 0 }

/-- The loads with `l` as it now stands. -/
def Felt.putLoad (f : Felt) (l : FeltLoad) : Felt := f.withLoads (f.loads.map fun x => if x.ctx = l.ctx then l else x)

/-- A load that ends leaves its context in a state. -/
def Felt.endLoad (f : Felt) (ctx : Nat) (st : CtxSt) : Felt :=
  { f.withLoads (f.loads.filter fun x => x.ctx != ctx) with ctxs := tblSet .empty f.ctxs ctx st }

/-- R292: one of the bytes at these offsets of a face lies in a page or window with SCL = 1. -/
def sclAt (s : State) (lane : Nat) (x : Bnd) (face : Nat) (offs : List Int) : Bool :=
  let l := s.lane lane
  offs.any fun o => match s.attrAt lane .felt l.cwin x.b.hwin (vaOf (x.f.vaddr + planeOff x.f l.width face 0) o) with
    | some a => a.scl == 1
    | none => false

/-- Offsets that meet every page of a run of bytes. -/
def pageOffs (off n : Nat) : List Int :=
  ((List.range (n / 4096 + 1)).map fun k => ((off + min (4096 * k) (n - 1) : Nat) : Int)) ++ [((off + (n - 1) : Nat) : Int)]

/-- The face a Felt entry reads. -/
def feltLive (s : State) (lane : Nat) (x : Bnd) : Nat := if x.f.mode = 2 then 0 else s.face (dieOf lane) (s.workOf lane) x.f.id

/-- R294, R296: a load of cell records fires; the channel takes loads in their firing order (R295). -/
def execFldt (h : EHdr) (ctx bsel oq cell count : Nat) (s : State) : Res :=
  let lane := s.cur.lane
  let l := s.myLane
  let f := s.felt lane
  match s.engBnd lane bsel with
  | none => .fault (.unbound s.cur.unit)
  | some x =>
    let off := (l.getQ oq).toNat
    if f.active = some ctx || f.pendAct = some ctx || f.ctx ctx = .loading then .next (raise s .felt)
    else if x.f.size < off + 32 * count then .next (raise s .permission (vaOf x.f.vaddr off))
    else
      let live := feltLive s lane x
      if sclAt s lane x (accessFace s lane x live false).1 (pageOffs off (32 * count)) then .next (raise s .reservedCombo)
      else
        let ld : FeltLoad := { lane, entry := s.cur.idx, ctx, bind := bsel, base := off, face := live, first := cell,
                               last := cell + count - 1, next := cell, due := s.now + (feltRate x).2 * stretch l.width, stopped := false }
        let _ := h
        .next ((noteFb s lane x).modFelt (coreOf lane) fun f =>
          { f.withLoads (f.loads ++ [ld]) with ctxs := tblSet .empty f.ctxs ctx .loading })

/-- R292: a load with no cell left completes: BAD if any cell of the context is, READY otherwise. -/
def execFeltLoadDone (core : Nat) (s : State) : Res :=
  let f := (s.core core).felt
  match f.loads.find? fun l => decide (l.last < l.next) with
  | none => .next s
  | some l =>
    let bad := f.cells.any fun y => decide (y.1 / 4096 = l.ctx) && y.2.bad
    .next (s.modFelt core fun f => f.endLoad l.ctx (if bad then .bad else .ready))

/-- One cycle of the load channel, which serves the first load: records arrive at the rate of R292, unless their banks are taken or their bank group
is away. The channel goes on while its region holds, as R296 needs, and stops with its block (R299). -/
def feltCycle (s : State) (core : Nat) (busy : List Nat) : State :=
  match (s.core core).felt.loads with
  | [] => s
  | l :: _ =>
    let gone (s : State) : State := s.modFelt core fun f => f.endLoad l.ctx .empty
    if l.stopped || (s.lane l.lane).away || s.now < l.due then s
    else if l.last < l.next then s.soon (.feltLoadDone core)
    else
      match s.engBnd l.lane l.bind with
      | none => s
      | some x =>
        let n := min (feltRate x).1 (l.last + 1 - l.next)
        let off := l.base + 32 * (l.next - l.first)
        match engPieces s l.lane .felt x (s.lane l.lane).cwin .read (accessFace s l.lane x l.face false) 0 (off : Int) (32 * n) with
        | .bad s c i => raiseAt (gone s) l.lane (uEng 3) l.entry c i .late
        | .absent s va => suspendPage (s.modFelt core fun f => f.putLoad { l with stopped := true, due := 0 }) l.lane 0xFC va
        | .ok s1 ps =>
          if sclAt s1 l.lane x (accessFace s l.lane x l.face false).1 (pageOffs off (32 * n)) then
            raiseAt (gone s1) l.lane (uEng 3) l.entry .reservedCombo 0 .late
          else
          let away := ps.any fun p => match s1.homeOf p.pa with | .ws _ g => decide (s.now < wsServe s g) | _ => false
          if away || (banksOf s1 ps).any busy.contains then s
          else
            match engRead s1 l.lane ps with
            | (s, bs, late, ecc) =>
              if ecc then raiseAt (gone s) l.lane (uEng 3) l.entry .eccUncorr 0 .late
              else if late then raiseAt (gone s) l.lane (uEng 3) l.entry .link 0 .late
              else
              let s := s.modCore core fun c => { c with taken := c.taken ++ banksOf s1 ps }
              let l' := { l with next := l.next + n, due := s.now + stretch (s.lane l.lane).width }
              s.modFelt core fun f =>
                { f.putLoad l' with
                  cells := (List.range n).foldl (fun t k => tblSet {} t (l.ctx * 4096 + l.next + k) (parseCell ((bs.drop (32 * k)).take 32))) f.cells }

/-! ## Contexts and layers -/

/-- R294: the active context is set at the next counter cycle. -/
def execFctx (_h : EHdr) (ctx : Nat) (s : State) : Res :=
  .next (send (s.modFelt (coreOf s.cur.lane) fun f => { f with pendAct := some ctx }) 1 0 0 (.fctx ctx))

/-- R290, R294, R296: one layer. -/
def execFeval (_h : EHdr) (cell count : Nat) (s : State) : Res :=
  let f := s.felt s.cur.lane
  match f.active with
  | none => .next (raise s .felt)
  | some a =>
    match f.ctx a with
    | .ready => .next (send s 1 0 0 (.wires cell ((List.range count).map fun k => cellOut f (f.cell a (cell + k)))))
    | .bad => .next (raise s .felt (((f.cells.find? fun y => decide (y.1 / 4096 = a) && y.2.bad).map fun y => y.1 % 4096).getD 0))
    | _ => .next (raise s .felt)

def execFclr (_h : EHdr) (wire count : Nat) (s : State) : Res := .next (send s 1 0 0 (.wires wire (List.replicate count 0)))

def execFclrCtx (_h : EHdr) (ctx : Nat) (s : State) : Res :=
  if (s.felt s.cur.lane).ctx ctx = .loading then .next (raise s .felt) else .next (send s 1 0 0 (.fclrCtx ctx))

/-! ## The transposer and the output stage -/

/-- Bytes of a sample (R293). -/
def sampleBytes (sz : Nat) : Nat := 2 ^ sz

/-- R294: samples into planes: one request for the primal, and the companion read beside it (R298). -/
def execFxin (o : OpFx) (s : State) : Res :=
  let lane := s.cur.lane
  let l := s.myLane
  match s.engBnd lane o.bsel with
  | none => .fault (.unbound s.cur.unit)
  | some x =>
    let off := (l.getQ o.oq).toNat
    let n := 256 * sampleBytes o.sz
    if off % 64 ≠ 0 || x.f.size < off + n then .next (raise s .permission (vaOf x.f.vaddr off))
    else
      let face := accessFace s lane x (feltLive s lane x) false
      if sclAt s lane x face.1 (pageOffs off n) then .next (raise s .reservedCombo)
      else
        let runs := (planesFor x l.width).flatMap fun p => (splitBy 64 (n / 64 + 1) off n).map fun y => (y.1, p, y.1, y.2)
        match prepPieces lane .felt x l.cwin .read (.int .i64) l.width face runs s with
        | .bad _ c i => .next (raise s c i)
        | .absent _ va => .next (suspendPage s lane 0xFC va)
        | .ok s' ps =>
          let (id, s') := (noteFb s' lane x).fresh
          let r : Req := { id, lane, unit := 242, entry := s.cur.idx, pieces := ps, ty := .int .i64, pol := none, rm := .rne,
                           size := off, mask := 0, arr := s.now + 1, prio := 10, spad := allSpad s' ps }
          .next (send (issueReq s' (coreOf lane) r) (if allSpad s' ps then 8 else 32) 0 0 (.fxin o id))

/-- The planes of a served `fxin`, and whether a tangent bit was cut. -/
def fxinPlanes (o : OpFx) (r : Req) : List (BitVec 256) × Bool :=
  let prim := (r.pieces.filter fun p => p.plane == 0).flatMap (·.got)
  let sb := sampleBytes o.sz
  let sample (k : Nat) : Nat := leNat ((prim.drop (k * sb)).take sb)
  let samples := (List.range 256).map sample
  ((List.range o.width).map fun b =>
      BitVec.ofNat 256 (samples.foldr (fun v a => a * 2 + (if v.testBit (o.lo + b) then 1 else 0)) 0),
   r.pieces.any fun p => p.plane != 0 && p.got.any (· != 0))

/-- The planes of an `fxin` land. -/
def landFxin (s : State) (lane entry : Nat) (o : OpFx) (req : Nat) : State :=
  let core := coreOf lane
  match (s.core core).reqs.find? fun r => r.id == req with
  | none => s
  | some r =>
    let s := s.modCore core fun c => { c with reqs := c.reqs.filter fun x => x.id != req }
    if r.ecc then raiseAt s lane (uEng 3) entry .eccUncorr 0 .late
    else if r.late then raiseAt s lane (uEng 3) entry .link 0 .late
    else
      let (ps, cut) := fxinPlanes o r
      let s := s.modFelt core fun f =>
        { f with wires := (List.range ps.length).foldl (fun t k => tblSet 0 t (4096 + o.wire + k) ((ps[k]?).getD 0)) f.wires }
      s.orFlags lane 0 (fIf cut tCUT)

/-- Rows of an output, plane by plane: tangents are zero (R298). -/
def feltRows (x : Bnd) (w : Nat) (rows : List (Int × List Byte)) : List (Nat × Int × List Byte) :=
  (planesFor x w).flatMap fun p => (joinRows rows).map fun y => (p, y.1, if p = 0 then y.2 else y.2.map fun _ => 0)

/-- Send an output to the write face of a binding. -/
def feltOut (s : State) (bsel off : Nat) (rows : List (Int × List Byte)) (land : List Piece → Land) : Res :=
  let lane := s.cur.lane
  match s.engBnd lane bsel with
  | none => .fault (.unbound s.cur.unit)
  | some x =>
    if off % 64 ≠ 0 then .next (raise s .permission (vaOf x.f.vaddr off))
    else
      match outOfFace x rows with
      | some va => .next (raise s .permission va)
      | none =>
        if sclAt s lane x (s.shadow lane x.f) (rows.flatMap fun y => [y.1, y.1 + (y.2.length : Int) - 1]) then .next (raise s .reservedCombo)
        else
          match engRows s lane .felt x (feltRows x s.myLane.width rows) s with
          | .bad _ c i => .next (raise s c i)
          | .absent _ va => .next (suspendPage s lane 0xFC va)
          | .ok s' ps => .next (send (noteWrote s' lane x.f.id) 4 0 0 (land ps))

/-- R294: planes back into samples. -/
def execFxout (o : OpFx) (s : State) : Res :=
  let f := s.felt s.cur.lane
  let off := (s.myLane.getQ o.oq).toNat
  let sb := sampleBytes o.sz
  let ws := (List.range o.width).map fun b => f.wire (o.wire + b)
  let sample (k : Nat) : Nat := (List.range o.width).foldl (fun a b => a + (if ((ws[b]?).getD 0).getLsbD k then 2 ^ (o.lo + b) else 0)) 0
  feltOut s o.bsel off ((List.range 256).map fun (k : Nat) => ((off : Int) + (k * sb : Nat), leBytes sb (sample k))) (.fxout o.bsel)

/-- The score of sample `k` in group `g`. -/
def feltScore (f : Felt) (wire gsize g k : Nat) : Nat :=
  (List.range gsize).foldl (fun a j => a + (if (f.wire (wire + g * gsize + j)).getLsbD k then 1 else 0)) 0

/-- R294: population counts to memory. -/
def execFpop (_h : EHdr) (bsel oq wire gsize groups pitch : Nat) (s : State) : Res :=
  let f := s.felt s.cur.lane
  let off := (s.myLane.getQ oq).toNat
  feltOut s bsel off ((List.range 256).map fun (k : Nat) =>
    ((off : Int) + (k * pitch : Nat), (List.range groups).flatMap fun g => leBytes 2 (feltScore f wire gsize g k))) (.fpop bsel)

/-- R294: population counts to the south latches. -/
def execFpopLat (h : EHdr) (wire gsize groups sample : Nat) (s : State) : Res :=
  let f := s.felt s.cur.lane
  let l := s.myLane
  if l.org.1 + l.hdr.rows < 8 then .next (raise s .felt)
  else
    .next ((List.range l.hdr.cols).foldl (fun st c =>
      let v : Val := { bits := ofLanes 16 8 fun g => if g < groups then feltScore f wire gsize g (sample + c) else 0 }
      send st 3 0 0 (.edge false (l.org.2 + c) v) h.hold) s)

/-- The writes of a Felt output issue. -/
def landFelt (s : State) (lane entry id : Nat) (ps : List Piece) : State :=
  engWrite s lane (.felt (coreOf lane) id) 10 entry ps

end Sys2Proof.Machine
end

