-- ==== Sys2Proof/Machine/Sync.lean ====
section
/-! DEFINITION. Synchronisation: what is performed at a scope (R342, R345, R346), barriers (R353 to R355), frame groups
and frame-wire events (R349 to R352), publishing (R335 to R339), reduction rounds (R360, R361), the delivery of
writes in transit (R134, R135), and the events of a region's counter (R180, R187, R190). -/

namespace Sys2Proof.Machine

/-! ## Performed accesses -/

/-- A store of the die that waits in its outbound stage is performed for the die (R342). -/
def pieceStaged (s : State) (die : Nat) (p : Piece) : Bool :=
  s.flits.any fun f => f.staged && f.src == die && f.pieces.any fun q => q.pa == p.pa && q.data == p.data

/-- Accesses of a lane that fired before firing `before` and are not performed at a scope (R345, R356): loads not yet
served, queued writes, copies, engine writes and the step context's own. -/
def outstandingBefore (s : State) (lane scope before : Nat) : Bool :=
  let core := coreOf lane
  let c := s.core core
  let near := decide (scope ≤ 4)
  let mine (f : Flit) : Bool :=
    f.lane == lane && (match f.sender with
      | .port _ _ _ => false
      | .step _ => decide (f.id < before)
      | x => decide (x.num < before)) && !(near && f.staged)
  scope != 0 &&
    (c.ports.any (fun x => x.2.queue.any fun e =>
        e.lane == lane && decide (e.id < before) &&
          !(near && e.kind == .store && e.sent.isSome &&
            e.pieces.all fun p => p.done || pieceStaged s (core / 16) p)) ||
      c.reqs.any (fun r => r.lane == lane && r.unit != 241 && r.unit != 243 &&
        (if r.unit = 240 then decide (r.src < before) else decide (r.id < before) && !(r.ready && decide (r.readyAt ≤ s.now)))) ||
      c.copies.any (fun x => x.lane == lane && x.op != 3 && x.st != .faulted && decide (x.id < before)) ||
      s.flits.any mine ||
      (s.lane lane).flights.any fun f =>
        decide (f.id < before) && match f.land with | .epw _ _ _ | .fxout _ _ | .fpop _ _ => true | _ => false)

/-- R346: a write that an earlier read of the lane took by forwarding is still on its way. -/
def forwardedOut (s : State) (lane : Nat) : Bool :=
  let ids := (s.lane lane).fwdWrites
  s.flits.any (fun f => ids.contains f.id) ||
    (s.core (coreOf lane)).ports.any fun x => x.2.queue.any fun e => ids.contains e.id

/-- The condition of a fence (R356). -/
def fenceWaits (s : State) (lane scope before : Nat) (sc : Bool) : Bool :=
  outstandingBefore s lane scope before || (sc && forwardedOut s lane)

/-- A fence entry that fires does nothing more: its condition was its hold (R356). -/
def execFence (_o : OpFence) (s : State) : Res := .next s

/-- R346: the same, and the lane has then no forwarded write outstanding; a nullified fence waits for nothing and
forgets nothing (R188). -/
def execFenceSc (o : OpFence) (s : State) : Res :=
  if nullified (s.myGuard o.h) 1 then .next s else .next (s.modLane s.cur.lane fun l => { l with fwdWrites := [] })

/-! ## Barriers (R353 to R355) -/

/-- The record a unit, or the step context (key 256), keeps for a barrier (R354). -/
def recOf (s : State) (lane key b : Nat) : ArrRec :=
  if key < 256 then tblGet {} ((s.core (coreOf lane)).elem key).recs b else tblGet {} (s.lane lane).recs b

def putRec (s : State) (lane key b : Nat) (r : ArrRec) : State :=
  if key < 256 then
    s.modCore (coreOf lane) fun c => let e := c.elem key; c.setElem key { e with recs := tblSet {} e.recs b r }
  else s.modLane lane fun l => { l with recs := tblSet {} l.recs b r }

/-- R354: an arrival that its owner may make. -/
def barOwned (s : State) (lane b : Nat) : Bool :=
  let x := (s.core (coreOf lane)).bar b
  x.init && x.owner == slotOf lane

/-- The instance of a scope that holds a core. -/
def instOf (scope core : Nat) : Nat := if scope = 3 then core / 4 else if scope = 4 then core / 16 else 0

/-- The largest number of hops between live compute dies (R355). -/
def maxHops (s : State) (dies : List Nat) : Nat :=
  dies.foldl (fun a x => dies.foldl (fun a y => max a (hops s x y)) a) 0

/-- R355: the cycle at which a round completed now is released. -/
def releaseAt (s : State) (scope : Nat) : Nat :=
  if scope = 2 then s.now + 2 else if scope = 5 then tickStart (s.tick + 2 * maxHops s s.live + 1) else s.now + 8

/-- R354, R355: a core's round is complete. -/
def completeBar (s : State) (core b entry lane : Nat) : State :=
  let x := (s.core core).bar b
  let (id, s) := s.fresh
  if x.scope = 2 then
    let s := s.modCore core fun c => c.setBar b { x with ph := !x.ph, pend := x.cnt, waitg := false }
    let t := releaseAt s 2
    State.post { s with rounds := s.rounds ++
      [{ id, bar := b, scope := 2, inst := core, pcnt := 1, cores := [core], last := s.now, due := some t, bad := false }] }
      t (.barrierRelease id)
  else
    let s := s.modCore core fun c => c.setBar b { x with waitg := true }
    match s.rounds.find? fun r => r.bar == b && r.scope != 2 && r.due.isNone && instOf r.scope core == r.inst with
    | some r =>
      if r.scope = x.scope && r.pcnt = x.pcnt && !r.bad then
        let done := r.cores.length + 1 = r.pcnt
        let t := releaseAt s r.scope
        let r' := { r with cores := r.cores ++ [core], last := s.now, due := if done then some t else none }
        let s := { s with rounds := s.rounds.map fun y => if y.id = r.id then r' else y }
        if done then s.post t (.barrierRelease r.id) else s
      else
        let s := { s with rounds := s.rounds.map fun y => if y.id = r.id then { y with bad := true } else y }
        if r.bad then s else raiseAt s lane (if entry < 256 then 0 else 255) entry .barrier 0 .async
    | none =>
      let done := x.pcnt = 1
      let t := releaseAt s x.scope
      let s := { s with rounds := s.rounds ++
        [{ id, bar := b, scope := x.scope, inst := instOf x.scope core, pcnt := x.pcnt, cores := [core], last := s.now,
           due := if done then some t else none, bad := false }] }
      if done then s.post t (.barrierRelease id) else s

/-- R354: an arrival lands once every earlier access of its lane has performed at the barrier's scope. -/
def execBarrierArrivalLand (core arrival : Nat) (s : State) : Res :=
  match (s.core core).arrivals.find? fun a => a.id == arrival with
  | none => .next s
  | some a =>
    let s := s.modCore core fun c => { c with arrivals := c.arrivals.filter fun x => x.id != arrival }
    let x := (s.core core).bar a.bar
    let unit := if a.key < 256 then a.key else 255
    if !barOwned s a.lane a.bar || x.pend = 0 || x.waitg then
      if a.key < 256 then .next (raiseAt s a.lane unit a.entry .barrier 0 .late)
      else .next (raiseAt s a.lane unit a.entry .barrier 0 .step)
    else
      let s := putRec s a.lane a.key a.bar { recOf s a.lane a.key a.bar with arr := true, ap := x.ph }
      let s := s.modCore core fun c => c.setBar a.bar { x with pend := x.pend - 1 }
      .next (if x.pend = 1 then completeBar s core a.bar a.entry a.lane else s)

/-- R355: the release of a round is seen by the waiters of its cores; a linked barrier turns its phase only now. -/
def execBarrierRelease (round : Nat) (s : State) : Res :=
  match s.rounds.find? fun r => r.id == round with
  | none => .next s
  | some r =>
    let s := { s with rounds := s.rounds.filter fun x => x.id != round }
    .next (r.cores.foldl (fun s core => s.modCore core fun c =>
      let x := c.bar r.bar
      if r.scope = 2 then c.setBar r.bar { x with phv := !x.phv, rels := x.rels + 1 }
      else c.setBar r.bar { x with ph := !x.ph, phv := !x.ph, pend := x.cnt, waitg := false, rels := x.rels + 1 }) s)

/-- R354: the condition of a wait: with an arrival recorded, the phase the waiters see has left the one recorded;
without one, a release since the wait first stood. -/
def barMet (s : State) (lane key b : Nat) : Bool :=
  let x := (s.core (coreOf lane)).bar b
  let r := recOf s lane key b
  if r.arr then x.phv != r.ap
  else match r.stood with
    | some n => decide (n < x.rels)
    | none => false

/-- A wait stands at its stamp or own cycle from now on. -/
def barStand (s : State) (lane key b : Nat) : State :=
  let r := recOf s lane key b
  match r.stood with
  | some _ => s
  | none => putRec s lane key b { r with stood := some ((s.core (coreOf lane)).bar b).rels }

/-- A wait that fires clears its record. -/
def barClear (s : State) (lane key b : Nat) : State := putRec s lane key b {}

/-- An arrival under way: it lands in `core.arrivals` when earlier accesses have performed. -/
def putArrival (s : State) (lane key b entry id : Nat) : State :=
  s.modCore (coreOf lane) fun c => { c with arrivals := c.arrivals ++ [{ id, lane, key, bar := b, entry }] }

/-- R354: `bar.arrive`: checked now, landing from one counter cycle later. -/
def execBarArrive (o : OpN) (s : State) : Res :=
  if nullified (s.myGuard o.h) 1 then .next s
  else if !barOwned s s.cur.lane o.n then .next (raise s .barrier)
  else .next (send s 1 0 0 (.arrive s.cur.unit o.n))

/-- R354: a `bar.wait` that fires clears its record; a nullified one clears none. -/
def execBarWait (o : OpN) (s : State) : Res :=
  if nullified (s.myGuard o.h) 1 then .next s else .next (barClear s s.cur.lane s.cur.unit o.n)

/-- R354: a `bar.aw` arrived when the counter first stood at its stamp; it fires without arriving again. -/
def execBarAw (o : OpN) (s : State) : Res :=
  if nullified (s.myGuard o.h) 1 then .next s else .next (barClear s s.cur.lane s.cur.unit o.n)

/-- R354: the arrival a `bar.aw` makes in the first clock cycle in which the counter stands at its stamp: its one
counter cycle cannot pass under its own hold, so it lands from one clock cycle later. -/
def awArrive (s : State) (lane unit entry b : Nat) : State :=
  let r := recOf s lane unit b
  if r.arrived then s
  else if !barOwned s lane b then raiseAt s lane unit entry .barrier 0 .entry
  else
    let (id, s) := s.fresh
    putArrival (putRec s lane unit b { r with arrived := true }) lane unit b entry id

/-- R353: a barrier returns to its state before `bar.init` at its owner's retirement; the rounds that lose the core are
never released. -/
def dropBar (s : State) (core b : Nat) : State :=
  let less (r : Round) : Round :=
    if r.bar = b && r.cores.contains core then { r with cores := r.cores.erase core, bad := r.scope != 2 || r.bad } else r
  let left := (s.rounds.map less).filter fun r => !(r.cores.isEmpty)
  let s := { s with rounds := left }
  s.modCore core fun c => let x := c.bar b; c.setBar b { ph := x.ph, phv := x.ph, rels := x.rels }

/-- Drop every barrier of a slot. -/
def dropBars (s : State) (lane : Nat) : State :=
  let c := s.core (coreOf lane)
  (c.bars.filter fun x => x.2.init && x.2.owner == slotOf lane).foldl (fun s x => dropBar s (coreOf lane) x.1) s

/-- BAR.STATE[n] (R353). -/
def barState (x : Bar) : Nat :=
  x.cnt * 2 ^ 36 + x.pend * 2 ^ 24 + x.pcnt * 2 ^ 16 + x.scope * 2 ^ 10 + b2n x.waitg * 2 ^ 9 + b2n x.ph * 2 ^ 8 +
    b2n x.init * 2 ^ 2 + x.owner

/-! ## Frame groups (R349 to R351) -/

def State.group (s : State) (w g : Nat) : Group :=
  (s.groups.find? fun x => x.workid == w && x.g == g).getD { workid := w, g }

def State.setGroup (s : State) (x : Group) : State :=
  { s with groups :=
      if s.groups.any fun y => y.workid == x.workid && y.g == x.g then
        s.groups.map fun y => if y.workid == x.workid && y.g == x.g then x else y
      else s.groups ++ [x] }

/-- The frame group of a lane's block. -/
def laneGroup (l : Lane) : Option (Nat × Nat) := l.rel.map fun r => (r.entry.workid, r.entry.fgroup)

/-- The regions of a group: those running on lanes, and those of stopped elastic blocks. -/
def groupLanes (s : State) (w g : Nat) : List Lane :=
  ((s.lanes.map (·.2)) ++ s.elastics.filterMap fun e => e.saved.map (·.lane)).filter fun l =>
    l.run && laneGroup l == some (w, g)

/-- R349: the live dies on which the mode in force places an entry of the group. -/
def groupSpan (s : State) (w g : Nat) : List Nat :=
  match s.works.find? (fun x => x.workid == w), s.tset with
  | some x, some t =>
    s.live.filter fun d =>
      (s.die d).power != .off && (s.die d).power != .reset &&
        x.entries.any fun e => e.mode == t.mode && e.fgroup == g && dieOf e.lane == d
  | _, _ => []

/-- Every member has arrived, and an arrival has been made (R350). -/
def groupReady (s : State) (x : Group) : Bool :=
  x.event.isNone && x.made && (groupLanes s x.workid x.g).all (·.arrived)

/-- R350: the members of a group that spans one die have all arrived: its event comes 2 cycles on. -/
def groupCheck (s : State) (w g : Nat) : State :=
  let x := s.group w g
  if groupReady s x && (groupSpan s w g).length ≤ 1 then
    State.post (s.setGroup { x with event := some (s.now + 2), last := s.now }) (s.now + 2) (.frameWireEvent w g)
  else s

/-- R350, at a tick's start: the groups of several dies whose members had all arrived by the end of the last tick. -/
def groupTick (s : State) : State :=
  s.groups.foldl (fun s x =>
    let span := groupSpan s x.workid x.g
    if groupReady s x && 2 ≤ span.length then
      let k := s.tick - 1
      let t := tickStart (k + 2 * maxHops s span + 1)
      State.post (s.setGroup { x with event := some t, last := s.now - 1 }) t (.frameWireEvent x.workid x.g)
    else s) s

/-- A region arrives (R349). -/
def arriveFrame (s : State) (lane : Nat) : State :=
  match laneGroup (s.lane lane) with
  | none => s
  | some (w, g) =>
    let s := s.modLane lane fun l => { l with arrived := true }
    groupCheck (s.setGroup { s.group w g with made := true }) w g

/-- A region stops being a member. -/
def leaveFrame (s : State) (w g : Nat) : State := groupCheck s w g

/-! ## Reduction rounds (R360, R361) -/

/-- One addition of a reduction tree, rounded with its flags. -/
def treeAdd (ty : FTy) (rm : RMode) (a b : Nat) : Nat × Nat :=
  let f := ffOf ty
  sumOf f rm 0 [(ffDecode f a, false), (ffDecode f b, false)]

/-- Fold values from left to right: none when there is none. -/
def treeFold (ty : FTy) (rm : RMode) : List Nat → Option (Nat × Nat)
  | [] => none
  | v :: vs => some (vs.foldl (fun a x => let r := treeAdd ty rm a.1 x; (r.1, a.2 ||| r.2)) (v, 0))

/-- The lanes of a tree's leaves, in tree order, as nested lists: die, core, leaf. -/
def treeLanes (w : Work) (t : Tree) : List (List (List Nat)) :=
  (List.range t.nvd).map fun v =>
    (List.range 16).filterMap fun vc =>
      if ((t.cmask[v]?).getD 0).testBit vc then
        some ((List.range 4).filterMap fun sl =>
          if ((t.smask[v]?).getD 0).testBit (4 * vc + sl) then
            some (laneOf ((w.vmap[v]?).getD 0 * 16 + tblGet 0 w.cmap (v * 16 + vc)) sl)
          else none)
      else none

/-- R360: the location at `pa` is reduced along the tree and applied at its home. -/
def reduceAt (s : State) (w : Work) (t : Tree) (pa : Nat) (ty : FTy) : State :=
  let dies := treeLanes w t
  let mine (lane : Nat) : List Partial :=
    (s.lane lane).partials.filter fun p => p.pa == pa && p.ty == ty && p.workid == t.workid && p.fgroup == t.fgroup
  let leaves := (dies.flatMap fun d => d.flatMap id).filter fun l => !(mine l).isEmpty
  match leaves, (leaves.head?).bind fun l => (mine l).head? with
  | l0 :: _, some p0 =>
    let rm := p0.rm
    let leafVal (lane : Nat) : Option (Nat × Nat) := treeFold ty rm ((mine lane).map (·.bits))
    let s1 := leaves.foldl (fun s l => s.orFlags l (((leafVal l).map (·.2)).getD 0) 0) s
    let coreVals := dies.map fun d => d.filterMap fun c => treeFold ty rm (c.filterMap fun l => (leafVal l).map (·.1))
    let dieVals := coreVals.filterMap fun d => (treeFold ty rm (d.map (·.1))).map fun r => (r.1, r.2 ||| d.foldl (fun a x => a ||| x.2) 0)
    match treeFold ty rm (dieVals.map (·.1)) with
    | none => s1
    | some (root, fl) =>
      let n := (ffOf ty).width / 8
      if s1.badTag pa n then raiseAt s1 l0 p0.unit p0.entry .eccUncorr 0 .late
      else
      let old := leNat (s1.readBytes p0.key pa n)
      let r := treeAdd ty rm old root
      let flags := dieVals.foldl (fun a x => a ||| x.2) (fl ||| r.2)
      let s2 := s1.chargeRead pa n
      (s2.performPiece { pa, n, data := leBytes n r.1, key := p0.key, ful := p0.ful }).orFlags l0 flags 0
  | _, _ => s

/-- R360, R361: the round of a group closes: every location is reduced, and the buffers are emptied. -/
def closeRound (s : State) (w g : Nat) : State :=
  match s.works.find? (fun x => x.workid == w), s.trees.find? (fun t => t.workid == w && t.fgroup == g) with
  | some x, some t =>
    let lanes := (treeLanes x t).flatMap fun d => d.flatMap id
    let locs := (lanes.flatMap fun l => ((s.lane l).partials.filter fun p => p.workid == w && p.fgroup == g).map fun p => (p.pa, p.ty)).eraseDups
    let s := locs.foldl (fun s y => reduceAt s x t y.1 y.2) s
    lanes.foldl (fun s l => s.modLane l fun x =>
      { x with partials := x.partials.filter fun p => !(p.workid == w && p.fgroup == g) }) s
  | _, _ => s

/-! ## Publishing (R335 to R339) -/

/-- Live dies other than one. -/
def otherDies (s : State) (d : Nat) : List Nat := s.live.filter (· != d)

/-- R336: the publish point of a flip has come, in tick `k`: the dies of `now_` see it in this cycle, the others later. -/
def flipAt (s : State) (id k : Nat) (now_ : List Nat) : State :=
  match s.flips.find? fun f => f.id == id with
  | none => s
  | some f =>
    let d0 := dieOf f.lane
    let later := s.live.filter fun d => !now_.contains d
    let s := { s with flips := s.flips.map fun x => if x.id = id then { x with when_ := some s.now, dies := s.live } else x }
    let s := now_.foldl (fun s d => s.soon (.faceFlip d id)) s
    later.foldl (fun s d => s.post (tickStart (k + 2 * hops s d0 d + 1)) (.faceFlip d id)) s

/-- R332, R336, R381: a die sees a flip: FACE and PSTAT of the buffer change at once. -/
def execFaceFlip (die flip : Nat) (s : State) : Res :=
  match s.flips.find? fun f => f.id == flip with
  | none => .next s
  | some f =>
    let flipped (b : BufSt) : BufSt :=
      if b.workid = f.workid && b.id = f.buf then
        { b with faces := tblSet 0 b.faces die (1 - tblGet 0 b.faces die), pstats := tblSet false b.pstats die f.pstat,
                 pending := if die = dieOf f.lane then false else b.pending }
      else b
    let s := { s with bufs := s.bufs.map flipped }
    let seen := s.flips.map fun (x : Flip) => if x.id = flip then { x with dies := x.dies.erase die } else x
    let left := seen.filter fun x => !(x.id == flip && x.dies.isEmpty)
    .next { s with flips := left }

/-- R350: the frame-wire event of a group: the round closes, flips fixed by its cutoff are made, members go on. -/
def execFrameWireEvent (workid group : Nat) (s : State) : Res :=
  let x := s.group workid group
  let span := groupSpan s workid group
  let s := closeRound s workid group
  let free (l : Lane) : Lane :=
    if laneGroup l = some (workid, group) && l.arrived then { l with arrived := false, awaitFrame := false } else l
  let s := { s with lanes := s.lanes.map fun (y : Nat × Lane) => (y.1, free y.2),
                    elastics := s.elastics.map fun (e : ERel) => { e with saved := e.saved.map fun (v : Saved) => { v with lane := free v.lane } } }
  let s := s.setGroup { x with event := none, made := false, steps := [], count := x.count + 1, evAt := s.now }
  let due := s.flips.filter fun (f : Flip) => f.workid == workid && f.group == group && f.when_.isNone && decide (f.done ≤ x.last)
  .next (due.foldl (fun s (f : Flip) => flipAt s f.id s.tick ((dieOf f.lane :: span).eraseDups)) s)

/-! ## `pub` (R335, R338) -/

/-- A piece lies in a buffer, its companions or its map (R23, R258). -/
def inBuf (f : Buf) (w : Nat) (p : Piece) : Bool := (bufSpans f w).any fun x => x.1 ≤ p.va && decide (p.va < x.1 + x.2)

/-- R335, step 1: a write of the lane to the buffer that fired before `before` is not performed at the scope. -/
def pubWaits (s : State) (lane : Nat) (f : Buf) (before : Nat) : Bool :=
  let core := coreOf lane
  let c := s.core core
  let w := (s.lane lane).width
  let near := decide (f.pubScope ≤ 4)
  let hit (ps : List Piece) : Bool := ps.any (inBuf f w)
  let named (k : Nat) : Bool := match s.engBnd lane k with | some x => x.f.id == f.id | none => false
  c.ports.any (fun x => x.2.queue.any fun e =>
      e.lane == lane && decide (e.id < before) && hit e.pieces &&
        !(near && e.kind == .store && e.sent.isSome && e.pieces.all fun p => p.done || pieceStaged s (core / 16) p)) ||
    c.copies.any (fun x => x.lane == lane && x.op != 3 && x.st != .faulted && decide (x.id < before) && named x.db) ||
    c.reqs.any (fun r => r.lane == lane && r.unit == 240 && decide (r.src < before) && hit r.pieces) ||
    s.flits.any (fun y => y.lane == lane && hit y.pieces && !(near && y.staged) &&
      (match y.sender with | .port _ _ _ | .step _ => false | z => decide (z.num < before))) ||
    (s.lane lane).flights.any fun y => decide (y.id < before) &&
      match y.land with | .epw b _ _ | .fxout b _ | .fpop b _ => named b | _ => false

/-- The binding through which a block's `pub` reaches a buffer: one that writes it, else any. -/
def pubBnd (s : State) (lane buf : Nat) : Option Bnd :=
  let bs := (s.bnds lane).filter fun x => x.f.id == buf
  match bs.find? fun x => x.b.dir == 1 || x.b.dir == 2 with
  | some x => some x
  | none => bs.head?

/-- The address of byte `off` of plane `p` of a face, translated as the buffer's own. -/
def bufPa (s : State) (lane : Nat) (x : Bnd) (va : Nat) : Option (Nat × Attr) :=
  let wins := if (s.lane lane).cwin.isEmpty then (s.lane lane).hwin else (s.lane lane).cwin
  match s.paAt lane wins x.b.hwin va, s.attrAt lane .copy wins x.b.hwin va with
  | some pa, some a => some (pa, a)
  | _, _ => none

/-- The granules of a MERGE buffer not marked dirty. -/
def cleanGranules (s : State) (lane : Nat) (x : Bnd) : List Nat :=
  let w := (s.lane lane).width
  (List.range (x.f.size / 64)).filter fun g =>
    match bufPa s lane x (mapVa x.f w (64 * g)) with
    | some (pa, a) => !s.dirtyBit (dieOf lane) a.key pa (g % 8)
    | none => false

/-- R335, step 2: one granule from the live face to the shadow, in every plane. -/
def mergeGranule (s : State) (lane : Nat) (x : Bnd) (live g : Nat) : State :=
  let w := (s.lane lane).width
  (planesFor x w).foldl (fun s p =>
    match bufPa s lane x (x.f.vaddr + planeOff x.f w live p + 64 * g), bufPa s lane x (x.f.vaddr + planeOff x.f w (1 - live) p + 64 * g) with
    | some (src, a), some (dst, b) =>
      let bs := s.viewBytes (dieOf lane) a.key src 64
      (s.chargeRead src 64).writeBytes b.key b.ful dst bs
    | _, _ => s) s

/-- Clear a dirty map (R335, R339). -/
def clearMap (s : State) (lane : Nat) (x : Bnd) : State :=
  let w := (s.lane lane).width
  (List.range (mapBytes x.f)).foldl (fun s k =>
    match bufPa s lane x (mapVa x.f w 0 + k) with
    | some (pa, a) => if s.readByte a.key pa = 0 then s else s.writeBytes a.key false pa [0]
    | none => s) s

/-- Cycles of the MERGE copy (R335): 256 bytes a cycle in the scratchpad and on-die buffer; a free time in DRAM. -/
def mergeTime (s : State) (lane : Nat) (x : Bnd) (n : Nat) : Nat × State :=
  match bufPa s lane x x.f.vaddr with
  | some (pa, _) =>
    match s.homeOf pa with
    | .dram _ => let (c, s) := s.free; (s.now + 1 + Config.dramDelay c, s)
    | _ => (s.now + (n * 64 + 255) / 256, s)
  | none => (s.now, s)

/-- The state a work keeps of a buffer. -/
def State.bufSt (s : State) (w id : Nat) : BufSt := (s.bufs.find? fun b => b.workid == w && b.id == id).getD { workid := w, id }

def State.setBuf (s : State) (x : BufSt) : State :=
  { s with bufs :=
      if s.bufs.any fun y => y.workid == x.workid && y.id == x.id then
        s.bufs.map fun y => if y.workid == x.workid && y.id == x.id then x else y
      else s.bufs ++ [x] }

/-- R335, steps 3 and 4: the publish point is fixed. -/
def fixPublish (s : State) (lane : Nat) (f : Buf) : State :=
  let l := s.lane lane
  match l.rel with
  | none => s
  | some r =>
    let (id, s) := s.fresh
    let fb := r.kind == .fallback
    let flip : Flip := { id, workid := r.entry.workid, buf := f.id, lane, group := r.entry.fgroup, pkScope := f.pubScope == 5,
                         pstat := fb, done := s.now, when_ := if l.run then none else some (tickStart (s.tick + 1)), dies := s.live }
    let s := { s with flips := s.flips ++ [flip] }
    let s := s.setBuf { s.bufSt r.entry.workid f.id with pending := true }
    let s := s.modLane lane fun l => { l with pubSt := none, rel := l.rel.map fun r =>
      { r with wrote := r.wrote.erase f.id, published := some fb,
               publishedBufs := if r.publishedBufs.contains f.id then r.publishedBufs else f.id :: r.publishedBufs } }
    if l.run then s
    else
      let k := s.tick
      let s := s.post (tickStart (k + 1)) (.faceFlip (dieOf lane) id)
      (otherDies s (dieOf lane)).foldl (fun s d => s.post (tickStart (k + 2 * hops s (dieOf lane) d + 1)) (.faceFlip d id)) s

/-- The end of a `pub`: the MERGE copy has been made, and the publish point is fixed. -/
def pubEnd (s : State) (lane : Nat) (x : Bnd) : State :=
  if x.f.mode = 1 then
    let live := s.face (dieOf lane) (s.workOf lane) x.f.id
    fixPublish (clearMap ((cleanGranules s lane x).foldl (fun s g => mergeGranule s lane x live g) s) lane x) lane x.f
  else fixPublish s lane x.f

/-- A `pub` that has waited for the accesses before `before`, or still waits for them. -/
def pubWait (s : State) (lane : Nat) (x : Bnd) (before : Nat) : State × Bool :=
  let hold (t : Option Nat) (s : State) : State × Bool := (s.modLane lane fun l => { l with pubSt := some (before, t) }, false)
  if pubWaits s lane x.f before then hold none s
  else if x.f.mode = 1 then
    let n := (cleanGranules s lane x).length * (planesFor x (s.lane lane).width).length
    let (t, s) := mergeTime s lane x n
    if t ≤ s.now then (pubEnd s lane x, true) else hold (some t) s
  else (pubEnd s lane x, true)

/-- R335, R338: one attempt of a `pub` step: none is PUBLISH, true that it completed. -/
def pubTry (s : State) (lane buf : Nat) : Option (State × Bool) :=
  match pubBnd s lane buf with
  | none => some (s, true)
  | some x =>
    if x.f.mode = 2 then some (s, true)
    else
      match (s.lane lane).pubSt with
      | none => if (s.bufSt (s.workOf lane) buf).pending then none else some (pubWait s lane x s.nextId)
      | some (before, none) => some (pubWait s lane x before)
      | some (_, some t) => some (if s.now < t then (s, false) else (pubEnd s lane x, true))

/-- The buffers a block writes: WHOLE and MERGE (R18, R339). -/
def writtenBufs (s : State) (lane : Nat) : List Bnd :=
  (s.bnds lane).filter fun x => x.f.mode != 2 && (x.b.dir == 1 || x.b.dir == 2)

/-- R339, R378: shadows abandoned: maps cleared, pending flips of the lane's release cancelled. -/
def abandonBufs (s : State) (lane : Nat) : State :=
  let w := s.workOf lane
  let s := (writtenBufs s lane).foldl (fun s x => if x.f.mode = 1 then clearMap s lane x else s) s
  let mine (f : Flip) : Bool :=
    f.lane == lane && f.workid == w && (match f.when_ with | none => true | some t => decide (s.now < t))
  let gone := s.flips.filter mine
  let s := { s with flips := s.flips.filter fun f => !mine f }
  let s := gone.foldl (fun s f => s.setBuf { s.bufSt w f.buf with pending := false }) s
  s.modLane lane fun l =>
    { l with pubSt := none, partials := l.partials.filter fun p => p.workid != w, rel := l.rel.map fun r =>
        let left := r.publishedBufs.filter fun b => !gone.any fun f => f.buf == b
        { r with publishedBufs := left, published := if left.isEmpty then none else r.published, wrote := [] } }

/-- R381: a release that ends without publishing a buffer it writes sets its PSTAT on every live die, without a flip. -/
def unrenewed (s : State) (lane : Nat) : State :=
  match (s.lane lane).rel with
  | none => s
  | some r =>
    (writtenBufs s lane).foldl (fun s x =>
      if r.publishedBufs.contains x.f.id then s
      else
        let b := s.bufSt r.entry.workid x.f.id
        s.setBuf { b with pstats := s.live.foldl (fun t d => tblSet false t d true) b.pstats }) s

/-! ## Delivery of writes in transit (R134, R135, R316) -/

/-- R135: an earlier write of the same route, still to come, overwrites nothing that this one has delivered. -/
def Flit.overtakes (f : Flit) (bytes : List Nat) (g : Flit) : Flit :=
  if g.staged && f.staged && g.src == f.src && g.dst == f.dst && g.id < f.id then { g with overtaken := (g.overtaken ++ bytes).eraseDups } else g

/-- R134, R342: a write arrives at its home: the entry or engine that sent it sees it performed. A late flit's bytes are
remembered until a reader meets them. -/
def execFlitDelivery (flit : Nat) (late : Bool) (s : State) : Res :=
  match s.flits.find? fun f => f.id == flit with
  | none => .next s
  | some f =>
    if f.pieces.any fun p => s.asleep p.pa then .next (s.post (s.now + 120) (.flitDelivery flit late))
    else
    let bytes := (f.pieces.flatMap fun (p : Piece) => (List.range p.n).map fun k => p.pa + k).filter fun a => !f.overtaken.contains a
    let kept := if f.pieces.all fun p => p.data.isEmpty then [] else f.overtaken.map fun a => (a, memGet s.mem a)
    let s := { s with flits := (s.flits.filter fun (x : Flit) => x.id != flit).map (f.overtakes bytes) }
    let s := match f.sender with
      | .port core row ent =>
        match ((s.core core).port row).queue with
        | e :: _ =>
          if e.id = ent then performHead s core row fun p => f.pieces.any fun q => q.pa == p.pa && q.lane == p.lane && q.plane == p.plane
          else s
        | [] => s
      | .step lane =>
        let s := s.performPieces f.pieces
        (match (s.lane lane).heldReq with | some id => s.setReady (coreOf lane) id s.now | none => s)
      | _ => s.performPieces f.pieces
    -- what a later flit of the route has delivered stays
    let (key, ful) := match f.pieces with | p :: _ => (p.key, p.ful) | [] => (0, false)
    let s := kept.foldl (fun s y => s.putBytes key ful y.1 [y.2]) s
    .next (if late then { s with lateData := s.lateData ++ [bytes] } else s)

/-! ## Landing (R184, R187) -/

/-- Bits of a value under a mask. -/
def blend (mask old new : V128) : V128 := (old &&& ~~~mask) ||| (new &&& mask)

/-- A masked value with its tag and planes. -/
def blendVal (mask : V128) (bits : Option V128) (tag : Option Bool) (planes : List (Nat × V128)) (v : Val) : Val :=
  { bits := match bits with | some b => blend mask v.bits b | none => v.bits,
    scaled := tag.getD v.scaled,
    planes := planes.foldl (fun t p => tblSet 0 t p.1 (blend mask (v.plane p.1) p.2)) v.planes }

/-- R183: the landing of a hold-marked edge result waits for the FRESH bit to clear. -/
def edgeBlocked (c : Core) (f : Flight) : Bool :=
  f.hold && match f.land with
    | .port row _ => (c.port row).latch.fresh
    | .edge north col _ => (tblGet ({} : EdgeLatch) (if north then c.north else c.south) col).fresh
    | _ => false

/-- A flight may land: its memory reply has come, its edge latch is free (R183, R184) and no page blocks its writes (R163). -/
def landReady (s : State) (lane : Nat) (f : Flight) : Bool :=
  let c := s.core (coreOf lane)
  !edgeBlocked c f &&
    match f.land with
    | .port _ id | .fxin _ id =>
      (match c.reqs.find? fun r => r.id == id with | some r => r.ready && decide (r.readyAt ≤ s.now) | none => true)
    | .epw _ ps _ | .fxout _ ps | .fpop _ ps => !ps.any (·.wblk)
    | _ => true

/-- The latch or wires that a result which may come late writes; 0 is none. Results on one of them land in the order
their entries fired (R187, R297). -/
def lateDest : Land → Nat
  | .port row _ => 1 + row
  | .edge north _ _ => if north then 16 else 17
  | .wires _ _ | .fxin _ _ => 18
  | _ => 0

/-- R288, R299: what a stopped block's matrix and Felt entries have fired completes at the stop. -/
def completesAtStop : Land → Bool
  | .row _ _ | .mmz _ | .radv | .fctx _ | .wires _ _ | .fxin _ _ | .fxout _ _ | .fpop _ _ | .fclrCtx _ => true
  | _ => false

/-- A result's time has come. -/
def flightDue (l : Lane) (f : Flight) : Bool :=
  match l.stop with
  | .saving _ _ => completesAtStop f.land
  | .restoring _ => false
  | _ => decide (f.due ≤ l.pos)

/-- R5, R187: the results that land now, of those of a lane in firing order: all that one entry sent at once, and none
before an earlier one on the same late destination. -/
def landing (s : State) (lane : Nat) (all : List Flight) : List Flight → List Nat → List Flight
  | [], _ => []
  | f :: r, blocked =>
    let d := lateDest f.land
    if !flightDue (s.lane lane) f then landing s lane all r blocked
    else if !blocked.contains d &&
        (all.filter fun g => g.unit == f.unit && g.entry == f.entry && g.due == f.due).all (landReady s lane) then
      f :: landing s lane all r blocked
    else landing s lane all r (if d = 0 then blocked else d :: blocked)

/-- The results of a lane that land now. -/
def landingNow (s : State) (lane : Nat) : List Flight := let fs := (s.lane lane).flights; landing s lane fs fs []

/-- The bits that later-fired results landing with one on the same file slot, or on the same latch, take over. -/
def overMask (u : Nat) (slot : Option Nat) (later : List Flight) : V128 :=
  later.foldl (fun m g => match g.land with
    | .elem v k latch mask _ _ _ => if v = u && (match slot with | some n => k == some n | none => latch) then m ||| mask else m
    | _ => m) 0

/-- What a result does at its result time; `later` are the later-fired results that land with it (R187, R255). -/
def landOne (s : State) (lane : Nat) (f : Flight) (later : List Flight) : State :=
  let core := coreOf lane
  let s := s.orFlags lane f.nflags f.tflags
  let l := s.lane lane
  match f.land with
  | .elem u slot latch mask bits tag planes =>
    s.modCore core fun c =>
      let e := c.elem u
      let b (lanes : V128) (v : Val) : Val := if mask &&& ~~~lanes = 0 then v else blendVal (mask &&& ~~~lanes) bits tag planes v
      let e := match slot with | some k => { e with file := tblPut e.file k (b (overMask u (some k) later) (tblGet {} e.file k)) } | none => e
      c.setElem u (if latch then { e with latch := b (overMask u none later) e.latch } else e)
  | .pred u p mask bits =>
    s.modCore core fun c =>
      let e := c.elem u
      let old := tblGet (0 : BitVec 16) e.preds p
      c.setElem u { e with preds := tblPut e.preds p ((old &&& ~~~mask) ||| (bits &&& mask)) }
  | .const u bank k mask bits tag =>
    let s := s.modLane lane fun l => l.setBank bank { l.bank bank with dirty := true }
    s.modCore core fun c =>
      let e := c.elem u
      let old := tblGet ({} : Val) e.consts (bank * 16 + k)
      c.setElem u { e with consts := tblPut e.consts (bank * 16 + k) { bits := blend mask old.bits bits, scaled := tag, planes := [] } }
  | .token ch =>
    s.modCore core fun c => (listeners c l (slotOf lane) ch).foldl (fun c u =>
      let e := c.elem u
      c.setElem u { e with tokens := tblPut e.tokens ch (tblGet 0 e.tokens ch + 1) }) c
  | .gen tile ctr stride run imm => s.modCore core fun c => c.setGen tile (genLand (c.gen tile) ctr stride run imm)
  | .port row req => presentReply s lane f.unit f.entry row req
  | .edge north col val =>
    s.modCore core fun c =>
      if north then { c with north := tblPut c.north col { val, fresh := true } }
      else { c with south := tblPut c.south col { val, fresh := true } }
  | .row inst j => (s.modCore core fun c => { c with landing := c.landing ++ [(inst, j)] }).soon (.matrixStepLand core)
  | .mmz acc => s.modCore core fun c => ringZero c l.width (modeOf acc) 16 16
  | .radv =>
    let (c, sat) := ringAdvance (s.core core) l.width
    (s.setCore core c).orFlags lane (fIf sat fSAT) 0
  | .pop n => s.modCore core fun c => ringPop c l.width n
  | .epc g => s.modCore core fun c => { c with epc := some g }
  | .vec bias v planes =>
    s.modCore core fun c =>
      if bias then { c with bias := v, biasT := planes.foldl (fun t p => tblSet [] t p.1 p.2) [] } else { c with scale := v }
  | .epw _ ps pops => landEpw s lane f.entry f.id ps pops
  | .fctx ctx => s.modFelt core fun x => { x with active := some ctx, pendAct := if x.pendAct = some ctx then none else x.pendAct }
  | .wires first planes =>
    s.modFelt core fun x =>
      { x with wires := (List.range planes.length).foldl (fun t k => tblSet 0 t (first + k) ((planes[k]?).getD 0)) x.wires }
  | .fxin o req => landFxin s lane f.entry o req
  | .fxout _ ps => landFelt s lane f.entry f.id ps
  | .fpop _ ps => landFelt s lane f.entry f.id ps
  | .fclrCtx ctx =>
    s.modFelt core fun x =>
      { x with ctxs := tblSet .empty x.ctxs ctx .empty,
               cells := (x.cells.filter fun y => y.1 / 4096 == ctx && y.2.bad).foldl (fun t y => tblSet {} t y.1 { y.2 with bad := false }) x.cells }
  | .arrive key bar => putArrival s lane key bar f.entry f.id
  | .none => s

/-- Land results in order. -/
def landAll (lane : Nat) : List Flight → State → State
  | [], s => s
  | f :: r, s => landAll lane r (landOne s lane f r)

/-- R187: the results of a lane whose time has come land, in the order their entries fired, the later one being kept. -/
def execResultLand (lane : Nat) (s : State) : Res :=
  let due := landingNow s lane
  .next (landAll lane due (s.modLane lane fun x => { x with flights := x.flights.filter fun f => !due.any fun g => g.id == f.id }))

/-! ## The counter's wrap and a region's end (R171, R180, R190) -/

/-- R171: every unit of the region moves to the other bank. -/
def swapNow (s : State) (lane : Nat) : State :=
  let l := s.lane lane
  let b := 1 - l.act
  let s := s.setLane lane { l.setBank b { l.bank b with dirty := true } with act := b, armed := false, recs := [] }
  s.modCore (coreOf lane) fun c =>
    { c with elems := c.elems.map fun y => if c.ownedBy y.1 (slotOf lane) then (y.1, { y.2 with recs := [], tokens := [] }) else y }

/-- R180, R190: the wrap that ends an interval (after the run's last, the counter only goes on); at the end of a frame the region arrives, an armed swap takes effect,
and unless the run ends the next frame awaits the frame wire. -/
def execIntervalWrap (lane : Nat) (s : State) : Res :=
  let l := s.lane lane
  if l.ended then .next (s.setLane lane { l with ccyc := 0 })
  else
  let ended := decide (l.intdone + 1 = l.trips)
  let s := s.setLane lane { l with ccyc := 0, intdone := l.intdone + 1, base := (l.base + 1) % 24, blockInt := l.blockInt + 1,
                                   frameLeft := l.frameLeft - 1, ended }
  if l.frameLeft = 1 || ended then
    let whole := l.frameLeft = 1
    let s := if l.armed && whole then swapNow s lane else s
    let s := s.modLane lane fun x => { x with frameLeft := x.hdr.frameInt, awaitFrame := !ended, capNew := true }
    .next (arriveFrame s lane)
  else .next s

/-- R190: the region ends: RUN clears, and a swap still armed takes effect (R171). -/
def execRegionEnd (lane : Nat) (s : State) : Res :=
  let l := s.lane lane
  let s := if l.armed then swapNow s lane else s
  let s := s.modLane lane fun x => { x with run := false, ended := false, awaitFrame := false, arrived := false }
  .next (match laneGroup l with | some (w, g) => leaveFrame s w g | none => s)

/-- R170: a configuration load is complete. -/
def execBankReady (lane bank : Nat) (s : State) : Res :=
  let b := (s.lane lane).bank bank
  if b.st = .loading && b.readyAt ≤ s.now then .next (s.modLane lane fun l => l.setBank bank { b with st := .ready })
  else .next s

end Sys2Proof.Machine
end

