-- ==== Sys2Proof/Machine/Sequencer.lean ====
section
/-! DEFINITION. The block sequencer (R164 to R181): step completion, loops and branches, configuration loads, bank
steps, q-register steps, memory steps, system registers, operand-slot steps, barrier, frame, publish and fence steps,
traps, breakpoints and retirement (R389, R390, R399, R400). -/

namespace Sys2Proof.Machine

/-! ## Completion of a step (R173, R177, R178) -/

/-- The end test of R178 for a completed step: the loops that remain, and the next step. -/
def endTest : List LoopEnt → Nat → List LoopEnt × Nat
  | [], i => ([], i + 1)
  | e :: r, i =>
    if e.last = i then (if 1 < e.n then ({ e with n := e.n - 1 } :: r, e.start) else endTest r i) else (e :: r, i + 1)

/-- The end test runs with index `i`, and the context goes on. -/
def Lane.testEnd (l : Lane) (i : Nat) : Lane :=
  let r := endTest l.loops i
  { l with loops := r.1, sp := r.2, seq := .run }

/-- The step under way completes: inside an arm no test is run but after its last step (R177, R178). -/
def Lane.stepDone (l : Lane) : Lane :=
  match l.arm with
  | some (_, last_) => if l.sp = last_ then { l with arm := none }.testEnd last_ else { l with sp := l.sp + 1, seq := .run }
  | none => l.testEnd l.sp

/-- The step under way completes. -/
def stepNext (s : State) : State := s.modLane s.cur.lane Lane.stepDone

/-- The step under way waits; it stands since its first issue. -/
def stepWait (s : State) : State :=
  s.modLane s.cur.lane fun l => { l with seq := match l.seq with | .wait t => .wait t | _ => .wait s.now }

/-- The step under way issues for the first time. -/
def stepFirst (s : State) : Bool := match (s.lane s.cur.lane).seq with | .wait _ => false | _ => true

/-- A step that writes a q register and completes. -/
def stepSetQ (s : State) (r : Nat) (v : W64) : Res := .next (stepNext (s.modLane s.cur.lane fun l => l.setQ r v))

/-- A step that waits until a condition holds. -/
def stepUntil (s : State) (c : Bool) : Res := .next (if c then stepNext s else stepWait s)

def execStepNop (s : State) : Res := .next (stepNext s)
def execSetq (qd : Nat) (imm : Int) (s : State) : Res := stepSetQ s qd (BitVec.ofInt 64 imm)
def execAddq (qd qa qb : Nat) (s : State) : Res :=
  stepSetQ s qd ((s.lane s.cur.lane).getQ qa + (s.lane s.cur.lane).getQ qb)
def execAddqImm (qd qa : Nat) (imm : Int) (s : State) : Res :=
  stepSetQ s qd ((s.lane s.cur.lane).getQ qa + BitVec.ofInt 64 imm)

/-- The relation of a `cmpq`. -/
def qcond (c : QCond) (a b : W64) : Bool :=
  match c with
  | .eq => a == b
  | .ne => a != b
  | .lt => a.slt b
  | .ge => !a.slt b
  | .ltu => a.ult b
  | .geu => !a.ult b

def execCmpq (c : QCond) (qd qa qb : Nat) (s : State) : Res :=
  stepSetQ s qd (if qcond c ((s.lane s.cur.lane).getQ qa) ((s.lane s.cur.lane).getQ qb) then 1 else 0)

def execTick (qd : Nat) (s : State) : Res := stepSetQ s qd (BitVec.ofNat 64 s.tick)

/-! ## Branches and loops -/

/-- The condition of a `brs`. -/
def bcond (c : BCond) (a : W64) : Bool :=
  match c with
  | .z => a == 0
  | .nz => a != 0
  | .neg => a.msb
  | .nneg => !a.msb

/-- R178: the loops left when an arm starts at `tgt`: one whose body `tgt` lies outside goes, with all nested in it. The
list is innermost first. -/
def popOutside (tgt : Nat) : List LoopEnt → List LoopEnt
  | [] => []
  | e :: r =>
    let r' := popOutside tgt r
    if r'.length = r.length && e.start ≤ tgt && tgt ≤ e.last then e :: r' else r'

def execBrs (qa : Nat) (c : BCond) (tgt len : Nat) (s : State) : Res :=
  .next (s.modLane s.cur.lane fun l =>
    if bcond c (l.getQ qa) then
      { l with sp := tgt, seq := .run, arm := some (tgt, tgt + len - 1), loops := popOutside tgt l.loops }
    else { l with arm := some (l.sp + 1, l.sp + len), sp := l.sp + 1, seq := .run })

/-- R178: a loop pushed, or replaced where its step already has an entry. -/
def pushLoop (e : LoopEnt) (st : List LoopEnt) : List LoopEnt :=
  if st.any fun x => x.src == e.src then st.map fun x => if x.src = e.src then e else x else e :: st

def execLoop (qc last : Nat) (s : State) : Res :=
  .next (s.modLane s.cur.lane fun l =>
    let n := (l.getQ qc).toNat
    if n = 0 then { l with seq := .skip (last - l.sp) last }
    else { l with loops := pushLoop ⟨l.sp, l.sp + 1, last, n⟩ l.loops, sp := l.sp + 1, seq := .run })

/-! ## Configuration loads (R164 to R172) -/

/-- The units of a rectangle record at an origin (R19, R169). -/
def rectUnits (org : Nat × Nat) (r : Rect) : List Nat :=
  let rows := (List.range r.rows).map fun (k : Nat) => r.row + k
  match r.kind with
  | 0 => rows.flatMap fun i => (List.range r.cols).map fun (k : Nat) => uElem (org.1 + i) (org.2 + r.col + k)
  | 1 => rows.map fun i => uPort (org.1 + i)
  | 2 => rows.map fun i => uGen (org.1 + i)
  | _ => rows.map uEng

/-- The records a `cfg`, or a `cfgx` of one record, loads. -/
def loadRects (i : Image) (only : Option Nat) : List (Nat × Rect) :=
  ((List.range i.rects.length).zip i.rects).filter fun x => match only with | some k => x.1 == k | none => true

def constsOf (c : Container) (img rect : Nat) : List ConstRec := c.consts.filter fun k => k.img == img && k.rect == rect

def patOf (i : Image) (r : Rect) : Pattern := (i.pats[r.pat]?).getD default

/-- R170: cycles of a load. -/
def loadCycles (c : Container) (img : Nat) (i : Image) (only : Option Nat) : Nat :=
  (loadRects i only).foldl (fun a x =>
    let p := patOf i x.2
    a + 4 + p.entries.length * p.words + 2 * (constsOf c img x.1).length) 24

/-- The engine-list records of a lane's block (R21). -/
def engsOf (s : State) (lane : Nat) : List EngRec :=
  match s.contOf lane, s.blockOf lane with
  | some c, some b => (c.engs.drop b.engFirst).take b.engCount
  | _, _ => []

/-- R169: a unit another slot owns, or an engine another slot's running region binds. -/
def unitTaken (s : State) (lane u : Nat) : Bool :=
  let o := tblGet 0 (s.core (coreOf lane)).owner u
  (o != 0 && o != slotOf lane + 1) ||
    (80 ≤ u && (List.range 4).any fun k =>
      let m := laneOf (coreOf lane) k
      k != slotOf lane && (s.lane m).run &&
        (engsOf s m).any fun e => e.img == (s.lane m).hdr.img && e.eng.testBit (u - 80))

/-- The region would leave the array (R169). -/
def outOfArray (org : Nat × Nat) (i : Image) : Bool := decide (8 < org.1 + i.rows) || decide (8 < org.2 + i.cols)

/-- The state of a unit that a slot comes to own. -/
def clearUnit (c : Core) (u : Nat) : Core :=
  if u < 64 then { c with elems := tblDel c.elems u }
  else if u < 72 then c.setPort (u - 64) { c.port (u - 64) with latch := {}, ahead := [] }
  else if u < 80 then { c with gens := tblDel c.gens (u - 72) }
  else if u = 81 then { c with north := [], epc := none, scale := [], bias := [], biasT := [] }
  else if u = 83 then { c with south := [] }
  else c

/-- A unit becomes owned by a slot (R169). -/
def ownUnit (slot : Nat) (c : Core) (u : Nat) : Core :=
  if c.ownedBy u slot then c else { clearUnit c u with owner := tblSet 0 c.owner u (slot + 1) }

/-- The constant registers of a bank as a load leaves them (R166). -/
def loadConsts (ks : List ConstRec) (bank : Nat) (e : Elem) : Elem :=
  { e with consts := (List.range 16).foldl (fun t k =>
      match ks.find? fun r => r.k == k with
      | some r => tblSet {} t (bank * 16 + k) ({ bits := r.value } : Val)
      | none => tblDel t (bank * 16 + k)) e.consts }

/-- One record's pattern and constants into a bank of its units. -/
def loadRect (slot bank img : Nat) (org : Nat × Nat) (i : Image) (ks : List ConstRec) (c : Core) (r : Rect) : Core :=
  (rectUnits org r).foldl (fun c u =>
    let c := ((ownUnit slot c u).setList u bank (patOf i r).entries).setSrc u bank img
    if u < 64 then c.setElem u (loadConsts ks bank (c.elem u)) else c) c

/-- R170: load an image, or one record of it, into a bank of a lane's region. -/
def loadBank (s : State) (lane bank img : Nat) (k : Container) (i : Image) (only : Option Nat) : State :=
  let l := s.lane lane
  let slot := slotOf lane
  let recs := loadRects i only
  let mine := recs.flatMap fun x => rectUnits l.org x.2
  let s := s.modCore (coreOf lane) fun c =>
    let c := if only.isSome then c
      else c.owner.foldl (fun c y => if y.2 = slot + 1 && !mine.contains y.1 then c.setList y.1 bank [] else c) c
    recs.foldl (fun c x => loadRect slot bank img l.org i (constsOf k img x.1) c x.2) c
  -- R364: the channel carries one load at a time
  let begun := ([0, 1].map l.bank).foldl (fun a b => if b.st = .loading then max a b.readyAt else a) (s.now + 1)
  let ready := begun + loadCycles k img i only
  let s := s.modLane lane fun l => l.setBank bank
    { st := .loading, rows := i.rows, cols := i.cols, ii := i.ii, frameInt := i.frameInt, afgar := i.afgar, img,
      dirty := only.isSome, readyAt := ready }
  s.post ready (.bankReady lane bank)

/-- A region image is resident (R164). -/
def isResident (s : State) (cont img : Nat) : Bool := s.resident.any fun r => r.cont == cont && r.img == img

/-- R167: an elastic block meets an image that is not resident: the request is posted and the block is to stop. -/
def suspendImage (s : State) (lane cont img : Nat) : State :=
  if (s.lane lane).stop = .none then
    let s := s.note 0x23 (dieOf lane) (coreOf lane % 16) 0xFD (s.workOf lane) 0 (cont * 2 ^ 16 + img) 0 0
    (s.modLane lane fun l => { l with suspImg := (cont, img) }).soon (.elasticStop lane .image)
  else s

/-- `cfg` and `cfgx`. -/
def stepCfg (s : State) (bank img : Nat) (only : Option Nat) : Res :=
  let lane := s.cur.lane
  let l := s.lane lane
  let b := l.bank bank
  if l.prefetched.isSome then .next (stepNext (s.modLane lane fun l => { l with prefetched := none }))
  else if (l.run && bank == l.act) || (l.armed && bank != l.act) || b.st == .loading then .next (stepWait s)
  else
    match (s.workRec lane).bind fun w => (s.conts[w.cont]?).bind fun c => (c.images[img]?).map fun i => (w.cont, c, i) with
    | none => .next (raiseStep s .imageAbsent img)
    | some (k, c, i) =>
      if !s.isFirm lane && !isResident s k img then .next (stepWait (suspendImage s lane k img))
      else
        let units := (loadRects i only).flatMap fun x => rectUnits l.org x.2
        let differs := only.isSome && b.st != .empty && (b.rows != i.rows || b.cols != i.cols)
        if outOfArray l.org i || units.any (unitTaken s lane) || differs then .next (raiseStep s .overlap)
        else .next (stepNext (loadBank s lane bank img c i only))

def execCfg (_rs bank img : Nat) (s : State) : Res := stepCfg s bank img none
def execCfgx (_rs bank img rect : Nat) (s : State) : Res := stepCfg s bank img (some rect)

/-- R172: the table unit performs step 0 of the next firm block of a lane ahead of its start. -/
def execConfigPrefetch (lane entry : Nat) (s : State) : Res :=
  let l := s.lane lane
  let busy := l.rel.isSome && !l.retired
  let found : Option (Nat × Container × Nat × Nat × Image) := do
    let (w, e) ← s.works.findSome? fun w => (w.entries.find? fun e => e.lane == lane && entryKey e == entry && !e.elastic).map fun e => (w, e)
    let c ← s.conts[w.cont]?
    let b ← c.block e.block
    let word ← (← c.progs[b.seq]?).head?
    match decodeStep word with
    | .ok (.cfg _ bank img) => (c.images[img]?).map fun i => (w.cont, c, bank, img, i)
    | _ => none
  match found with
  | none => .next s
  | some (k, c, bank, img, i) =>
    let units := (loadRects i none).flatMap fun x => rectUnits (0, 0) x.2
    if busy || l.stop != .none || (l.bank bank).st != .empty || !isResident s k img || outOfArray (0, 0) i ||
        units.any (fun u => tblGet 0 (s.core (coreOf lane)).owner u != 0 || unitTaken s lane u) then .next s
    else .next (loadBank (s.modLane lane fun l => { l with org := (0, 0), prefetched := some entry }) lane bank img c i none)

/-! ## Banks and runs (R170, R171, R174) -/

def execSwap (_rs : Nat) (s : State) : Res :=
  let lane := s.cur.lane
  let l := s.lane lane
  let other := l.bank (1 - l.act)
  if other.st = .loading || l.armed then .next (stepWait s)
  else if other.st = .empty then .next (raiseStep s .imageAbsent)
  else if l.run then .next (stepNext (s.modLane lane fun l => { l with armed := true }))
  else .next (stepNext (s.modLane lane fun l => { l with act := 1 - l.act }))

/-- R145, R147: a firm run's windows hold a reserved combination. -/
def windowsBad (ws : List Win) : Bool := ws.any fun w => Win.valid w && comboBad (winAttr w.attr)

/-- The binding an entry of a port or of the Felt names. -/
def bselOf : Instr → Option Nat
  | .ld o | .st o | .ldg o | .stg o | .aadd o | .amin o | .atomicMax o | .aand o | .aor o | .axor o | .axch o | .acas o
  | .radd o | .rmin o | .rmax o => some o.bsel
  | .fldt _ _ b _ _ _ => some b
  | .fxin o | .fxout o => some o.bsel
  | .fpop _ b _ _ _ _ _ => some b
  | _ => none

/-- The generator a port entry takes from, counted from its region's first row (R305). -/
def agenOf : Instr → Option Nat
  | .ld o | .st o | .ldg o | .stg o | .aadd o | .amin o | .atomicMax o | .aand o | .aor o | .axor o | .axch o | .acas o
  | .radd o | .rmin o | .rmax o => some o.agen
  | _ => none

/-- R304, R306: a generator tile serves a lane: its slot owns the tile, or no slot does and a port of the slot takes from
it. One without a list keeps its counts of 1 and strides of 0. -/
def State.servesGen (s : State) (lane k : Nat) : Bool :=
  let c := s.core (coreOf lane)
  let names (w : Nat) : Bool := match decodePort w with
    | .ok i => (agenOf i).map ((s.lane lane).org.1 + ·) == some k
    | .error _ => false
  c.ownedBy (uGen k) (slotOf lane) || (tblGet 0 c.owner (uGen k) == 0 &&
    (List.range 8).any fun r => c.ownedBy (uPort r) (slotOf lane) && ((c.list (uPort r) 0).any names || (c.list (uPort r) 1).any names))

/-- R147, R292, R303, R309: an entry and the attributes of its page or window form a reserved combination. -/
def comboMeets (i : Instr) (a : Attr) : Bool :=
  match i with
  | .ld o | .st o | .ldg o | .stg o => pairOf o.ty a = .reserved
  | .aadd o | .amin o | .atomicMax o | .aand o | .aor o | .axor o | .axch o | .acas o | .radd o | .rmin o | .rmax o =>
    pairOf o.ty a != .raw
  | .fldt .. | .fxin _ | .fxout _ | .fpop .. => a.scl == 1
  | _ => false

/-- The captured window through which a binding's buffer is reached. -/
def bndWin (ws : List Win) (x : Bnd) : Option Win :=
  if x.b.hwin != 0xFF then (ws[x.b.hwin]?).filter Win.valid else ws.find? fun w => winHit w x.f.vaddr

/-- R147: a stream of a region about to run reaches its buffer through a window of a reserved format. -/
def runCombo (s : State) (lane : Nat) : Bool :=
  let c := s.core (coreOf lane)
  let l := s.lane lane
  let meets (x : Option Bnd) (i : Instr) : Bool :=
    match x with
    | some x => match bndWin l.hwin x with | some w => comboMeets i (winAttr w.attr) | none => false
    | none => false
  let port (r : Nat) : Bool := c.ownedBy (uPort r) (slotOf lane) && (c.list (uPort r) l.act).any fun w =>
    match (decodePort w).toOption with
    | some i => match bselOf i with | some k => meets (s.portBnd lane r k) i | none => false
    | none => false
  let felt : Bool := c.ownedBy (uEng 3) (slotOf lane) && (c.list (uEng 3) l.act).any fun w =>
    match (decodeEngine 3 w).toOption with
    | some i => match bselOf i with | some k => meets (s.engBnd lane k) i | none => false
    | none => false
  (List.range 8).any port || felt

/-- Every unit's arrival records and token counts cleared (R218, R354). -/
def clearRecs (s : State) (lane : Nat) : State :=
  (s.modLane lane fun l => { l with recs := [] }).modCore (coreOf lane) fun c =>
    { c with elems := c.elems.map fun (y : Nat × Elem) => if c.ownedBy y.1 (slotOf lane) then (y.1, { y.2 with recs := [], tokens := [] }) else y }

/-- The region starts `n` intervals: counter cycle 0 falls 4 cycles on. -/
def startRun (s : State) (lane n : Nat) : State :=
  let s := clearRecs s lane
  let s := s.modLane lane fun l =>
    let l := l.setBank l.act { l.hdr with dirty := true }
    { l with run := true, intdone := 0, ccyc := 0, base := 0, trips := n, startAt := s.now + 4, ended := false, fired := false,
             substep := 0, frameLeft := l.hdr.frameInt, awaitFrame := false, arrived := false, capNew := true, cwin := l.hwin,
             caps := [], mxHold := 0 }
  s.modCore (coreOf lane) fun c =>
    ((List.range 8).filter (s.servesGen lane)).foldl (fun c k => c.setGen k (genRun (c.gen k))) c

def execRun (_rs qt : Nat) (s : State) : Res :=
  let lane := s.cur.lane
  let l := s.lane lane
  let n := (l.getQ qt).toNat % 2 ^ 32
  if l.run || l.hdr.st = .loading then .next (stepWait s)
  else if l.hdr.st = .empty then .next (raiseStep s .imageAbsent)
  else if n = 0 then .next (stepNext s)
  else if s.isFirm lane && (windowsBad l.hwin || runCombo s lane) then .next (raiseStep s .reservedCombo)
  else .next (stepNext (startRun s lane n))

def execWaitRegion (_n : Nat) (s : State) : Res := stepUntil s (!(s.lane s.cur.lane).run)

def execFreeze (_rs : Nat) (s : State) : Res :=
  .next (stepNext (s.modLane s.cur.lane fun l => if l.run then { l with frozen := true } else l))

def execThaw (_rs : Nat) (s : State) : Res := .next (stepNext (s.modLane s.cur.lane fun l => { l with frozen := false }))

/-! ## Frames (R351) -/

/-- The first event of a group after the issue cycle has come. -/
def frameSeen (s : State) (g : Nat) : Bool :=
  let x := s.group (s.workOf s.cur.lane) g
  decide ((s.lane s.cur.lane).waitGen < x.count) && decide (x.evAt < s.now)

def execWaitFrame (g : Nat) (s : State) : Res :=
  if stepFirst s then
    .next (stepWait (s.modLane s.cur.lane fun l => { l with waitGen := (s.group (s.workOf s.cur.lane) g).count }))
  else stepUntil s (frameSeen s g)

def execFrame (g : Nat) (s : State) : Res :=
  let lane := s.cur.lane
  let w := s.workOf lane
  if stepFirst s then
    let x := s.group w g
    let s := s.modLane lane fun l => { l with waitGen := x.count }
    .next (stepWait (groupCheck (s.setGroup { x with steps := x.steps ++ [lane], made := true }) w g))
  else stepUntil s (frameSeen s g)

/-! ## Barrier steps (R353, R354) -/

/-- Cores of a scope instance. -/
def scopeCores (s : State) (scope : Nat) : Nat := if scope = 2 then 1 else if scope = 3 then 4 else if scope = 4 then 16 else 16 * s.liveCount

def execBarInit (b count : Nat) (s : State) : Res :=
  let lane := s.cur.lane
  let x := (s.core (coreOf lane)).bar b
  let (pcnt, scope) := (s.lane lane).barLink
  if (x.init && x.owner != slotOf lane) || (x.init && (x.pend != x.cnt || x.waitg)) || (scope == 2 && pcnt != 1) ||
      decide (scopeCores s scope < pcnt) then .next (raiseStep s .barrier)
  else
    .next (stepNext (s.modCore (coreOf lane) fun c =>
      c.setBar b { x with init := true, owner := slotOf lane, cnt := count, pend := count, scope, pcnt, waitg := false }))

/-- R354: the step's arrival lands from one cycle later, as soon as the context's earlier accesses have performed. -/
def execStepBarArrive (b : Nat) (s : State) : Res :=
  let lane := s.cur.lane
  if !barOwned s lane b then .next (raiseStep s .barrier)
  else
    let (id, s) := s.fresh
    .next (stepNext (putArrival s lane 256 b (s.lane lane).sp id))

/-- `bar.wait` as a step. -/
def barWaitStep (s : State) (b : Nat) : Res :=
  let lane := s.cur.lane
  let s := barStand s lane 256 b
  if barMet s lane 256 b then .next (stepNext (barClear s lane 256 b)) else .next (stepWait s)

def execStepBarWait (b : Nat) (s : State) : Res := barWaitStep s b
def execWaitBarrier (b : Nat) (s : State) : Res := barWaitStep s b

/-! ## Fences and publishing (R335, R338, R356) -/

def fenceStep (s : State) (sc : Scope) (seqcst : Bool) : Res :=
  let lane := s.cur.lane
  let before := ((s.lane lane).fenceAt).getD s.nextId
  if fenceWaits s lane sc.code before seqcst then
    .next (stepWait (s.modLane lane fun l => { l with fenceAt := some before }))
  else
    .next (stepNext (s.modLane lane fun l => { l with fenceAt := none, fwdWrites := if seqcst then [] else l.fwdWrites }))

def execStepFence (sc : Scope) (s : State) : Res := fenceStep s sc false
def execStepFenceSc (sc : Scope) (s : State) : Res := fenceStep s sc true

def execPub (buf : Nat) (s : State) : Res :=
  match pubTry s s.cur.lane buf with
  | none => .next (raiseStep s .publish)
  | some (s, true) => .next (stepNext s)
  | some (s, false) => .next (stepWait s)

/-! ## Memory steps (R175, R176) -/

/-- R259: where the companions of `n` bytes at `va` lie: those of the DIFF buffer of the block whose face holds them. -/
def companionVas (s : State) (lane va n : Nat) : List Nat :=
  let w := (s.lane lane).width
  match (s.bnds lane).find? fun x => x.f.diff && x.f.vaddr ≤ va && decide (va + n ≤ x.f.vaddr + 2 * x.f.size) with
  | some x =>
    let face := (va - x.f.vaddr) / x.f.size
    (planeNums w).map fun p => x.f.vaddr + planeOff x.f w face p + (va - x.f.vaddr) % x.f.size
  | none => []

/-- The zeros that a step's store writes into companions, or the first fault they meet. -/
def companionPieces (s : State) (lane n : Nat) : List Nat → State × (List Piece ⊕ (Code × Nat ⊕ Nat))
  | [] => (s, .inl [])
  | va :: r =>
    match s.translate lane .seq (s.lane lane).hwin 0xFF va n .write false with
    | (s, .fault c i) => (s, .inr (.inl (c, i)))
    | (s, .absent v) => (s, .inr (.inr v))
    | (s, .ok pa a _ _ _) =>
      match companionPieces s lane n r with
      | (s, .inl ps) => (s, .inl ({ va, pa, n, data := List.replicate n 0, key := a.key, ful := a.ful, fmt := a.fmt, pol := a.pol, wblk := a.wblk } :: ps))
      | e => e

/-- An aligned address and its request; a store also writes zeros to the companions of its bytes (R259). A store that a
blocked page holds is not made again before the page's REPLAY (R163). -/
def stepAccess (s : State) (va n : Nat) (data : Option (List Byte)) : State :=
  let lane := s.cur.lane
  let l := s.lane lane
  if data.isSome && l.blockedVa.isSome then stepWait s
  else
  match s.translate lane .seq l.hwin 0xFF va n (if data.isSome then .write else .read) false with
  | (s, .fault c i) => raiseStep s c i
  | (s, .absent v) => stepWait (suspendPage s lane 0xFD v)
  | (s', .ok pa a _ _ added) =>
  match companionPieces s' lane n (if data.isSome then companionVas s' lane va n else []) with
  | (_, .inr (.inl (c, i))) => raiseStep s c i
  | (s', .inr (.inr v)) => stepWait (suspendPage s' lane 0xFD v)
  | (s', .inl comps) =>
    let spad := match s'.homeOf pa with | .spad _ => true | _ => false
    let ws := match s'.homeOf pa with | .ws _ _ => true | _ => false
    if data.isSome && ws then raiseStep s' .permission va
    else if data.isSome && (a.wblk || comps.any (·.wblk)) then stepWait (s'.modLane lane fun l => { l with blockedVa := some va })
    else
      let (id, s') := s'.fresh
      let p : Piece := { va, pa, n, data := data.getD [], key := a.key, ful := a.ful, fmt := a.fmt, pol := a.pol }
      let lat := match s'.homeOf pa with | .spad _ => 4 | .dram _ | .host => 0 | _ => 24
      let r : Req := { id, lane, unit := 255, entry := l.sp, pieces := p :: comps, ty := .int .i64, pol := none, rm := .rne, size := 64,
                       mask := 1, arr := s.now + 1 + added, prio := 12 + slotOf lane, spad, readyAt := s.now + added + lat,
                       store := data.isSome }
      let s' := stepWait (s'.modLane lane fun l => { l with heldReq := some id })
      if data.isSome && !spad then
        -- on the own die's buffer its latency is known; elsewhere it is complete when it arrives
        let r := { r with pieces := r.pieces.map fun p => { p with done := true },
                          ready := match s'.homeOf pa with | .buf _ _ => true | _ => false }
        (s'.modCore (coreOf lane) fun c => { c with reqs := c.reqs ++ [r] }).sendWrite lane (.step lane) (p :: comps)
      else issueReq s' (coreOf lane) r

/-- What the request of the step under way has come to. -/
inductive StepReq
  | idle
  | waits
  /-- It is complete, with the bytes it read, and forgotten. -/
  | done (s : State) (bytes : List Byte)
  | fault (s : State)

def stepReq (s : State) : StepReq :=
  let lane := s.cur.lane
  match (s.lane lane).heldReq with
  | none => .idle
  | some id =>
    match (s.core (coreOf lane)).reqs.find? fun r => r.id == id with
    | none => .idle
    | some r =>
      if r.ready && r.readyAt < s.now then
        let s := s.modCore (coreOf lane) fun c => { c with reqs := c.reqs.filter fun x => x.id != id }
        let s := s.modLane lane fun l => { l with heldReq := none }
        if r.ecc then .fault (raiseStep s .eccUncorr) else if r.late then .fault (raiseStep s .link)
        else .done s (r.pieces.flatMap (·.got))
      else .waits

/-- ea = qA + sext18(off), modulo 2^64. -/
def stepEa (l : Lane) (qa : Nat) (off : Int) : Nat := (l.getQ qa + BitVec.ofInt 64 off).toNat

def execLdq (qd qa : Nat) (off : Int) (s : State) : Res :=
  let ea := stepEa (s.lane s.cur.lane) qa off
  if ea % 8 ≠ 0 then .next (raiseStep s .permission ea)
  else
    match stepReq s with
    | .idle => .next (stepAccess s ea 8 none)
    | .waits => .next (stepWait s)
    | .fault s => .next s
    | .done s bs => stepSetQ s qd (BitVec.ofNat 64 (leNat bs))

def execStq (qs qa : Nat) (off : Int) (s : State) : Res :=
  let l := s.lane s.cur.lane
  let ea := stepEa l qa off
  if ea % 8 ≠ 0 then .next (raiseStep s .permission ea)
  else
    match stepReq s with
    | .idle => .next (stepAccess s ea 8 (some (leBytes 8 (l.getQ qs).toNat)))
    | .waits => .next (stepWait s)
    | .fault s => .next s
    | .done s _ => .next (stepNext s)

/-- R176: a packet with the spawning work's WORKID in PARENT. -/
def withParent (workid : Nat) (bs : List Byte) : List Byte := bs.take 0x12 ++ leBytes 2 workid ++ bs.drop 0x14

def execSpawn (qa : Nat) (s : State) : Res :=
  let lane := s.cur.lane
  let l := s.lane lane
  let ea := (l.getQ qa).toNat
  if ea % 64 ≠ 0 then .next (raiseStep s .permission ea)
  else
    match stepReq s with
    | .idle => .next (stepAccess s (ea + l.spawnBuf.length) 64 none)
    | .waits => .next (stepWait s)
    | .fault s => .next (s.modLane lane fun l => { l with spawnBuf := [] })
    | .done s bs =>
      let got := l.spawnBuf ++ bs
      if 576 ≤ got.length then
        let s := s.modLane lane fun l => { l with spawnBuf := [] }
        .next ((stepNext s).soon (.launchPacket (withParent (s.workOf lane) got)))
      else .next (stepAccess (s.modLane lane fun l => { l with spawnBuf := got }) (ea + got.length) 64 none)

/-! ## Modes and yielding (R117, R118) -/

/-- R118: a mode request is posted; one that names the current mode is discarded. -/
def postMode (s : State) (m src die core order workid : Nat) : State :=
  match s.tset with
  | some t => if t.mode = m then s
    else State.sendControl { s with modeReqs := s.modeReqs ++ [{ mode := m, src, tick := s.tick, die, core, order, workid }] }
      (if die < 4 then die else hostDie) 1
  | none => s

def execMode (m : Nat) (s : State) : Res :=
  let lane := s.cur.lane
  .next (stepNext (postMode s m 2 (dieOf lane) (coreOf lane % 16) lane (s.workOf lane)))

def execYield (s : State) : Res :=
  let lane := s.cur.lane
  if s.isFirm lane then .next (stepNext s)
  else .next (((stepNext s).modLane lane fun l => { l with seq := .stopped }).soon (.elasticStop lane .yielded))

/-! ## Operand slots (R267) -/

def heldSlots (c : Core) : Nat := (c.opm.filter fun y => y.2.st != .free).length

def execClaim (slot count : Nat) (s : State) : Res :=
  let lane := s.cur.lane
  let c := s.core (coreOf lane)
  let ks := (List.range count).map fun (k : Nat) => slot + k
  let limit := (engsOf s lane).foldl (fun a e => max a e.slots) 0
  if slotLimit (s.lane lane).width < slot + count || ks.any (fun k => (c.slot k).st != .free) ||
      decide (limit < heldSlots c + count) then .next (raiseStep s .slotClaim)
  else .next (stepNext (s.modCore (coreOf lane) fun c => ks.foldl (fun c k => c.setSlot k { c.slot k with st := .empty }) c))

def execFree (slot count : Nat) (s : State) : Res :=
  let lane := s.cur.lane
  let c := s.core (coreOf lane)
  let m := slotLimit (s.lane lane).width
  let ks := (List.range count).map fun (k : Nat) => slot + k
  let busy := (c.rows.filter (·.active)).flatMap (readingSet c m)
  if m < slot + count || ks.any (fun k => (c.slot k).st == .free || (c.slot k).st == .filling || busy.contains k) then
    .next (raiseStep s .slotClaim)
  else .next (stepNext (s.modCore (coreOf lane) fun c => setSlots c .free ks))

/-! ## System registers (R179 and the chapters it names) -/

/-- PKG.IDENT (R14). -/
def pkgIdent (s : State) : Nat :=
  0x0B7A * 2 ^ 48 + 0x4410 * 2 ^ 32 + 1 * 2 ^ 28 + s.crown.live * 2 ^ 20 + s.crown.portLive * 2 ^ 18 + 16 * 2 ^ 12

/-- PTIME.STAT (R107). -/
def ptimeStat (p : PTime) : Nat := p.st * 2 ^ 30 + b2n p.far * 2 ^ 29 + b2n p.gmchg * 2 ^ 28 + ofSigned 24 p.rate

/-- SEQ.WORK (R179). -/
def seqWork (l : Lane) : Nat :=
  match l.rel with
  | none => 0
  | some r => r.entry.workid * 2 ^ 48 + r.block * 2 ^ 32 + r.pidx % 2 ^ 24 * 2 ^ 8 + b2n r.entry.elastic * 4 + r.entry.dw

def BankSt.code : BankSt → Nat
  | .empty => 0
  | .loading => 1
  | .ready => 2

/-- RGN.STATE (R168). -/
def rgnState (l : Lane) : Nat :=
  l.intdone % 2 ^ 32 * 2 ^ 32 + b2n l.run * 2 ^ 15 + b2n l.frozen * 2 ^ 14 + b2n l.armed * 2 ^ 13 + l.act * 2 ^ 12 +
    (l.bank 1).st.code * 2 ^ 10 + (l.bank 0).st.code * 2 ^ 8

def TileMode.code : TileMode → Nat
  | .unset => 0
  | .f32 => 1
  | .w32 => 2
  | .s32 => 3

/-- RING.STATE (R279). -/
def ringState (c : Core) : Nat := (c.tile c.head).mode.code * 2 ^ 22 + c.full * 2 ^ 16 + c.tail * 2 ^ 8 + c.head

/-- OPM.HELD[r] (R288). -/
def opmHeld (c : Core) (r : Nat) : Nat :=
  (List.range 64).foldl (fun a b => a + (if (c.slot (64 * r + b)).st != .free then 2 ^ b else 0)) 0

/-- Row entries of the active bank's matrix list, in stamp order. -/
def rowEntries (c : Core) (bank : Nat) : List Nat :=
  let es := c.list (uEng 0) bank
  (List.range es.length).filter fun k =>
    match decodeEngine 0 ((es[k]?).getD 0) with
    | .ok (.mm _) | .ok (.mms _) => true
    | _ => false

def CtxSt.code : CtxSt → Nat
  | .empty => 0
  | .loading => 1
  | .ready => 2
  | .bad => 3

/-- FELT.STATE (R299). -/
def feltState (f : Felt) : Nat :=
  (List.range 4).foldl (fun a k => a + (f.ctx k).code * 4 ^ k * 16) 0 +
    (match f.active with | some k => 4 + k | none => 0)

/-- WS.CAL (R314, R325). -/
def wsCal (s : State) : Nat :=
  let ph := s.tick % 400
  let away := (List.range 8).find? fun g => (ph + 400 - 50 * g % 400) % 400 < 4
  (match away with | some g => g * 2 ^ 9 + 2 ^ 8 | none => 0) + ph / 2

/-- FB.STATUS[n] (R381). -/
def fbStatus (l : Lane) (n : Nat) : Nat :=
  (List.range 64).foldl (fun a b => a + (if tblGet false l.fb (64 * n + b) then 2 ^ b else 0)) 0

/-- The bits of HWIN[n].ATTR that hold fields; the others read as zero (R2, R143). -/
def winAttrBits : Nat := 0xFCFF0FFF0000001F

def winField (w : Win) (f : Nat) : Nat := match f with | 0 => w.base | 1 => w.limit | 2 => w.offset | _ => w.attr &&& winAttrBits

/-- R143: a window at reset: POL is 0xAA. -/
def winReset : Win := { (default : Win) with attr := 0xAA * 2 ^ 48 }

/-- A system register as a step context reads it. -/
def sysRead (s : State) (lane n : Nat) : Nat :=
  let l := s.lane lane
  let c := s.core (coreOf lane)
  if n = 0x0000 then pkgIdent s
  else if n = 0x0010 then s.now * 5 / 6
  else if n = 0x0011 then s.now * 5 % 6 * 2 ^ 32 / 6
  else if n = 0x0012 then s.tick
  else if n = 0x0013 then s.ptime.epoch
  else if n = 0x0014 then ptimeStat s.ptime
  else if n = 0x0020 then seqWork l
  else if n = 0x0021 then lane
  else if n = 0x0030 then l.org.1 * 8 + l.org.2
  else if n = 0x0031 then l.nflags
  else if n = 0x0032 then rgnState l
  else if 0x0100 ≤ n && n < 0x0200 then winField ((l.hwin[(n - 0x100) / 4]?).getD winReset) (n % 4)
  else if n = 0x0200 then (s.die (dieOf lane)).hotThresh
  else if n = 0x0400 then l.tflags
  else if n = 0x0401 then ringState c
  else if 0x0404 ≤ n && n ≤ 0x0407 then opmHeld c (n - 0x404)
  else if 0x0410 ≤ n && n ≤ 0x0417 then mxProg c l.act (rowEntries c l.act) (n - 0x410)
  else if n = 0x0420 then feltState c.felt
  else if n = 0x0421 then c.felt.prog
  else if n = 0x0430 then c.prog
  else if n = 0x0431 then c.chunk * 2 ^ 16
  else if n = 0x0440 then wsCal s
  else if n = 0x0450 then l.barLink.1 * 2 ^ 8 + l.barLink.2
  else if 0x0460 ≤ n && n ≤ 0x0463 then fbStatus l (n - 0x460)
  else if 0x0500 ≤ n && n ≤ 0x05FF then barState (c.bar (n - 0x500))
  else 0

def execSysr (qd sreg : Nat) (s : State) : Res := stepSetQ s qd (BitVec.ofNat 64 (sysRead s s.cur.lane sreg))

/-- A window with one field written. -/
def winSet (w : Win) (f v : Nat) : Win :=
  match f with
  | 0 => { w with base := v }
  | 1 => { w with limit := v }
  | 2 => { w with offset := v }
  | _ => { w with attr := v }

/-- A list of at least `n` + 1 windows. -/
def winPad (ws : List Win) (n : Nat) : List Win := ws ++ List.replicate (n + 1 - ws.length) winReset

/-- R144, R169, R353: a register written by a step, or the fault its checks raise. -/
def sysWrite (s : State) (lane n v : Nat) : State ⊕ Code :=
  let l := s.lane lane
  if n = 0x0030 then
    if (l.bank 0).st != .empty || (l.bank 1).st != .empty then .inr .overlap
    else .inl (s.setLane lane { l with org := (v / 8 % 8, v % 8) })
  else if 0x0100 ≤ n && n < 0x0200 then
    let i := (n - 0x100) / 4
    let ws := winPad l.hwin i
    let w := (ws[i]?).getD default
    let w' := winSet w (n % 4) v
    let bad := if n % 4 = 3 then Win.valid w' && !winOk s (some (coreOf lane)) w' else Win.valid w
    -- a reserved bit is never held: with V = 1 it faults, with V = 0 it is dropped
    if bad then .inr .window else .inl (s.setLane lane { l with hwin := ws.set i { w' with attr := w'.attr &&& winAttrBits } })
  else if n = 0x0450 then
    let scope := v % 8
    let pcnt := v / 2 ^ 8 % 128
    if scope < 2 || 5 < scope || pcnt = 0 || 64 < pcnt then .inr .barrier
    else .inl (s.setLane lane { l with barLink := (pcnt, scope) })
  else .inl s

def execSysw (qa sreg : Nat) (s : State) : Res :=
  match sysWrite s s.cur.lane sreg ((s.lane s.cur.lane).getQ qa).toNat with
  | .inl s => .next (stepNext s)
  | .inr c => .next (raiseStep s c)

/-! ## Traps and breakpoints (R389, R390) -/

def execTrap (code : Nat) (s : State) : Res := .next (raiseStep s .trap code)

/-- R390: what a `brk` does in the debug cell of its die: 0 run, 1 obs, 2 ie, 3 ia. -/
def brkEffect (s : State) (lane code : Nat) : State :=
  let d := s.die (dieOf lane)
  let ev : TraceEv := { code, tick := s.tick, lane, ccyc := (s.lane lane).ccyc }
  let halts := 2 ≤ d.debug && (s.crown.sec != 0 || !s.isFirm lane)
  if d.debug = 0 then s
  else if halts then s.modLane lane fun l => { l with halted := true }
  else s.setDie (dieOf lane) { d with trace := d.trace ++ [ev] }

def execStepBrk (code : Nat) (s : State) : Res := .next (stepNext (brkEffect s s.cur.lane code))

/-- R390: a nullified `brk` entry does nothing; its guard reads bit 0 only. -/
def execBrk (o : OpN) (s : State) : Res :=
  .next (if guardBit (s.myGuard o.h) 0 then brkEffect s s.cur.lane o.n else s)

/-! ## Retirement (R399, R400) -/

/-- NFLAGS and TFLAGS of a retire record, and whether they are a fallback's. -/
def retireFlags (l : Lane) (r : Release) : Nat × Nat × Bool :=
  if r.kind = .fallback then
    (if r.published = some true then (l.nflags, l.tflags, true) else (r.primFlags.1, r.primFlags.2, false))
  else (l.nflags, l.tflags, false)

/-- The retire record of a lane's release. -/
def retireRec (s : State) (lane outcome : Nat) (ends : Bool) : List Byte :=
  let l := s.lane lane
  match l.rel with
  | none => []
  | some r =>
    let f := retireFlags l r
    packFields [(1, 4), (1, outcome), (1, f.1), (1, f.2.1), (2, r.entry.workid), (2, r.entry.block), (1, dieOf lane),
      (1, coreOf lane % 16), (1, slotOf lane),
      (1, b2n r.entry.elastic + 2 * b2n f.2.2 + 4 * b2n r.overran + 8 * b2n ends), (2, r.entry.idx), (1, r.mode), (1, 0),
      (8, r.start), (8, s.tick), (8, s.now - tickStart r.start), (8, r.held), (4, r.pidx % 2 ^ 24), (4, r.stops), (8, 0)]

/-- A slot's units, banks, engines and barriers return to their block-start states (R169, R267, R279, R289, R353). -/
def freeSlot (s : State) (lane : Nat) : State :=
  let slot := slotOf lane
  let s := dropBars s lane
  let engs := engsOf s lane
  let s := s.modCore (coreOf lane) fun c =>
    let mine := (c.owner.filter fun y => y.2 == slot + 1).map (·.1)
    let has (e : Nat) : Bool := engs.any (fun r => r.eng.testBit e) || mine.contains (uEng e)
    let c := mine.foldl clearUnit c
    let c := { c with
      owner := c.owner.filter fun (y : Nat × Nat) => y.2 != slot + 1,
      lists := c.lists.filter fun (y : Nat × List Nat) => !mine.contains (y.1 / 2),
      srcs := c.srcs.filter fun (y : Nat × Nat) => !mine.contains (y.1 / 2),
      arrivals := c.arrivals.filter fun (a : Arrival) => a.lane != lane }
    let c := if has 0 then
        { c with opm := [], ring := [], head := 0, tail := 0, full := 0, landing := [], rows := c.rows.filter fun (r : RowInst) => r.lane != lane }
      else c
    let c := if has 1 then { c with epc := none, scale := [], bias := [], biasT := [], north := [] } else c
    if has 3 then { c with felt := {}, south := [] } else c
  s.modLane lane fun l =>
    { l with banks := [], act := 0, armed := false, frozen := false, run := false, ended := false, fired := false,
             awaitFrame := false, arrived := false, flights := [], recs := [], caps := [], xl := [], mxHold := 0,
             loops := [], arm := none, heldReq := none, spawnBuf := [], fenceAt := none, pubSt := none, capNew := false,
             prefetched := none, faultHold := false, blockedVa := none }

/-- The released entry of an elastic block is gone. -/
def dropErel (s : State) (lane : Nat) : State :=
  match (s.lane lane).erun with
  | none => s
  | some id =>
    let s := { s with elastics := s.elastics.filter fun e => e.id != id,
                      queues := s.queues.map fun (y : Nat × List Nat) => (y.1, y.2.filter (· != id)) }
    s.modLane lane fun l => { l with erun := none }

/-- A release ends: its record is posted, its slot freed, and its context stops. -/
def endRelease (s : State) (lane outcome : Nat) (ends : Bool) : State :=
  let s := s.postRq (retireRec s lane outcome ends)
  let g := laneGroup (s.lane lane)
  let ran := (s.lane lane).run
  let s := freeSlot s lane
  let s := dropErel s lane
  let s := s.modLane lane fun l => { l with seq := .stopped, retired := true, halted := false, stop := .none }
  match ran, g with
  | true, some (w, k) => leaveFrame s w k
  | _, _ => s

/-- R338: a WHOLE or MERGE buffer the block has written since its last `pub`. -/
def unpublished (s : State) (lane : Nat) : Bool :=
  match (s.lane lane).rel with
  | some r => (writtenBufs s lane).any fun x => r.wrote.contains x.f.id
  | none => false

def execRetire (s : State) : Res :=
  let lane := s.cur.lane
  let l := s.lane lane
  let c := s.core (coreOf lane)
  let loading := (l.bank 0).st == .loading || (l.bank 1).st == .loading
  let mx := (engsOf s lane).any fun e => e.eng.testBit 0
  if l.run || loading then .next (stepWait s)
  else if mx && c.full != 0 then .next (raiseStep s .ring)
  else if unpublished s lane then .next (raiseStep s .publish)
  else
    let outcome := match l.rel with | some r => if r.kind = .fallback then 3 else 0 | none => 0
    .next (endRelease s lane outcome false)

end Sys2Proof.Machine
end

