-- ==== Sys2Proof/Machine/Interruption.lean ====
section
/-! DEFINITION. Interruption (R368 to R388): the start of a block, the decision of a fault event by the launch record's
levels, retries, restarts and kills, overruns and fallbacks, and the stopping, saving and resuming of elastic blocks. -/

namespace Sys2Proof.Machine

/-! ## Starting a block (R116, R169, R173) -/

def State.workById (s : State) (w : Nat) : Option Work := s.works.find? fun x => x.workid == w

/-- A block of a work's container. -/
def blockIn (s : State) (w : Work) (num : Nat) : Option (Container × Block) :=
  (s.conts[w.cont]?).bind fun c => (c.block num).map fun b => (c, b)

/-- The step program of a block. -/
def progOf (s : State) (w : Work) (num : Nat) : List Nat :=
  match blockIn s w num with
  | some (c, b) => (c.progs[b.seq]?).getD []
  | none => []

/-- The worst-case record of a block at a drone width code (R25). -/
def wcOf (s : State) (w : Work) (num dw : Nat) : Wc :=
  match blockIn s w num with
  | some (c, b) => (c.wcs[b.wc + dw]?).getD default
  | none => default

/-- The windows of a work's address space (R142). -/
def spaceWins (s : State) (workid : Nat) : List Win := (tblGet {} s.spaces workid).wins

/-- A block starts on a lane: its step context is at its block-start state and issues from cycle `goAt`. -/
def startBlock (s : State) (lane : Nat) (rel : Release) (prog : List Nat) (goAt : Nat) : State :=
  let kept := (s.lane lane).prefetched == some (entryKey rel.entry) && rel.kind == .firm
  -- what was prefetched for another entry is released; the slot's last block, retired, holds nothing more
  let s := if (s.lane lane).prefetched.isSome && !kept then freeSlot (s.modLane lane fun l => { l with rel := none }) lane else s
  s.modLane lane fun l =>
    let l := if kept then l else { l with org := (0, 0), banks := [], act := 0, prefetched := none }
    { l with q := [], sp := 0, loops := [], arm := none, seq := .run, prog, nflags := 0, tflags := 0, armed := false,
             frozen := false, run := false, faultHold := false, thawAt := 0, stepAt := 0, retry := [], refire := false,
             doom := [], goAt, halted := false, intdone := 0, blockInt := 0, ccyc := 0, base := 0, trips := 0, startAt := 0,
             ended := false, fired := false, substep := 0, frameLeft := 0, awaitFrame := false, arrived := false,
             waitGen := 0, flights := [], hwin := spaceWins s rel.entry.workid, cwin := [], caps := [], barLink := (1, 2),
             recs := [], rel := some rel, stop := .none, partials := [], mxHold := 0, fwdWrites := [], retired := false,
             fenceAt := none, pubSt := none, spawnBuf := [], capNew := false, fb := [], heldReq := none, blockedVa := none, xl := [] }

/-- The period index of a tick, and the base tick of its period (R111). -/
def periodOf (s : State) (tick : Nat) : Nat × Nat :=
  match s.tset with
  | some t => if tick < t.a then (0, t.a) else let n := (tick - t.a) / t.period; (n, t.a + n * t.period)
  | none => (0, tick)

/-- A new release of an entry at the current tick. -/
def newRelease (s : State) (e : Entry) (kind : RelKind) : Release :=
  { entry := e, kind, block := e.block, start := s.tick, fstart := s.tick, mode := (s.tset.map (·.mode)).getD 0,
    pidx := (periodOf s s.tick).1, period := (periodOf s s.tick).2 }

/-- The installed entry of a lane with a key, in the mode in force. -/
def entryAt (s : State) (lane key : Nat) : Option (Work × Entry) :=
  s.works.findSome? fun w => (w.entries.find? fun e => e.lane == lane && entryKey e == key &&
    (match s.tset with | some t => e.mode == t.mode | none => false)).map fun e => (w, e)

/-- The released elastic entry of a lane with a key. -/
def erelOf (s : State) (lane key : Nat) : Option ERel := s.elastics.find? fun e => e.entry.lane == lane && entryKey e.entry == key

/-! ### The queue of a lane's elastic entries (R117, R129) -/

def laneQueue (s : State) (lane : Nat) : List Nat := tblGet [] s.queues lane

/-- An entry moves to the back of its lane's queue. -/
def toBack (s : State) (lane id : Nat) : State :=
  { s with queues := tblPut s.queues lane ((laneQueue s lane).filter (· != id) ++ [id]) }

/-- The entry may run. -/
def ERel.ready (x : ERel) : Bool := x.page.isNone && x.image.isNone && !x.absent

/-- R129: the block binds an engine that another slot of the core holds: an owned one, until the owner's block retires
(R169), or one that a block bound there has still to own. -/
def engineTaken (s : State) (lane : Nat) (x : ERel) : Bool :=
  match (s.workById x.entry.workid).bind fun w => blockIn s w x.entry.block with
  | none => false
  | some (c, b) =>
    let mine := (c.engs.drop b.engFirst).take b.engCount
    let live (m : Nat) : Bool := (s.lane m).rel.isSome && !(s.lane m).retired
    (List.range 4).any fun e => mine.any (fun r => r.eng.testBit e) &&
      (unitTaken s lane (uEng e) || (List.range 4).any fun k =>
        let m := laneOf (coreOf lane) k
        k != slotOf lane && live m && (engsOf s m).any fun r => r.eng.testBit e)

/-- The released entries of a lane that may run, in the order of its queue. -/
def readyElastics (s : State) (lane : Nat) : List ERel :=
  (laneQueue s lane).filterMap fun id => s.elastics.find? fun e => e.id == id && e.ready && !engineTaken s lane e

/-- The work of a released entry has budget left on a lane. -/
def hasBudget (s : State) (lane id : Nat) : Bool :=
  s.elastics.any fun e => e.id == id && decide (0 < tblGet 0 (s.lane lane).budget e.entry.workid)

/-- R117: the entry a lane runs next. -/
def pickElastic (s : State) (lane : Nat) : Option ERel :=
  let xs := readyElastics s lane
  match xs.find? fun x => hasBudget s lane x.id with
  | some x => some x
  | none => xs.head?

/-- R117: the lane runs the entry it picks: its block starts, or resumes. -/
def runNext (s : State) (lane : Nat) : State :=
  match pickElastic s lane with
  | some x => s.soon (if x.saved.isSome then .elasticResume lane else .blockStart lane (entryKey x.entry))
  | none => s

/-- R116, R117, R173: the table unit starts a block: a firm entry's at its START, an elastic one when its lane runs it. -/
def execBlockStart (lane entry : Nat) (s : State) : Res :=
  match erelOf s lane entry with
  | some x =>
    if engineTaken s lane x then .next (runNext s lane)
    else match s.workById x.entry.workid with
    | some w =>
      let s := startBlock s lane (newRelease s x.entry .elastic) (progOf s w x.entry.block) s.now
      .next (s.modLane lane fun l => { l with erun := some x.id })
    | none => .next s
  | none =>
    match entryAt s lane entry with
    | some (w, e) =>
      if e.elastic then .next s
      else
        let next_ := (s.lane lane).nextProg
        let s := startBlock s lane (newRelease s e .firm) (if next_.isEmpty then progOf s w e.block else next_) s.now
        .next (s.modLane lane fun l => { l with nextProg := [] })
    | none => .next s

/-! ## Clearing (R378) -/

/-- The absolute tick of an offset of a release's entry. -/
def Release.abs (r : Release) (off : Nat) : Nat := r.start - r.entry.start + off

/-- Writes of a lane not yet sent leave their queues. -/
def dropQueues (s : State) (lane : Nat) : State :=
  s.modCore (coreOf lane) fun c =>
    { c with ports := c.ports.map fun (y : Nat × PortTile) =>
        (y.1, { y.2 with queue := y.2.queue.filter fun (e : WEnt) => e.lane != lane || e.sent.isSome }) }

/-- A queue whose head is not sent is sent again. -/
def resend (s : State) (core : Nat) : State :=
  (List.range 8).foldl (fun s row =>
    match ((s.core core).port row).queue with
    | e :: _ => if e.sent.isNone then sendHead s core row else s
    | [] => s) s

/-- R378: the block on a lane is cleared: writes unsent and copies discarded, shadows abandoned, units released. -/
def clearBlock (s : State) (lane : Nat) : State :=
  let g := laneGroup (s.lane lane)
  let ran := (s.lane lane).run
  let s := dropQueues s lane
  let s := s.modCore (coreOf lane) fun c =>
    { c with reqs := c.reqs.filter fun (r : Req) => r.lane != lane || r.unit == 240,
             copies := c.copies.filter fun (x : CopyOp) => x.lane != lane }
  let s := abandonBufs s lane
  let s := freeSlot s lane
  let s := s.modLane lane fun l => { l with seq := .stopped, partials := [], retry := [], refire := false, thawAt := 0, stepAt := 0,
                                            stop := .none, halted := false, fwdWrites := [] }
  let s := match ran, g with
    | true, some (w, k) => leaveFrame s w k
    | _, _ => s
  resend s (coreOf lane)

/-- A cleared release ends with an outcome; with no fallback to publish, PSTAT is set (R381). -/
def endCleared (s : State) (lane outcome : Nat) (rec_ : List Byte) : State :=
  let _ := outcome
  let s := unrenewed s lane
  let s := s.postRq rec_
  let s := dropErel s lane
  s.modLane lane fun l => { l with retired := true, seq := .stopped }

/-- R379: the fallback of a cleared primary starts from cycle 8 of this tick. -/
def startFallback (s : State) (lane : Nat) (killed : Bool) (flags : Nat × Nat) : State :=
  match (s.lane lane).rel with
  | none => s
  | some r =>
    match s.workById r.entry.workid with
    | none => s
    | some w =>
      let r := { r with kind := .fallback, block := r.entry.fblock, fstart := s.tick, killed := r.killed || killed,
                        overran := r.overran || !killed, primFlags := flags, wrote := [] }
      let kept := (s.lane lane).fbProg
      startBlock s lane r (if kept.isEmpty then progOf s w r.entry.fblock else kept) (tickStart s.tick + 8)

/-- Clear a lane's block, and start its fallback when it is a primary that has one; else end its release. -/
def clearAndGo (s : State) (lane : Nat) (killed : Bool) : State :=
  match (s.lane lane).rel with
  | none => s
  | some r =>
    if (s.lane lane).retired then s
    else
      let flags := ((s.lane lane).nflags, (s.lane lane).tflags)
      let hasFb := r.kind = .firm && r.entry.fblock != 0xFFFF
      if hasFb then
        let s := clearBlock s lane
        startFallback s lane killed flags
      else
        let outcome := match r.kind, killed with
          | .fallback, true => 5
          | .fallback, false => 4
          | _, true => 1
          | _, false => 2
        -- the record's flags are taken before the slot is cleared, and its overrun bit set
        let s := s.modLane lane fun l => { l with rel := l.rel.map fun r => { r with overran := r.overran || !killed, killed := r.killed || killed } }
        let kept := retireRec s lane outcome false
        endCleared (clearBlock s lane) lane outcome kept

/-! ## Containment (R371 to R375) -/

/-- The launch levels of a lane's work. -/
def levelsOf (s : State) (workid : Nat) : List Level := ((s.workById workid).map (·.launch.levels)).getD []

/-- R371: the level a fault is offered to first. -/
def firstLevel (ls : List Level) (dom : Nat) : Nat :=
  (List.range ls.length).foldl (fun a k => match ls[k]? with | some l => if l.domain ≤ dom then k else a | none => a) 0

/-- A virtual unit that may fault (R122): a virtual region, an element of it by its relative position, and a bank. -/
structure VUnit where
  vregion : Nat
  pos : Nat := 0
  bank : Nat := 0
  deriving DecidableEq, Repr, Inhabited

/-- The virtual unit of a domain that a unit lies in (R122, R125). -/
def domUnit (dom : Nat) (u : VUnit) : Nat :=
  match dom with
  | 0 => 0
  | 1 => u.vregion / 64
  | 2 => u.vregion / 16
  | 3 => u.vregion / 4
  | 4 => u.vregion
  | 5 => u.vregion * 64 + u.pos
  | _ => (u.vregion * 64 + u.pos) * 2 + u.bank

/-- R122: the instance of a level that holds a virtual unit. -/
def instAt (ls : List Level) (k : Nat) (u : VUnit) : Nat :=
  let dom := ((ls[k]?).map (·.domain)).getD 0
  let inner := (ls.drop (k + 1)).takeWhile fun l => l.domain == dom
  inner.foldl (fun a l => a / max 1 l.count) (domUnit dom u)

/-- The virtual region of the block on a lane. -/
def Lane.vregion (l : Lane) : Nat := (l.rel.map (·.entry.vregion)).getD 0

/-- The unit a fault event arose in. -/
def evUnit (s : State) (ev : FaultEv) : VUnit :=
  { vregion := (s.lane ev.lane).vregion, pos := if ev.unit < 64 then ev.pos else 0, bank := (s.lane ev.lane).act }

/-- The key under which a release counts the retries that an instance of level `k` has honoured (R373). -/
def retryKey (ls : List Level) (k : Nat) (u : VUnit) : Nat := k * 2 ^ 32 + instAt ls k u

/-- What containment decides. -/
inductive Decision
  | ignore (level : Nat)
  | retry (level : Nat)
  | restart (level : Nat)
  | kill (level : Nat) (inst : Nat)
  | killWork (level workid : Nat)
  deriving DecidableEq, Repr

/-- R373: a level honours a retry of the block. -/
def honours (s : State) (ev : FaultEv) (ls : List Level) (k dom : Nat) : Option Decision :=
  match (s.lane ev.lane).rel with
  | none => none
  | some r =>
    let used := tblGet 0 r.retries (retryKey ls k (evUnit s ev))
    let dl := if r.kind = .fallback then r.abs r.entry.fbend else r.abs r.entry.deadline
    let t := ev.time / 120
    if 3 ≤ used then none
    else if 4 ≤ dom then
      if ev.precise && (r.entry.elastic || t + 2 < dl) then some (.retry k) else none
    else
      let ticks := match s.workById ev.workid with | some w => (wcOf s w r.block r.entry.dw).ticks | none => 0
      if r.entry.elastic || s.tick + 1 + ticks ≤ dl then some (.restart k) else none

/-- R372: the fault goes up the levels from `k` until one absorbs it. -/
def offer (s : State) (ev : FaultEv) (ls : List Level) : Nat → Nat → Decision
  | 0, _ => .kill 0xFF 0
  | fuel + 1, k =>
    match ls[k]? with
    | none => .kill 0xFF 0
    | some l =>
      let up : Decision := if k = 0 then .kill 0xFF 0 else offer s ev ls fuel (k - 1)
      match l.policy with
      | 0 => .ignore k
      | 1 => (honours s ev ls k l.domain).getD up
      | 2 => .kill k k
      | _ =>
        if k = 0 then
          match s.workById ev.workid with
          | some w => if w.parent = 0xFFFF then .kill 0 0 else .killWork 0 w.parent
          | none => .kill 0 0
        else .kill k (k - 1)

/-- A fault record (R370). -/
def faultRec (kind code disp level workid block lane unit entry pos fflags tick intv ccyc mode info pidx : Nat) : List Byte :=
  packFields [(1, kind), (1, code), (1, disp), (1, level), (2, workid), (2, block), (1, dieOf lane), (1, coreOf lane % 16),
    (1, slotOf lane), (1, unit), (2, entry), (1, pos), (1, fflags), (8, tick), (4, intv), (2, ccyc), (1, mode), (1, 0),
    (8, info), (4, pidx % 2 ^ 24), (20, 0)]

/-- R369: the entries of an event in the order of rank. -/
def eventParts (ev : FaultEv) : List (Nat × Nat × Nat × Nat × Nat) :=
  let all := (ev.unit, ev.entry, ev.pos, ev.code, ev.info) :: ev.mates
  (List.range 256).flatMap fun u => all.filter fun p => p.1 == u

/-- R150: the malformed bit of a record, one of the bits R370 reserves in FFLAGS; such a fault carries 2⁶⁴ in its INFO. -/
def malformedBit (info : Nat) : Nat := if 2 ^ 64 ≤ info then 2 ^ (4 + Config.malformedBit % 4) else 0

/-- Every entry of an event posts its record. -/
def postFaults (s : State) (ev : FaultEv) (disp level : Nat) : State :=
  let fl := b2n ev.precise + 2 * b2n (!ev.precise) + 4 * b2n ev.fb + 8 * b2n ev.el
  (eventParts ev).foldl (fun s p =>
    s.postFq (faultRec 1 p.2.2.2.1 disp level ev.workid ev.block ev.lane (unitCode p.1) p.2.1 p.2.2.1 (fl + malformedBit p.2.2.2.2) (ev.time / 120) ev.intv
      ev.ccyc ev.mode p.2.2.2.2 ev.pidx)) s

/-- The load whose reply faulted, kept at its port. -/
def faultedReq (s : State) (lane unit entry : Nat) : Option Req :=
  let fl := (s.lane lane).flights
  (s.core (coreOf lane)).reqs.find? fun r =>
    r.lane == lane && r.unit == unit - 64 && 64 ≤ unit && r.entry == entry && r.ready &&
      !fl.any fun f => match f.land with | .port _ id => id == r.id | _ => false

/-- R372, IGNORE: what a fault raised after its firing leaves: a load presents nothing, a copy ends as done. -/
def ignoreLate (s : State) (lane unit entry : Nat) : State :=
  let s := match faultedReq s lane unit entry with
    | some r => s.modCore (coreOf lane) fun c => { c with reqs := c.reqs.filter fun x => x.id != r.id }
    | none => s
  if unit = 82 then
    s.modCore (coreOf lane) fun c => { c with copies := c.copies.filter fun x => !(x.st == .faulted && x.entry == entry) }
  else s

/-- R373: a load whose conversion faulted is made again from memory. -/
def remake (s : State) (lane unit entry : Nat) : State :=
  match faultedReq s lane unit entry with
  | none => s
  | some r =>
    let s := s.modCore (coreOf lane) fun c => { c with reqs := c.reqs.filter fun x => x.id != r.id }
    issueReq s (coreOf lane) (r.fresh s.now)

/-- Honoured retries of an instance are counted in the release. -/
def countRetry (s : State) (lane key : Nat) : State :=
  s.modLane lane fun l => { l with rel := l.rel.map fun r => { r with retries := tblPut r.retries key (tblGet 0 r.retries key + 1) } }

/-- Doom a lane's release: it is cleared at a tick's start. -/
def doomLane (s : State) (lane tick : Nat) (i : Instr) : State :=
  match (s.lane lane).rel with
  | some r =>
    let s := s.modLane lane fun l => { l with doom := l.doom ++ [(r.start, r.fstart)] }
    s.post (tickStart tick) i
  | none => s

/-- R374: the blocks of a work that run on lanes of which `sel` holds are to be killed. -/
def killLanes (s : State) (die : Nat) (sel : Nat → Lane → Bool) : State :=
  (s.lanes.filter fun y => y.2.rel.isSome && !y.2.retired && sel y.1 y.2).foldl (fun s y =>
    let d := dieOf y.1
    let t := if d = die then s.tick + 1 else s.tick + 2 * hops s die d + 1
    doomLane s y.1 t (.killClear y.1)) s

/-- The disposition of a kill: with a fallback, or without. -/
def killDisp (s : State) (lane : Nat) : Nat :=
  match (s.lane lane).rel with
  | some r => if r.kind = .firm && r.entry.fblock != 0xFFFF then 3 else 2
  | none => 2

/-- A fault event is overtaken: its block was cleared, or its deadline has come (R376). -/
def overtaken (s : State) (ev : FaultEv) : Bool :=
  match (s.lane ev.lane).rel with
  | none => true
  | some r =>
    r.start != ev.relStart || r.fstart != ev.relFstart || (s.lane ev.lane).retired || r.entry.workid != ev.workid ||
      (ev.precise && r.kind == .firm && decide (r.abs r.entry.deadline ≤ s.tick)) ||
      (ev.precise && r.kind == .fallback && decide (r.abs r.entry.fbend ≤ s.tick))

/-- R274, R372: where a row entry's step 0 faulted and the fault is ignored, no instance has started: its next firing
captures its count anew. -/
def dropStart (s : State) (lane unit entry : Nat) : State :=
  if unit = uEng 0 then
    s.modCore (coreOf lane) fun c => { c with rows := c.rows.map fun (r : RowInst) =>
      if r.lane = lane && r.entry = entry && r.active && r.fault && r.j = 0 then { r with active := false } else r }
  else s

/-- The disposition of an event is applied from the next cycle (R372 to R375). -/
def applyDecision (s : State) (ev : FaultEv) (d : Decision) : State :=
  let lane := ev.lane
  let parts := eventParts ev
  let die := dieOf lane
  let ls := levelsOf s ev.workid
  let me := evUnit s ev
  match d with
  | .ignore k =>
    let s := postFaults s ev 0 k
    if !ev.precise then s
    else if ev.step then s.modLane lane fun l => { l with stepAt := s.now + 1 }
    else
      let s := parts.foldl (fun s p => if ev.late then ignoreLate s lane p.1 p.2.1 else dropStart s lane p.1 p.2.1) s
      s.modLane lane fun l => { l with thawAt := s.now + 1 }
  | .retry k =>
    let s := countRetry (postFaults s ev 1 k) lane (retryKey ls k me)
    let t := ev.time / 120 + 2
    let s := s.modLane lane fun l => { l with retry := l.retry ++ parts.map fun p => (p.1, p.2.1, t) }
    let s := s.post (tickStart t) (.entryRetry lane)
    if !(ev.late && parts.any fun p => (faultedReq s lane p.1 p.2.1).isSome) then s
    else if tickStart t ≤ s.now + 1 then parts.foldl (fun s p => remake s lane p.1 p.2.1) s
    else
      -- a load is made again in some cycle before the thaw
      let (k, s) := s.free
      s.post (s.now + 1 + Config.freeBits k % (tickStart t - (s.now + 1))) (.entryRetry lane)
  | .restart k =>
    let s := countRetry (postFaults s ev 1 k) lane (retryKey ls k me)
    doomLane s lane (s.tick + 1) (.blockRestart lane)
  | .kill k inst =>
    let s := postFaults s ev (killDisp s lane) k
    let dom : Nat := ((ls[inst]?).map (·.domain)).getD 0
    if 4 ≤ dom then killLanes s die fun x _ => x == lane
    else killLanes s die fun x l => s.workOf x == ev.workid && instAt ls inst { vregion := l.vregion } == instAt ls inst me
  | .killWork k w =>
    let s := postFaults s ev (killDisp s lane) k
    killLanes s die fun x _ => s.workOf x == w

/-- The order of events on a die (R369): cycle, lane, a region before its step context, then of their raising. -/
def evBefore (a b : FaultEv) : Bool :=
  a.time < b.time || (a.time == b.time && (a.lane < b.lane || (a.lane == b.lane &&
    (b2n a.step < b2n b.step || (a.step == b.step && a.id < b.id)))))

/-- R375: the table unit of a die decides one event in a cycle, in order. -/
def execFaultDecision (event : Nat) (s : State) : Res :=
  match s.faults.find? fun e => e.id == event with
  | none => .next s
  | some e0 =>
    let die := dieOf e0.lane
    if (s.die die).decided = s.now + 1 then .next (s.post (s.now + 1) (.faultDecision event))
    else
      let ready := s.faults.filter fun e => dieOf e.lane == die && decide (e.decideAt ≤ s.now)
      let ev := ready.foldl (fun a e => if evBefore e a then e else a) e0
      let s := if ev.id = event then s else s.post (s.now + 1) (.faultDecision event)
      let s := { s with faults := s.faults.filter fun e => e.id != ev.id }
      let s := s.modDie die fun d => { d with decided := s.now + 1 }
      if overtaken s ev then .next (postFaults s ev 5 0xFF)
      else
        let ls := levelsOf s ev.workid
        let dom := if ev.step || 64 ≤ ev.unit then 4 else 6
        .next (applyDecision s ev (offer s ev ls (ls.length + 1) (firstLevel ls dom)))

/-- R373: faulted entries fire again in this cycle, a faulted step issues again, a copy resumes; a load made again is
presented at the counter cycle that stands. Before the tick of the thaw, a load is made again from memory. -/
def execEntryRetry (lane : Nat) (s : State) : Res :=
  let s := ((s.lane lane).retry.filter fun r => s.tick < r.2.2).foldl (fun s r => remake s lane r.1 r.2.1) s
  let l := s.lane lane
  let due := l.retry.filter fun r => r.2.2 ≤ s.tick
  let s := s.modLane lane fun l =>
    { l with retry := l.retry.filter fun r => !decide (r.2.2 ≤ s.tick),
             seq := if due.any fun r => r.1 == 255 then .run else l.seq }
  let again := due.filter fun r => r.1 != 255
  if again.isEmpty then .next s
  else
    let s := again.foldl (fun s r =>
      match (s.core (coreOf lane)).reqs.find? fun q => q.lane == lane && q.unit + 64 == r.1 && q.entry == r.2.1 &&
          !(s.lane lane).flights.any fun f => match f.land with | .port _ id => id == q.id | _ => false with
      | some q =>
        -- the load was made again: it lands at the counter cycle that stands
        s.modLane lane fun l => { l with refire := l.refire || l.fired, flights := l.flights ++
          [{ id := q.id, due := l.pos, land := .port q.unit q.id, entry := q.entry, unit := r.1, hold := q.hold }] }
      | none =>
        if r.1 = 82 && (match (s.core (coreOf lane)).copies with | x :: _ => x.st == .faulted && x.entry == r.2.1 | [] => false) then
          s.modCore (coreOf lane) fun c =>
            match c.copies with
            | x :: rest => { setSlots c .filling (copySlots x) with copies := { x with st := .running, next := s.now, rdNext := s.now } :: rest }
            | [] => c
        else s.modLane lane fun l => { l with retry := l.retry ++ [r], refire := true }) s
    .next (s.modLane lane fun l => { l with faultHold := false, thawAt := 0 })

/-- The current release of a lane is one that was doomed. -/
def isDoomed (l : Lane) : Bool := match l.rel with | some r => !l.retired && l.doom.contains (r.start, r.fstart) | none => false

/-- R373: a faulted block is cleared and starts again from its block-start state. -/
def execBlockRestart (lane : Nat) (s : State) : Res :=
  let l := s.lane lane
  if !isDoomed l then .next s
  else
    match l.rel with
    | none => .next s
    | some r =>
      match s.workById r.entry.workid with
      | none => .next s
      | some w =>
        let s := clearBlock s lane
        let r := { r with wrote := [], published := none, publishedBufs := [], fstart := if r.kind = .fallback then s.tick else r.fstart }
        .next (startBlock s lane r (progOf s w r.block) (tickStart s.tick + 8))

/-- R374: a killed block is cleared; its fallback starts at once. -/
def execKillClear (lane : Nat) (s : State) : Res :=
  if isDoomed (s.lane lane) then .next (clearAndGo s lane true) else .next s

/-! ## Overruns (R377 to R380) -/

/-- The entry of a work that a lane's release runs, counted one overrun more. -/
def countOverrun (s : State) (lane : Nat) (e : Entry) : State :=
  let s := { s with works := s.works.map fun (w : Work) =>
    if w.workid = e.workid then
      { w with entries := w.entries.map fun (x : Entry) => if x.mode = e.mode && x.idx = e.idx then { x with ovr := x.ovr + 1 } else x }
    else w }
  s.modLane lane fun l => { l with ovtot := l.ovtot + 1 }

/-- An overrun record. -/
def overrunRec (s : State) (lane : Nat) (r : Release) (fb : Bool) : List Byte :=
  let l := s.lane lane
  faultRec 3 0x04 6 0xFF r.entry.workid r.block lane 8 r.entry.idx 0 (4 * b2n fb) s.tick l.intdone l.ccyc
    ((s.tset.map (·.mode)).getD 0) (s.tick - r.start) r.pidx

/-- R377, R380: a firm primary has not retired at its DEADLINE tick. -/
def execOverrun (lane : Nat) (s : State) : Res :=
  match (s.lane lane).rel with
  | none => .next s
  | some r =>
    if (s.lane lane).retired || r.kind != .firm then .next s
    else
      let pol := r.entry.ovpol
      let s := countOverrun s lane r.entry
      let s := if 2 ≤ pol then s.postFq (overrunRec s lane r false) else s
      let s := if pol = 1 || pol = 3 then postMode s r.entry.ovmode 1 (dieOf lane) (coreOf lane % 16) lane r.entry.workid else s
      .next (clearAndGo s lane false)

/-- R377, R380: a fallback has not retired at its FBEND tick. -/
def execFallbackOverrun (lane : Nat) (s : State) : Res :=
  match (s.lane lane).rel with
  | none => .next s
  | some r =>
    if (s.lane lane).retired || r.kind != .fallback then .next s
    else
      let s := countOverrun s lane r.entry
      let s := s.postFq (overrunRec s lane r true)
      .next (clearAndGo s lane false)

/-! ## Elastic blocks (R116, R117, R383 to R388) -/

/-- R117: the place of an entry in admission order: its work's place, then its own. -/
def admitted (s : State) (e : Entry) : Nat × Nat := (s.works.findIdx fun w => w.workid == e.workid, e.idx)

/-- R117: a new release joins its lane's queue before the first entry admitted later. -/
def joinQueue (s : State) (e : Entry) (id : Nat) (q : List Nat) : List Nat :=
  let later (k : Nat) : Bool := match s.elastics.find? fun x => x.id == k with
    | some x =>
      let a := admitted s e
      let b := admitted s x.entry
      a.1 < b.1 || (a.1 == b.1 && a.2 < b.2)
    | none => false
  q.takeWhile (!later ·) ++ id :: q.dropWhile (!later ·)

/-- R116: an elastic entry is released at its START, unless an earlier release of it is unretired. -/
def execElasticRelease (lane entry : Nat) (s : State) : Res :=
  match entryAt s lane entry, erelOf s lane entry with
  | some (_, e), none =>
    if !e.elastic then .next s
    else
      let (id, s) := s.fresh
      let x : ERel := { id, entry := e, rel := newRelease s e .elastic }
      .next { s with elastics := s.elastics ++ [x], queues := tblPut s.queues lane (joinQueue s e id (laneQueue s lane)) }
  | _, _ => .next s

def State.modErel (s : State) (id : Nat) (f : ERel → ERel) : State :=
  { s with elastics := s.elastics.map fun e => if e.id = id then f e else e }

/-- A load of a block stops at a cell boundary; the cycles it had still to wait are kept (R299). -/
def FeltLoad.halt (l : FeltLoad) (now : Nat) : FeltLoad := { l with stopped := true, due := l.due - now }

/-- R299, R325: the copies and Felt loads of a block stop at their boundaries: a copy within the 120 cycles of R383, at a
cycle that the device does not fix. -/
def stopEngines (s : State) (lane : Nat) : State :=
  let core := coreOf lane
  let (k, s) := s.free
  let at_ := s.now + Config.copyStop k % 120
  s.modCore core fun c =>
    { c with copies := c.copies.map fun (x : CopyOp) =>
               if x.lane = lane && (x.st == CopySt.running || x.st == CopySt.queued) then { x with haltAt := some at_ } else x,
             felt := c.felt.withLoads (c.felt.loads.map fun (l : FeltLoad) => if l.lane = lane && !l.stopped then l.halt s.now else l) }

/-- R383: the elastic block of a lane stops at the start of this tick; a cause that arises within a tick stops it at the
start of the next. -/
def execElasticStop (lane : Nat) (why : StopWhy) (s : State) : Res :=
  let l := s.lane lane
  if l.erun.isNone || l.retired then .next s
  else if s.now % 120 ≠ 0 then
    if l.stop = .none then
      .next ((s.modLane lane fun l => { l with stop := .due why }).post (tickStart (s.tick + 1)) (.elasticStop lane why))
    else .next s
  else
    match l.stop with
    | .saving _ _ => .next s
    | _ =>
      let why := match l.stop with | .due w => w | _ => why
      let s := s.modLane lane fun l =>
        { l with stop := .saving s.tick why, seq := .stopped,
                 rel := l.rel.map fun r => { r with stops := r.stops + 1 } }
      .next ((stopEngines s lane).post (tickStart (s.tick + 2)) (.elasticSave lane))

/-- R117: a work's budget on a lane is spent: its entry is stopped and goes to the back of the queue. -/
def execBudgetExhausted (lane : Nat) (s : State) : Res :=
  match (s.lane lane).erun with
  | some id => execElasticStop lane .budget (toBack s lane id)
  | none => .next s

/-! ### The save frame (R384, R386) -/

/-- The length of the zero run at the front. -/
def zeroRun : List Nat → Nat
  | 0 :: r => zeroRun r + 1
  | _ => 0

/-- The length of the run of words equal to `w` at the front. -/
def sameRun (w : Nat) : List Nat → Nat
  | x :: r => if x = w then sameRun w r + 1 else 0
  | [] => 0

/-- Words up to the next position where a zero or repeat run applies. -/
def literalRun : List Nat → Nat
  | [] => 0
  | x :: r => if (x = 0 && 2 ≤ zeroRun (x :: r)) || (x ≠ 0 && 3 ≤ sameRun x (x :: r)) then 0 else literalRun r + 1

/-- R386: the coder; `fuel` bounds the runs. -/
def codeWords : Nat → List Nat → List Byte
  | 0, _ => []
  | fuel + 1, ws =>
    match ws with
    | [] => []
    | x :: _ =>
      let z := zeroRun ws
      let n := sameRun x ws
      if 2 ≤ z then
        let k := min z 64
        BitVec.ofNat 8 (k + 0x3F) :: codeWords fuel (ws.drop k)
      else if x ≠ 0 && 3 ≤ n then
        let k := min n 128
        BitVec.ofNat 8 (k + 0x7F) :: (leBytes 8 x ++ codeWords fuel (ws.drop k))
      else
        let k := min (max 1 (literalRun ws)) 64
        BitVec.ofNat 8 (k - 1) :: ((ws.take k).flatMap (leBytes 8) ++ codeWords fuel (ws.drop k))

/-- The words of a saved state: the spec lays down what they hold and not their order, so they are free, up to the
save size of the block. -/
def savedWords (ctr bytes : Nat) : List Nat := (List.range (Config.freeBits ctr % (bytes / 8 + 1))).map fun k => Config.freeBits (ctr + 1 + k) % 2 ^ 64

/-- The image index of a clean bank (R384). -/
def bankRef (b : Bank) : Nat := if b.st = .empty || b.dirty then 0xFFFF else b.img

/-- The save-frame header (R384). -/
def saveHeader (lane : Nat) (l : Lane) (r : Release) (x : ERel) (raw coded stick : Nat) : List Byte :=
  let flags := b2n (l.hdr.afgar && l.run) + 2 * b2n x.page.isSome + 4 * b2n x.image.isSome
  packFields [(8, 0x3156534C41525942), (2, r.entry.workid), (2, r.block), (1, coreOf lane % 16 * 4 + slotOf lane), (1, flags),
    (2, 0), (4, raw), (4, coded), (8, stick), (4, bankRef (l.bank 0) + bankRef (l.bank 1) * 2 ^ 16), (28, 0)]

/-- What the units, engines and queues of a lane hold, to be restored. -/
def savedCore (s : State) (lane : Nat) : Core :=
  let c := s.core (coreOf lane)
  let slot := slotOf lane
  let mine := (c.owner.filter fun y => y.2 == slot + 1).map (·.1)
  let mx := (engsOf s lane).any fun e => e.eng.testBit 0
  let ep := mine.contains (uEng 1)
  let fe := mine.contains (uEng 3) || (engsOf s lane).any fun e => e.eng.testBit 3
  { c with
    owner := c.owner.filter fun (y : Nat × Nat) => y.2 == slot + 1,
    lists := c.lists.filter fun (y : Nat × List Nat) => mine.contains (y.1 / 2),
    srcs := c.srcs.filter fun (y : Nat × Nat) => mine.contains (y.1 / 2),
    elems := c.elems.filter fun (y : Nat × Elem) => mine.contains y.1,
    gens := c.gens.filter fun (y : Nat × GenTile) => s.servesGen lane y.1,
    ports := c.ports.map fun (y : Nat × PortTile) =>
      (y.1, { latch := if mine.contains (uPort y.1) then y.2.latch else {}, queue := y.2.queue.filter fun (e : WEnt) => e.lane == lane, tlb := [] }),
    north := if ep then c.north else [], south := if mine.contains (uEng 3) then c.south else [],
    opm := if mx then c.opm else [], ring := if mx then c.ring else [], head := if mx then c.head else 0,
    tail := if mx then c.tail else 0, full := if mx then c.full else 0,
    rows := c.rows.filter fun (r : RowInst) => r.lane == lane, epc := if ep then c.epc else none,
    scale := if ep then c.scale else [], bias := if ep then c.bias else [], biasT := if ep then c.biasT else [],
    landing := if mx then c.landing else [], copies := c.copies.filter fun (x : CopyOp) => x.lane == lane,
    felt := if fe then c.felt else {}, bars := c.bars.filter fun (y : Nat × Bar) => y.2.init && y.2.owner == slot,
    arrivals := c.arrivals.filter fun (a : Arrival) => a.lane == lane,
    reqs := c.reqs.filter fun (r : Req) => r.lane == lane && r.unit != 240, tlb := [] }

/-- R384: the state of a stopped block is written to its frame in partition 14, and its lane becomes free. -/
def execElasticSave (lane : Nat) (s : State) : Res :=
  let l := s.lane lane
  -- a kill decided before the stop ended is carried out instead (R375)
  if isDoomed l && s.evq.any (fun y => decide (y.1 ≤ s.now) && y.2 == .killClear lane) then .next s
  else match l.stop, l.erun.bind (fun id => s.elastics.find? fun e => e.id == id), l.rel with
  | .saving t why, some x, some r =>
    let x := match why with
      | .page => { x with page := some l.suspVa }
      | .image => { x with image := some l.suspImg }
      | _ => x
    let saveb := match s.workById r.entry.workid with | some w => (wcOf s w r.block r.entry.dw).saveB | none => 0
    let (k, s) := s.free
    let ws := savedWords k saveb
    let coded := codeWords ws.length ws
    let base := match (s.die (dieOf lane)).saves.find? fun y => y.1 == r.entry.workid && y.2.1 == entryKey r.entry with
      | some y => y.2.2
      | none => 0
    let pa := bufBase (dieOf lane) + 14 * 0x400000 + base
    let frame := saveHeader lane l r x (8 * ws.length) coded.length t ++ coded
    let kept : Saved := { frame := frame.length, since := s.now, lane := { l with stop := .none }, core := savedCore s lane }
    let s := { s with mem := memWrite s.mem pa frame }
    let s := dropQueues s lane
    let s := s.modCore (coreOf lane) fun c =>
      { c with reqs := c.reqs.filter fun (q : Req) => q.lane != lane || q.unit == 240,
               copies := c.copies.filter fun (y : CopyOp) => y.lane != lane }
    -- the slot is freed, but the barriers of the block stay
    let bars := (s.core (coreOf lane)).bars
    let rounds := s.rounds
    let s := freeSlot s lane
    let s := { s.modCore (coreOf lane) fun c => { c with bars } with rounds }
    let s := s.modErel x.id fun _ => { x with saved := some kept, rel := r }
    let s := if why = .yielded then toBack s lane x.id else s
    let s := s.modLane lane fun l => { l with erun := none, rel := none, stop := .none, seq := .idle, halted := false }
    .next (resend s (coreOf lane))
  | _, _, _ => .next s

/-! ### Resumption (R387) -/

/-- The atomics of a port that were sent and not answered take the recorded old value of their tag (R359, R383). -/
def reask (s : State) (core row : Nat) (r : Req) (q : List WEnt) : Req :=
  match q.find? fun e => e.req == some r.id with
  | some e =>
    match e.tag with
    | none => r
    | some tag =>
      let found (p : Piece) : Option (List Byte) :=
        (s.applied.find? fun a => a.core == core && a.port == row && a.lane == p.lane && a.tag == tag).map (·.old)
      if r.pieces.all fun p => (found p).isSome then
        { r with pieces := r.pieces.map fun p => { p with got := (found p).getD [], done := true }, ready := true, readyAt := s.now + 24 }
      else r
  | none => r

/-- A window that a lane's region uses maps an address to where it was translated to: such translations stand. -/
def windowed (s : State) (lane va pa : Nat) : Bool := (s.lane lane).cwin.any fun w => winHit w va && winPa w va == pa

/-- R162, R163, R387: an access still to be made is translated again: the piece under its present translation, or what
the translation meets now. -/
def again (s : State) (lane : Nat) (ag : Agent) (acc : Acc3) (p : Piece) : State × (Piece ⊕ Tr) :=
  let one (s : State) (va pa : Nat) : State × Tr :=
    if windowed s lane va pa then (s, .ok pa {} false 0 0) else s.trPage lane ag acc true va
  let (s, main) := one s p.va p.pa
  match main with
  | .ok pa a paged _ page =>
    let p := if paged then { p with pa, key := a.key, ful := a.ful, wblk := a.wblk && acc != .read, fmt := a.fmt, pol := a.pol, page } else p
    let (s, alt) := match p.alt with | some b => one s p.altV b | none => (s, .ok 0 {} false 0 0)
    let (s, map) := match p.map with
      | some (m, _) => one s p.mapV m
      | none => (s, .ok 0 {} false 0 0)
    match alt, map with
    | .ok b _ _ _ _, .ok m _ _ _ _ => (s, .inl { p with alt := p.alt.map fun _ => b, map := p.map.map fun y => (m, y.2) })
    | .ok _ _ _ _ _, t => (s, .inr t)
    | t, _ => (s, .inr t)
  | t => (s, .inr t)

/-- What translating again has met: the state, an absent page with the TILE that met it, and faults by unit and entry. -/
structure Redo where
  s : State
  absent : Option (Nat × Nat) := none
  bad : List (Nat × Nat × Code × Nat) := []

/-- The pieces of one access, translated again; one that faults is not made. -/
def redo (lane : Nat) (ag : Agent) (acc : Acc3) (unit entry : Nat) : List Piece → Redo → Redo × List Piece
  | [], r => (r, [])
  | p :: ps, r =>
    let (r, out) := if p.done then (r, [p]) else match again r.s lane ag acc p with
      | (s, .inl p) => ({ r with s }, [p])
      | (s, .inr (.absent va)) => ({ r with s, absent := r.absent.or (some (ag.tile, va)) }, [p])
      | (s, .inr (.fault c i)) => ({ r with s, bad := r.bad ++ [(unit, entry, c, i)] }, [{ p with done := true }])
      | (s, _) => ({ r with s }, [p])
    let (r, rest) := redo lane ag acc unit entry ps r
    (r, out ++ rest)

/-- The writes of a saved queue. -/
def redoQueue (lane row : Nat) : List WEnt → Redo → Redo × List WEnt
  | [], r => (r, [])
  | e :: q, r =>
    let (r, ps) := if e.sent.isSome || e.lane != lane then (r, e.pieces)
      else redo lane (.port row) (if e.kind = .store then .write else .atomic) (uPort row) e.entry e.pieces r
    let (r, q) := redoQueue lane row q r
    (r, { e with pieces := ps } :: q)

/-- The saved queues of a block's ports. -/
def redoPorts (lane : Nat) : Tbl PortTile → Redo → Redo × Tbl PortTile
  | [], r => (r, [])
  | y :: t, r =>
    let (r, q) := redoQueue lane y.1 y.2.queue r
    let (r, t) := redoPorts lane t r
    (r, (y.1, { y.2 with queue := q }) :: t)

/-- The saved requests for data: a load's, or an `fxin`'s; an atomic's own pieces follow its queue entry. -/
def redoReqs (lane : Nat) : List Req → Redo → Redo × List Req
  | [], r => (r, [])
  | q :: t, r =>
    let (r, ps) :=
      if q.ready || q.atomic then (r, q.pieces)
      else if q.unit < 8 then redo lane (.port q.unit) .read (uPort q.unit) q.entry q.pieces r
      else if q.unit = 242 then redo lane .felt .read (uEng 3) q.entry q.pieces r
      else (r, q.pieces)
    let (r, t) := redoReqs lane t r
    (r, { q with pieces := ps } :: t)

/-- The writes of engines still to be issued. -/
def redoFlights (lane : Nat) : List Flight → Redo → Redo × List Flight
  | [], r => (r, [])
  | f :: t, r =>
    let (r, land) := match f.land with
      | .epw b ps n => let (r, ps) := redo lane .epi .write f.unit f.entry ps r; (r, .epw b ps n)
      | .fxout b ps => let (r, ps) := redo lane .felt .write f.unit f.entry ps r; (r, .fxout b ps)
      | .fpop b ps => let (r, ps) := redo lane .felt .write f.unit f.entry ps r; (r, .fpop b ps)
      | x => (r, x)
    let (r, t) := redoFlights lane t r
    (r, { f with land } :: t)

/-- R162, R163, R387: a resumed block's accesses still to be made, under the translations that now stand. -/
def redoBlock (s : State) (lane : Nat) (v : Saved) : Redo × Saved :=
  let (r, ports) := redoPorts lane v.core.ports { s }
  let (r, reqs) := redoReqs lane v.core.reqs r
  let (r, flights) := redoFlights lane v.lane.flights r
  (r, { v with core := { v.core with ports, reqs }, lane := { v.lane with flights } })

/-- The request of a load or atomic issues again. -/
def reissue (s : State) (lane : Nat) (sv : Core) (r : Req) : State :=
  let core := coreOf lane
  if r.unit = 255 || r.unit = 241 || r.unit = 243 then s
  else if r.atomic then
    s.modCore core fun c => { c with reqs := c.reqs ++ [reask s core r.unit r (sv.port r.unit).queue] }
  else if r.ready then s.modCore core fun c => { c with reqs := c.reqs ++ [r] }
  else issueReq s core (r.fresh s.now)

/-- Merge the kept state of a block's units into its core. -/
def mergeCore (c sv : Core) (lane until_ : Nat) : Core :=
  let felt := sv.felt.withLoads (sv.felt.loads.map fun (l : FeltLoad) => { l with stopped := false, due := until_ + l.due })
  let put {α : Type} (a b : Tbl α) : Tbl α := b.foldl (fun t y => tblPut t y.1 y.2) a
  let has (u : Nat) : Bool := tblGet 0 sv.owner u != 0
  let mx := !sv.opm.isEmpty || !sv.ring.isEmpty || has (uEng 0)
  { c with
    owner := put c.owner sv.owner, lists := put c.lists sv.lists, srcs := put c.srcs sv.srcs, elems := put c.elems sv.elems, gens := put c.gens (sv.gens.map fun (y : Nat × GenTile) => (y.1, { y.2 with taken := y.2.seen })),
    ports := sv.ports.foldl (fun t (y : Nat × PortTile) =>
      let p := tblGet {} t y.1
      tblPut t y.1 { p with latch := if has (uPort y.1) then y.2.latch else p.latch,
                            queue := p.queue ++ y.2.queue.filter fun (e : WEnt) => e.sent.isNone }) c.ports,
    north := put c.north sv.north, south := put c.south sv.south,
    opm := if mx then sv.opm else c.opm, ring := if mx then sv.ring else c.ring, head := if mx then sv.head else c.head,
    tail := if mx then sv.tail else c.tail, full := if mx then sv.full else c.full, landing := if mx then sv.landing else c.landing,
    rows := c.rows ++ sv.rows, epc := if has (uEng 1) then sv.epc else c.epc, scale := if has (uEng 1) then sv.scale else c.scale,
    bias := if has (uEng 1) then sv.bias else c.bias, biasT := if has (uEng 1) then sv.biasT else c.biasT,
    copies := c.copies ++ sv.copies.map fun (x : CopyOp) => if x.st = .stopped then { x with st := .running, haltAt := none } else { x with haltAt := none },
    felt := if has (uEng 3) then felt else c.felt,
    bars := sv.bars.foldl (fun t (y : Nat × Bar) => if (tblGet {} t y.1).init then t else tblPut t y.1 y.2) c.bars,
    arrivals := c.arrivals ++ sv.arrivals.filter fun (a : Arrival) => a.lane == lane }

/-- Cycles of restoring: the frame at 2,048 bytes a cycle, then the loads of its clean banks; the freeze wave's frame at
512 bytes a cycle, with no load (R387, R388). -/
def restoreCycles (s : State) (v : Saved) : Nat :=
  let clean := ([0, 1].map v.lane.bank).filter fun b => b.st != .empty && !b.dirty
  let wave := v.lane.hdr.afgar && v.lane.run
  let loads := match (v.lane.rel.bind fun r => s.workById r.entry.workid).bind fun w => s.conts[w.cont]? with
    | some c => clean.map fun (b : Bank) => match c.images[b.img]? with | some i => loadCycles c b.img i none | none => 0
    | none => []
  if wave then (v.frame + 511) / 512 else (v.frame + 2047) / 2048 + loads.foldl max 0

/-- The release of a saved block; its region has been held since it stopped (R383, R400). -/
def keptRel (s : State) (x : ERel) (v : Saved) : Release :=
  { x.rel with held := x.rel.held + if v.lane.run then s.now - v.since else 0 }

/-- The lane of a block that is being restored (R387). -/
def resumedLane (s : State) (lane : Nat) (x : ERel) (v : Saved) : Lane :=
  let old := s.lane lane
  let until_ := s.now + restoreCycles s v
  { v.lane with
    stop := .restoring until_, erun := some x.id, rel := some (keptRel s x v), budget := old.budget, ovtot := old.ovtot,
    nextProg := old.nextProg, fbProg := old.fbProg, seq := (match v.lane.seq with | .skip a b => .skip a b | _ => .run), retired := false,
    heldReq := none, blockedVa := none, spawnBuf := [], goAt := until_ }

/-- R387: the block a lane picks resumes from its saved state. -/
def execElasticResume (lane : Nat) (s : State) : Res :=
  match pickElastic s lane with
  | none => .next s
  | some x =>
    match x.saved, s.workById x.entry.workid with
    | none, some _ => .next (runNext s lane)
    | some v, some w =>
      let clean := ([0, 1].map v.lane.bank).filter fun b => b.st != .empty && !b.dirty
      match clean.find? fun b => !isResident s w.cont b.img with
      | some b =>
        let s := s.note 0x23 (dieOf lane) (coreOf lane % 16) 0xFD x.entry.workid 0 (w.cont * 2 ^ 16 + b.img) 0 0
        .next (s.modErel x.id fun e => { e with image := some (w.cont, b.img) })
      | none =>
        let old := s.lane lane
        let until_ := s.now + restoreCycles s v
        let l := resumedLane s lane x v
        let (r, v) := redoBlock (s.setLane lane l) lane v
        match r.absent with
        | some (tile, va) =>
          -- the page is away again: the block stays suspended (R157)
          let s := (r.s.setLane lane old).note 0x21 (dieOf lane) (coreOf lane % 16) tile x.entry.workid 0 va 0 0
          .next (s.modErel x.id fun e => { e with page := some va })
        | none =>
          let s := r.s.setLane lane { l with flights := v.lane.flights }
          let s := s.modCore (coreOf lane) fun c => mergeCore c v.core lane until_
          let s := match (s.core (coreOf lane)).copies with
            | y :: _ => if y.lane = lane && y.st = .running then setProg s (coreOf lane) y true false false else s
            | [] => s
          let s := v.core.reqs.foldl (fun s r => reissue s lane v.core r) s
          let s := resend s (coreOf lane)
          let s := r.bad.foldl (fun s b => raiseAt s lane b.1 b.2.1 b.2.2.1 b.2.2.2 .late) s
          let s := if v.lane.retry.isEmpty then s else s.post until_ (.entryRetry lane)
          .next (s.modErel x.id fun e => { e with saved := none })
    | _, _ => .next s

end Sys2Proof.Machine
end

