-- ==== Sys2Proof/Machine/Records.lean ====
section
/-! DEFINITION. Structures read as bytes: fields, and the violations of R2, R20 and R57 with the place they stand in. -/

namespace Sys2Proof.Machine

/-- A structure as its bytes, from offset 0. -/
abbrev Bytes := Nat → Byte

def rd (b : Bytes) (off n : Nat) : Nat := (List.range n).foldl (fun a k => a + 2 ^ (8 * k) * (b (off + k)).toNat) 0

def bytesAt (b : Bytes) (off n : Nat) : List Byte := (List.range n).map fun (k : Nat) => b (off + k)

/-- A list of bytes, zero beyond its end. -/
def ofBytes (bs : List Byte) : Bytes := fun (o : Nat) => (bs[o]?).getD 0

/-- A violation at `off`, in the field at bit `bit` from it, unless `c` holds. -/
def chk (c : Bool) (off : Nat) (bit : Nat := 0) : List Viol := if c then [] else [{ off, bit }]

/-- Violations with the structure they stand in named (R20, R57). -/
def named (f : Viol → Viol) (vs : List Viol) : List Viol := vs.map f

/-- R2: bits `lo` to `hi - 1` of the field at `off` are reserved; the violation is the first that is not zero. -/
def rsvBits (b : Bytes) (off lo hi : Nat) : List Viol :=
  match (List.range (hi - lo)).find? fun k => (b (off + (lo + k) / 8)).getLsbD ((lo + k) % 8) with
  | some k => [{ off := off + (lo + k) / 8, bit := (lo + k) % 8 }]
  | none => []

/-- Reserved bytes. -/
def rsvd (b : Bytes) (off n : Nat) : List Viol := rsvBits b off 0 (8 * n)

/-- R28: the first violation: the lowest offset, and of those at one offset the lowest bit. -/
def firstViol (vs : List Viol) : Option Viol :=
  vs.foldl (fun a v => match a with
    | none => some v
    | some u => if v.off * 128 + v.bit < u.off * 128 + u.bit then some v else some u) none

/-- R121, R126: the reserved fields of a launch record at an offset. -/
def launchRsv (b : Bytes) (o : Nat) : List Viol :=
  rsvd b (o + 0x53) 1 ++ rsvd b (o + 0x58) 24 ++
    (List.range 8).flatMap (fun k => rsvd b (o + 0x73 + 16 * k) 1 ++ rsvd b (o + 0x78 + 16 * k) 8) ++
    (List.range 8).flatMap (fun k => rsvBits b (o + 0x108 + 32 * k) 1 16 ++ rsvd b (o + 0x10A + 32 * k) 6) ++
    (List.range 4).flatMap (fun v => rsvBits b (o + 0x1F0 + v) 4 8) ++ rsvd b (o + 0x1F5) 11

end Sys2Proof.Machine
end

