-- ==== Sys2Proof/Machine/Launch.lean ====
section
/-! DEFINITION. Launching: the launch packet (R121, R122), admission and placement (R123 to R130), pre-translation and
locks (R154, R155), the loading of buffers (R332), activation, periods, mode changes and the end of a work (R111, R112,
R116 to R120, R405). -/

namespace Sys2Proof.Machine

/-! ## Parsing (R113, R115, R121) -/

/-- `n` bytes from an offset, as a number. -/
def field (bs : List Byte) (off n : Nat) : Nat := leNat ((bs.drop off).take n)

/-- Bytes that are all zero. -/
def zeros (bs : List Byte) (off n : Nat) : Bool := ((bs.drop off).take n).all (· == 0)

/-- Level `k` of a launch record. -/
def parseLevel (r : List Byte) (k : Nat) : Level :=
  { domain := field r (0x70 + 16 * k) 1, scope := field r (0x71 + 16 * k) 1, policy := field r (0x72 + 16 * k) 1,
    count := field r (0x74 + 16 * k) 4 }

def parseSeed (r : List Byte) (k : Nat) : Seed :=
  { seed := field r (0xF0 + 32 * k) 8, first := field r (0xF8 + 32 * k) 8, last := field r (0x100 + 32 * k) 8,
    shared := (field r (0x108 + 32 * k) 2).testBit 0 }

/-- A launch record of 512 bytes. -/
def parseLaunch (r : List Byte) : Launch :=
  { digest := field r 8 64, tset := field r 0x48 2, dies := field r 0x4A 1, nlevel := field r 0x4B 1, modes := field r 0x4C 4,
    phase := field r 0x50 3, budget := field r 0x54 4, levels := (List.range (min 8 (field r 0x4B 1))).map (parseLevel r),
    seeds := (List.range 8).map (parseSeed r), dmask := (List.range 4).map fun (v : Nat) => field r (0x1F0 + v) 1,
    cmode := field r 0x1F4 1 }

/-- A table entry of a fragment (R115), its lane not yet known; the tick fields have the phase added. -/
def parseEntry (workid mode phase : Nat) (f : Frag) (idx w : Nat) : Entry :=
  let el := w.testBit 114
  let rv := fld w 188 12
  { idx, mode, workid, lane := 0, vregion := fld w 104 8, start := fld w 0 24 + phase,
    deadline := if el then fld w 24 24 else fld w 24 24 + phase, fbend := if el then fld w 48 24 else fld w 48 24 + phase,
    block := fld w 72 16, fblock := fld w 88 16, dw := fld w 112 2, elastic := el, optim := w.testBit 115,
    ovpol := fld w 116 3, ovmode := fld w 120 8, shared := w.testBit 119, fgroup := fld w 128 8, seedsel := fld w 136 4,
    ctroff := fld w 140 24, ctrlen := fld w 164 24, resv := if rv = 0 then none else f.resv[rv - 1]? }

/-- A packet under judgement: its launch, its container, its fragments by mode and its entries with their words. -/
structure Packet where
  workid : Nat
  parent : Nat
  acttick : Nat
  l : Launch
  cont : Nat
  c : Container
  frags : List Frag
  entries : List (Entry × Nat)

/-- Why a packet is rejected: code, mode, virtual region or lane, entry, and the record's INFO: of ILLEGAL_ENTRY the bit
offset (R370). -/
structure Rej where
  code : Code
  mode : Nat := 0
  lane : Nat := 0
  entry : Nat := 0
  info : Nat := 0

def fragOf (c : Container) (l : Launch) (m : Nat) : Option Frag :=
  c.frags.find? fun f => f.tset == l.tset && f.mode == m && f.dies == l.dies

def modesOf (l : Launch) : List Nat := (List.range 32).filter l.modes.testBit

def packetOf (bs : List Byte) (cont : Nat) (c : Container) : Packet :=
  let l := parseLaunch (bs.drop 64)
  let workid := field bs 0x10 2
  let frags := (modesOf l).filterMap (fragOf c l)
  { workid, parent := field bs 0x12 2, acttick := field bs 8 8, l, cont, c, frags,
    entries := frags.flatMap fun f => ((List.range f.entries.length).zip f.entries).map fun (y : Nat × Nat) =>
      (parseEntry workid f.mode l.phase f y.1 y.2, y.2) }

/-! ## Checks 1 to 4 (R26, R113 to R124) -/

/-- The launch record agrees with its template in the fields that are not the poster's (R26); RELOC is the poster's (R126). -/
def matchesTemplate (r t : List Byte) : Bool :=
  let same (off n : Nat) : Bool := (r.drop off).take n == (t.drop off).take n
  same 0 8 && same 0x48 2 && same 0x4B 1 && same 0x53 1 && same 0x58 24 && same 0x70 128 &&
    (List.range 8).all fun k => same (0xF0 + 32 * k + 26) 6

/-- The narrowest scope a domain's level may have (R122). -/
def domScope (d : Nat) : Nat := match d with | 0 => 5 | 1 => 4 | 2 => 3 | 3 => 2 | 4 => 1 | _ => 0

/-- R122: the levels of a record. -/
def levelsOk (r : List Byte) : Bool :=
  let n := field r 0x4B 1
  let ls := (List.range 8).map (parseLevel r)
  1 ≤ n && n ≤ 8 &&
    (List.range n).all (fun k => match ls[k]? with
      | some l => l.domain ≤ 6 && l.scope ≤ 7 && domScope l.domain ≤ l.scope && l.policy ≤ 3 && 1 ≤ l.count && l.count ≤ 65535 &&
          zeros r (0x73 + 16 * k) 1 && zeros r (0x78 + 16 * k) 8 &&
          (k = 0 || match ls[k - 1]? with | some p => decide (p.domain ≤ l.domain) | none => true)
      | none => false) &&
    zeros r (0x70 + 16 * n) (128 - 16 * n)

/-- R126: the relocation constraints. -/
def relocOk (l : Launch) (r : List Byte) : Bool :=
  (List.range 4).all (fun v =>
    let m := (l.dmask[v]?).getD 0
    m < 16 && (v < l.dies || m = 0) && l.cmode / 4 ^ v % 4 ≠ 3) && zeros r 0x1F5 11

/-- A firm window holds an offset. -/
def inWindow (e : Entry) (p : Nat) : Bool := !e.elastic && e.start ≤ p && decide (p < e.fbend)

/-- R114: mode-change points against windows, in its three pairings. -/
def pointsOk (s : State) (p : Packet) : Bool :=
  let own := p.frags.flatMap (·.chg)
  let wins := p.entries.map (·.1)
  let there := s.works.flatMap (·.entries)
  let pts := s.works.flatMap fun w => w.points.flatMap (·.2)
  own.all (fun q => !wins.any (fun e => inWindow e q) && !there.any fun e => inWindow e q) &&
    pts.all fun q => !wins.any fun e => inWindow e q

/-- R2: the first nonzero reserved bit of a packet's header or record, as a bit offset into the packet. -/
def packetRsv (bs : List Byte) : Option Nat :=
  (firstViol (rsvd (ofBytes bs) 0x14 44 ++ launchRsv (ofBytes bs) 64)).map fun v => 8 * v.off + v.bit

/-- R57, R370: what a record says of a container's violation: its entry's or step's index, and the bit in that entry or
step, else the bit in the container. -/
def violRej (v : Viol) : Rej :=
  { code := if v.combo then .reservedCombo else .illegalEntry, entry := (v.entry.or v.step).getD 0,
    info := if v.entry.isSome || v.step.isSome then v.bit else 8 * v.off + v.bit }

/-- Check 2. -/
def check2 (s : State) (p : Packet) (bs : List Byte) : Option Rej :=
  let r := bs.drop 64
  match p.c.reject, packetRsv bs with
  | some v, _ => some (violRej v)
  | none, some bit => some { code := .illegalEntry, info := bit }
  | none, none =>
    let ok := field bs 0 8 == 0x31504C4C41525942 && field r 0 8 == 0x31524C4C41525942 &&
      levelsOk r && relocOk p.l r && p.l.dies == s.liveCount && p.c.minDies ≤ p.l.dies && p.l.modes != 0 &&
      (modesOf p.l).all (fun m => (fragOf p.c p.l m).isSome) && pointsOk s p
    if ok then none else some { code := .illegalEntry }

/-- The steps of a block's program, decoded. -/
def stepsOf (c : Container) (b : Block) : List Instr :=
  ((c.progs[b.seq]?).getD []).filterMap fun w => (decodeStep w).toOption

/-- R170: the region slots a program names are the entry's. -/
def slotsOk (is : List Instr) (slot : Nat) : Bool :=
  is.all fun i => match i with
    | .cfg r _ _ | .cfgx r _ _ _ | .swap r | .run r _ | .freeze r | .thaw r => r == slot
    | .waitRegion n => n == slot
    | _ => true

/-- The entries of an engine's patterns in an image. -/
def engEntries (i : Image) (e : Nat) : List Instr :=
  (i.rects.filter fun r => r.kind == 3 && r.row ≤ e && decide (e < r.row + r.rows)).flatMap fun r => (patOf i r).entries.filterMap fun w => (decodeEngine e w).toOption

def imagesOf (c : Container) (b : Block) : List Image := (c.images.drop b.imgFirst).take b.imgCount

def engStamp (i : Instr) : Nat :=
  match i with
  | .epc h _ | .epi h _ _ _ | .epw h _ _ _ _ _ | .epd h | .epb h _ _ => h.stamp
  | _ => 0

/-- R287: the busy span of an epilogue entry. -/
def epiBusy (m w : Nat) (i : Instr) : Nat :=
  let k := (1 + w + stretch w - 1) / stretch w
  match i with
  | .epw _ _ _ _ _ _ => m * k
  | .epi _ _ _ _ => k
  | _ => 1

/-- R287: no entry of the epilogue fires while another keeps it busy. -/
def epilogueOk (c : Container) (b : Block) (w : Nat) : Bool :=
  let is := imagesOf c b
  let mx := is.flatMap fun i => engEntries i 0
  let ms := mx.filterMap fun i => match i with | .mm o | .mms o => some o.m | _ => none
  let m := if ms.isEmpty || mx.any (fun i => match i with | .mmz _ _ => true | _ => false) then 16 else ms.foldl max 0
  is.all fun i =>
    let es := engEntries i 1
    es.all fun x =>
      let n := epiBusy m w x
      n ≤ i.ii && (List.range (n - 1)).all fun d => !es.any fun y => engStamp y == (engStamp x + d + 1) % i.ii

/-- R258: two buffers of an entry overlap. -/
def overlapping (bs : List Bnd) (w : Nat) : Bool :=
  bs.any fun a => bs.any fun b => a.f.id != b.f.id &&
    (bufSpans a.f w).any fun x => (bufSpans b.f w).any fun y => decide (x.1 < y.1 + y.2) && decide (y.1 < x.1 + x.2)

/-- DRAM slots or link flits of a block's bindings at a width (R258). -/
def peak (bs : List Bnd) (w : Nat) (f : Bind → Nat) : Nat := bs.foldl (fun a x => a + (if x.f.diff then 1 + w else 1) * f x.b) 0

/-- R123: every `mode` step names a mode of the packet. -/
def modesNamed (l : Launch) (is : List Instr) : Bool := is.all fun i => match i with | .mode m => l.modes.testBit m | _ => true

/-- The virtual dies a bit of LINKS names (R136). -/
def dieLinks (n : Nat) : List Nat :=
  match n with
  | 0 => [0, 1] | 1 => [1, 3] | 2 => [3, 2] | 3 => [2, 0] | 4 => [0] | 5 => [1] | 6 => [2] | 7 => [3] | _ => []

/-- R261: a block's engine lists stay within the slots and tiles of its drone width. -/
def engLimits (c : Container) (b : Block) (w : Nat) : Bool :=
  ((c.engs.drop b.engFirst).take b.engCount).all fun r => r.slots ≤ slotLimit w && r.ring ≤ tileLimit w

/-- Check 3 for one entry. -/
def entryOk (s : State) (p : Packet) (f : Frag) (e : Entry) (w : Nat) : Bool :=
  match p.c.block e.block with
  | none => false
  | some b =>
    let seedOk := e.seedsel == 0xF || (match p.l.seeds[e.seedsel]? with
      | some d => d.first + (e.ctroff + e.ctrlen) * 2 ^ 16 ≤ d.last + 1
      | none => false)
    let wd := planesOf e.dw
    let bs := bndsOf p.c b
    let ds := match e.resv with | some r => r.dslots | none => 0
    let wc := (p.c.wcs[b.wc + e.dw]?).getD default
    let is := stepsOf p.c b
    let maxSave := if (imagesOf p.c b).any (·.afgar) then 61440 else 245760
    let links := match e.resv with | some r => r.links | none => 0
    fld w 200 56 == 0 && (e.seedsel < 8 || e.seedsel == 0xF) && e.ovpol < 4 &&
      (e.ovpol == 1 || e.ovpol == 3 || e.ovmode == 0) &&
      (if e.elastic then fld w 24 48 == 0 && e.fblock == 0xFFFF && !e.optim && e.ovpol == 0 && fld w 188 12 == 0 && decide (e.start < f.period)
       else decide (e.start < e.deadline) && decide (e.deadline ≤ e.fbend) && decide (e.fbend ≤ f.period) &&
         (e.fblock != 0xFFFF || e.fbend == e.deadline)) &&
      e.fblock == b.fallback && e.fgroup == b.fgroup && b.dwmask.testBit e.dw && !b.flags.testBit 2 &&
      b.flags.testBit (b2n e.elastic) && (!e.optim || (b.flags.testBit 3 && e.fblock != 0xFFFF)) &&
      fld w 188 12 ≤ f.resv.length && peak bs wd (·.dramPk) ≤ ds * 8 * p.l.dies && seedOk &&
      p.l.seeds.all (fun d => d.first ≤ d.last && d.last < 2 ^ 40) && (!e.elastic || p.l.budget != 0) &&
      (!(e.ovpol == 1 || e.ovpol == 3) || p.l.modes.testBit e.ovmode) &&
      modesNamed p.l is && slotsOk is (e.vregion % 4) &&
      (match p.c.block e.fblock with
       | some k => slotsOk (stepsOf p.c k) (e.vregion % 4) && epilogueOk p.c k wd && modesNamed p.l (stepsOf p.c k) && engLimits p.c k wd
       | none => true) &&
      epilogueOk p.c b wd && engLimits p.c b wd &&
      !overlapping (bs ++ (match p.c.block e.fblock with | some k => bndsOf p.c k | none => [])) wd && (!e.elastic || wc.saveB ≤ maxSave) &&
      (List.range 8).all (fun j => !links.testBit j || (dieLinks j).all fun v => decide (v < p.l.dies)) &&
      !(p.parent != 0xFFFF && !e.elastic) && s.powered

/-- The fragment of a mode. -/
def Packet.frag (p : Packet) (m : Nat) : Frag := (p.frags.find? fun f => f.mode == m).getD default

def check3 (s : State) (p : Packet) : Option Rej :=
  (p.entries.find? fun y => !entryOk s p (p.frag y.1.mode) y.1 y.2).map fun y =>
    { code := .illegalEntry, mode := y.1.mode, lane := y.1.vregion, entry := y.1.idx,
      info := ((List.range 56).find? fun k => y.2.testBit (200 + k)).elim 0 (200 + ·) }

def ticksOf (c : Container) (num dw : Nat) : Nat :=
  match c.block num with
  | some b => ((c.wcs[b.wc + dw]?).map (·.ticks)).getD 0
  | none => 0

/-- Check 4. -/
def check4 (p : Packet) : Option Rej :=
  (p.entries.find? fun y =>
    let e := y.1
    !e.elastic && ((!e.optim && decide (e.deadline < e.start + ticksOf p.c e.block e.dw)) ||
      (e.fblock != 0xFFFF && decide (e.fbend < e.deadline + ticksOf p.c e.fblock e.dw)))).map fun y =>
    { code := .overrun, mode := y.1.mode, lane := y.1.vregion, entry := y.1.idx }

/-! ## Placement (R127) -/

/-- Insertions of an element, and the permutations of a rising list in lexicographic order. -/
def permsFrom : Nat → List Nat → List (List Nat)
  | 0, _ => [[]]
  | n + 1, xs => xs.flatMap fun x => (permsFrom n (xs.erase x)).map (x :: ·)

def vmapOf (l : Launch) (live : List Nat) : Option (List Nat) :=
  (permsFrom live.length live).find? fun p =>
    (List.range l.dies).all fun v =>
      let m := (l.dmask[v]?).getD 0
      m == 0 || m.testBit ((p[v]?).getD 0)

/-- The engines a block and its fallback bind. -/
def engMask (c : Container) (e : Entry) : Nat :=
  let one (n : Nat) : Nat := match c.block n with
    | some b => ((c.engs.drop b.engFirst).take b.engCount).foldl (fun a r => a ||| r.eng) 0
    | none => 0
  one e.block ||| one e.fblock

def meet (a b : Entry) : Bool := !a.elastic && !b.elastic && decide (a.start < b.fbend) && decide (b.start < a.fbend)

/-- The installed entries, with their containers. -/
def installed (s : State) : List (Entry × Container) :=
  s.works.flatMap fun w => match s.conts[w.cont]? with | some c => w.entries.map fun e => (e, c) | none => []

/-- R127: physical core `core` fits the packet's entries of one virtual core. -/
def fits (occ : List (Entry × Container)) (p : Packet) (core v vc : Nat) : Bool :=
  let mine := (p.entries.map (·.1)).filter fun e => e.vregion / 4 == v * 16 + vc
  let there := occ.filter fun y => coreOf y.1.lane == core
  mine.all (fun e =>
    there.all (fun y => y.1.mode != e.mode || !meet e y.1 ||
      (slotOf y.1.lane != e.vregion % 4 && engMask p.c e &&& engMask y.2 y.1 == 0)) &&
    mine.all fun x => x.mode != e.mode || !meet e x || x.vregion == e.vregion || engMask p.c e &&& engMask p.c x == 0) &&
  (modesOf p.l).all fun m => (List.range 4).all fun sl =>
    (mine.filter fun e => e.mode == m && e.vregion % 4 == sl).length +
      (there.filter fun y => y.1.mode == m && slotOf y.1.lane == sl).length ≤ 1024

/-- Candidate cores (R126). -/
def candidates (cmode vc : Nat) : List Nat :=
  match cmode with
  | 0 => [vc]
  | 1 => (List.range 4).map fun (i : Nat) => vc / 4 * 4 + (vc + i) % 4
  | _ => (List.range 16).map fun (i : Nat) => (vc + i) % 16

/-- Steps 2 of R127: virtual cores in order; the first that cannot be placed is given. -/
def placeCores (occ : List (Entry × Container)) (p : Packet) (vmap : List Nat) : List Nat → List Nat → Tbl Nat → Tbl Nat ⊕ Nat
  | [], _, t => .inl t
  | k :: r, taken, t =>
    let v := k / 16
    let vc := k % 16
    let d := (vmap[v]?).getD 0
    if !(p.entries.any fun y => y.1.vregion / 4 == k) then placeCores occ p vmap r taken t
    else
      match (candidates (p.l.cmode / 4 ^ v % 4) vc).find? fun j => !taken.contains (d * 16 + j) && fits occ p (d * 16 + j) v vc with
      | some j => placeCores occ p vmap r ((d * 16 + j) :: taken) (tblPut t k j)
      | none => .inr (4 * k)

def placePacket (s : State) (p : Packet) : (List Nat × Tbl Nat) ⊕ Rej :=
  let clash := p.entries.find? fun y => p.entries.any fun x =>
    x.1.mode == y.1.mode && x.1.vregion == y.1.vregion && x.1.idx != y.1.idx && meet x.1 y.1
  match clash, vmapOf p.l s.live with
  | some y, _ => .inr { code := .overlap, mode := y.1.mode, lane := y.1.vregion, entry := y.1.idx }
  | none, none => .inr { code := .overlap }
  | none, some vmap =>
    match placeCores (installed s) p vmap (List.range (16 * p.l.dies)) [] [] with
    | .inl t => .inl (vmap, t)
    | .inr vr => .inr { code := .overlap, lane := vr }

/-- The lane of a virtual region. -/
def laneAt (vmap : List Nat) (cmap : Tbl Nat) (vr : Nat) : Nat :=
  laneOf ((vmap[vr / 64]?).getD 0 * 16 + tblGet 0 cmap (vr / 4)) (vr % 4)

/-! ## Checks 5 to 9 -/

/-- Buffers a block publishes, and buffers it reads. -/
def writesOf (c : Container) (num : Nat) : List Nat :=
  match c.block num with
  | some b => ((bndsOf c b).filter fun x => x.f.mode != 2 && (x.b.dir == 1 || x.b.dir == 2)).map (·.f.id)
  | none => []

def readsOf (c : Container) (num : Nat) : List Nat :=
  match c.block num with
  | some b => ((bndsOf c b).filter fun x => x.f.mode != 2 && (x.b.dir == 0 || x.b.dir == 2)).map (·.f.id)
  | none => []

/-- R123, check 5: a firm reader of what a firm entry writes starts too early. -/
def readerClash (s : State) (c : Container) (es : List Entry) : Option Entry :=
  es.find? fun r => !r.elastic && es.any fun w =>
    !w.elastic && w.mode == r.mode && (w.idx != r.idx) && (writesOf c w.block).any (readsOf c r.block).contains &&
      (inWindow w r.start ||
        (dieOf w.lane != dieOf r.lane && decide (r.start < w.fbend + 2 * hops s (dieOf w.lane) (dieOf r.lane))))

/-- R331: the instance of a scope that a lane lies in. -/
def scopeInst (scope lane : Nat) : Nat :=
  match scope with
  | 0 | 1 => lane
  | 2 => coreOf lane
  | 3 => coreOf lane / 4
  | 4 => dieOf lane
  | _ => 0

/-- The WHOLE and MERGE buffers an entry's block and its fallback bind in the directions given. -/
def entryBufs (c : Container) (e : Entry) (dirs : List Nat) : List Buf :=
  [e.block, e.fblock].flatMap fun num => match c.block num with
    | some b => ((bndsOf c b).filter fun x => x.f.mode != 2 && dirs.contains x.b.dir).map (·.f)
    | none => []

/-- R337: an entry, firm or elastic, that reads a buffer from outside the instance of the buffer's PUBSCOPE in which a
writing region stands. -/
def outOfScope (c : Container) (es : List Entry) : Option Entry :=
  es.find? fun r => (entryBufs c r [0, 2]).any fun f =>
    es.any fun w => (entryBufs c w [1, 2]).any (fun g => g.id == f.id) && scopeInst f.pubScope r.lane != scopeInst f.pubScope w.lane

/-- R362: the frame groups of a work with a floating-point `radd`. -/
def raddGroups (c : Container) (es : List Entry) : List Nat :=
  (es.filterMap fun e =>
    let has (num : Nat) : Bool := match c.block num with
      | none => false
      | some b => (imagesOf c b).any fun i => (i.rects.filter fun r => r.kind == 1).any fun r => (patOf i r).entries.any fun w =>
          match decodePort w with | .ok (.radd o) => !o.ty.isInt | _ => false
    if has e.block || has e.fblock then some e.fgroup else none).eraseDups

/-- The tree of a frame group (R360, R362). -/
def treeOf (workid dies : Nat) (es : List Entry) (g : Nat) : Tree :=
  let mine := es.filter fun e => e.fgroup == g
  { workid, fgroup := g, nvd := dies,
    cmask := (List.range 4).map fun v => (mine.filter fun e => e.vregion / 64 == v).foldl (fun a e => a ||| 2 ^ (e.vregion / 4 % 16)) 0,
    smask := (List.range 4).map fun v => (mine.filter fun e => e.vregion / 64 == v).foldl (fun a e => a ||| 2 ^ (e.vregion % 64)) 0 }

/-- R124: the seed records of a launch; a slot that is wholly zero holds none (DESIGN CHOICE, log 126). -/
def Launch.records (l : Launch) : List Seed := l.seeds.filter fun d => d != { seed := 0, first := 0, last := 0, shared := false }

/-- Save space each elastic entry of a die takes (R384). -/
def saveSizes (c : Container) (es : List Entry) (die : Nat) : List (Entry × Nat) :=
  (es.filter fun e => e.elastic && dieOf e.lane == die).map fun e =>
    (e, (match c.block e.block with | some b => (((c.wcs[b.wc + e.dw]?).map (·.saveB)).getD 0 + 4095) / 4096 * 4096 | none => 0))

/-- The end of the save space in use on a die. -/
def saveTop (s : State) (die : Nat) : Nat :=
  s.works.foldl (fun a w => match s.conts[w.cont]? with
    | some c => a + (saveSizes c w.entries die).foldl (fun b y => b + y.2) 0
    | none => a) 0

/-- Check 5 beyond placement. -/
def check5 (s : State) (p : Packet) (es : List Entry) : Option Rej :=
  let running := (s.works.map (·.cont)).eraseDups
  let gone (e : Entry) : Bool := (s.die (dieOf e.lane)).power == .reset || (s.die (dieOf e.lane)).lost
  let base : Rej := { code := .overlap }
  if (match s.tset with | some t => t.num != p.l.tset || t.ending | none => false) then some base
  else if s.tset.isNone && p.acttick ≤ s.tick then some base
  else if s.works.any fun w => w.workid == p.workid then some base
  else if 64 ≤ s.works.length || (32 ≤ running.length && !running.contains p.cont) then some base
  else if 256 < (s.works.foldl (fun a w => a + w.launch.records.length) 0) + p.l.records.length then some base
  else if 64 < s.trees.length + (raddGroups p.c es).length then some base
  else if s.live.any fun d => 0x400000 < saveTop s d + (saveSizes p.c es d).foldl (fun b y => b + y.2) 0 then some base
  else
    match (readerClash s p.c es).or (outOfScope p.c es), es.find? gone with
    | some e, _ => some { base with mode := e.mode, lane := e.lane, entry := e.idx }
    | none, some e => some { base with mode := e.mode, lane := e.lane, entry := e.idx }
    | none, none => none

/-- R258: the flits a firm entry counts on each link it reserves: LFLITS, or the peak of its bindings' LINKPK at its width
where that is more (DEDUCED, log 138). -/
def linkFlits (c : Container) (e : Entry) (r : Resv) : Nat :=
  match c.block e.block with
  | some b => max r.lflits (peak (bndsOf c b) (planesOf e.dw) (·.linkPk))
  | none => r.lflits

/-- Check 6: the reservations in force at any tick. -/
def check6 (s : State) (p : Packet) (vmap : List Nat) (es : List Entry) : Option Rej :=
  let old := s.works.flatMap fun w => w.entries.map fun e => (e, w.vmap, (s.conts[w.cont]?).getD p.c)
  let all := old ++ es.map fun e => (e, vmap, p.c)
  let past (e : Entry) : Bool :=
    let live := all.filter fun y => y.1.mode == e.mode && inWindow y.1 e.start
    let ds := live.foldl (fun a y => a + (match y.1.resv with | some r => r.dslots | none => 0)) 0
    let fl := live.flatMap fun y => match y.1.resv with
      | some r => (reservedLinks s y.2.1 r).map fun l => (l, linkFlits y.2.2 y.1 r)
      | none => []
    56 < ds || (fl.map (·.1)).any fun l => 96 < (fl.filter fun y => y.1 == l).foldl (fun a y => a + y.2) 0
  ((all.map (·.1)).find? fun e => !e.elastic && past e).bind fun e =>
    ((es.find? fun x => x.mode == e.mode && meet x e).orElse fun _ => es.head?).map fun x =>
      { code := .overlap, mode := x.mode, lane := x.lane, entry := x.idx }

/-- Check 7: the container is copied, and every firm image is resident. -/
def check7 (s : State) (p : Packet) (es : List Entry) : Option Rej :=
  if !p.c.copied then some { code := .imageAbsent }
  else
    (es.find? fun e => !e.elastic && [e.block, e.fblock].any fun num =>
      match p.c.block num with
      | some b => (List.range b.imgCount).any fun k => !isResident s p.cont (b.imgFirst + k)
      | none => false).map fun e => { code := .imageAbsent, mode := e.mode, lane := e.lane, entry := e.idx }

/-- A page that a firm stream uses: its translation, the first entry of its group, whether it is written, and why it
cannot be used. A page without a leaf has size 0. -/
structure Pre where
  die : Nat
  ent : TlbEnt
  first : Nat
  store : Bool
  bad : Option Code := none
  deriving Inhabited

/-- R155: the leaf that is locked: a firm store under it finds DIRTY set and meets no WBLK. -/
def lockLeaf (store : Bool) (w : Nat) : Nat :=
  let w := if w.testBit 8 then w - 256 else w
  if store && !w.testBit 7 then w + 128 else w

/-- R139: the bytes [pa, pa + n) can be reached by the port tiles and copies of a core; with no core, anywhere. -/
def coreReach (s : State) (core : Option Nat) (pa n : Nat) : Bool :=
  match core with
  | none => true
  | some c => s.reachable c .copy pa && s.reachable c .copy (pa + n - 1)

/-- R154: the pages of [va, va + n) of a work, by windows and walks, each with its verdict. -/
def prePages (s : State) (workid : Nat) (core : Option Nat) (dir : Nat) : Nat → Nat → Nat → List Pre
  | 0, _, _ => []
  | fuel + 1, va, n =>
    if n = 0 then []
    else
      let die := (core.getD 0) / 16
      match (spaceWins s workid).find? fun w => winHit w va with
      | some w => if w.limit - va < n then prePages s workid core dir fuel w.limit (n - (w.limit - va)) else []
      | none =>
        let store := dir != 0
        match s.walk workid va with
        | .leaf word base size first =>
          let a := leafAttr word
          let ok := match dir with | 0 => a.rd | 1 => a.wr | 2 => a.rd && a.wr | _ => a.at_
          let step := base + size - va
          let pa := fld word 12 40 * 4096 + (va - base)
          let bad : Option Code :=
            if !ok || s.homeOf pa == .host || !coreReach s core pa (min step n) then some .pageAbsent
            else if comboBad a then some .reservedCombo else none
          let x : Pre := { die, ent := { workid, va := base, size, leaf := lockLeaf store word, locks := 1, used := s.now }, first, store, bad }
          x :: (if step < n then prePages s workid core dir fuel (va + step) (n - step) else [])
        | _ =>
          let step := 4096 - va % 4096
          let x : Pre := { die, ent := { workid, va, size := 0, leaf := 0, locks := 0, used := s.now }, first := 0, store, bad := some .pageAbsent }
          x :: (if step < n then prePages s workid core dir fuel (va + step) (n - step) else [])

/-- The pages of all that a binding's buffer occupies at a width. -/
def bufPages (s : State) (workid : Nat) (core : Option Nat) (x : Bnd) (w : Nat) : List Pre :=
  (bufSpans x.f w).flatMap fun y => prePages s workid core x.b.dir 65536 y.1 y.2

/-- R147, R273, R303: an entry of the block that names a binding meets one of its pages, or its window, in a reserved
combination. A port's entry meets a window at its `run` step (R145). -/
def pageCombo (c : Container) (b : Block) (x : Bnd) (byWin : Bool) (as : List Attr) : Bool :=
  let bs := bndsOf c b
  let k := (bs.filter fun y => y.b.img == x.b.img && y.b.tile == x.b.tile && y.idx < x.idx).length
  let pairs := ((imagesOf c b).flatMap fun i => engEntries i 1).any fun i => match i with
    | .epw _ n _ pair _ _ => pair && n == x.idx
    | _ => false
  let is : List Instr :=
    if x.b.img = 0xFFFF then ((imagesOf c b).flatMap fun i => engEntries i 3).filter fun i => bselOf i == some x.idx
    else match if byWin then none else c.images[x.b.img]? with
      | none => []
      | some i => ((i.rects.filter fun r => r.kind == 1 && r.row ≤ x.b.tile && decide (x.b.tile < r.row + r.rows)).flatMap fun r =>
          (patOf i r).entries.filterMap fun w => (decodePort w).toOption).filter fun i => bselOf i == some k
  is.any (fun i => as.any fun a => comboMeets i a) || (pairs && as.any fun a => a.rowl != 0 || a.scl != 1)

/-- R273: a firm row that takes a format from its slots is a reserved combination whichever of the formats the block's
fills read stands in them. Which slots a fill writes, and the format a `copyc` gives them, stand in a descriptor in
memory (R320) and not in the packet: a `copyc` or `fill` may bring any format. -/
def slotCombo (c : Container) (b : Block) (fmts : Bnd → List (Option Fmt)) : Bool :=
  let is := imagesOf c b
  let bs := bndsOf c b
  let moves := is.flatMap fun i => engEntries i 2
  let anyFmt := moves.any fun i => match i with | .copyc o => o.dop | .fill o _ => o.dop | _ => false
  let fills := moves.flatMap fun i =>
    match i with
    | .copy o => if o.dop then (match bs[o.sb]? with | some x => fmts x | none => []) else []
    | _ => []
  !anyFmt && !fills.isEmpty && (is.flatMap fun i => engEntries i 0).any fun i =>
    let bad (o : OpRow) (sparse : Bool) : Bool :=
      (o.afmt.isNone || o.bfmt.isNone) &&
        (if o.afmt.isSome then [o.afmt] else fills).all fun fa =>
          (if o.bfmt.isSome then [o.bfmt] else fills).all fun fb => rowReserved o sparse fa fb
    match i with
    | .mm o => bad o false
    | .mms o => bad o true
    | _ => false

/-- The attributes of the pages or the window through which a binding's buffer is reached. -/
def bndAttrs (s : State) (workid core w : Nat) (x : Bnd) : List Attr :=
  match bndWin (spaceWins s workid) x with
  | some y => [winAttr y.attr]
  | none => ((bufPages s workid (some core) x w).filter fun y => y.ent.size != 0).map fun y => leafAttr y.ent.leaf

/-- The blocks of the firm entries of a packet, each with its bindings. -/
def firmBlocks (p : Packet) (es : List Entry) : List (Entry × Block × List Bnd) :=
  (es.filter (!·.elastic)).flatMap fun e => [e.block, e.fblock].filterMap fun num =>
    (p.c.block num).map fun b => (e, b, bndsOf p.c b)

/-- The pages of every paged binding of the firm entries, or the first failure with the entry it names. -/
def preTranslate (s : State) (p : Packet) (es : List Entry) : List Pre ⊕ (Entry × Code) :=
  (firmBlocks p es).foldl (fun acc y =>
    let (e, b, bs) := y
    let w := planesOf e.dw
    let core := coreOf e.lane
    match acc with
    | .inr z => .inr z
    | .inl l =>
      if slotCombo p.c b (fun x => (bndAttrs s p.workid core w x).map fun a => fmtOf a.fmt) then .inr (e, .reservedCombo)
      else bs.foldl (fun acc x =>
        match acc with
        | .inr z => .inr z
        | .inl l =>
          let ps := if x.b.hwin = 0xFF then bufPages s p.workid (some core) x w else []
          match ps.findSome? (·.bad) with
          | some c => .inr (e, c)
          | none => if pageCombo p.c b x (bndWin (spaceWins s p.workid) x).isSome (bndAttrs s p.workid core w x) then .inr (e, .reservedCombo) else .inl (l ++ ps)) (.inl l)) (.inl [])

/-- R154, R158: the walks of a pre-translation set ACC, and DIRTY for written pages, whatever the verdict. -/
def preMark (s : State) (p : Packet) : State :=
  (firmBlocks p (p.entries.map (·.1))).foldl (fun s y =>
    y.2.2.foldl (fun s x =>
      if x.b.hwin != 0xFF then s
      else ((bufPages s p.workid none x (planesOf y.1.dw)).filter fun z => z.ent.size != 0).foldl
        (fun s z => s.markWalk z.ent.leaf z.first z.store) s) s) s

/-- The distinct pages a die locks; one that any binding writes is written. -/
def lockPages (l : List Pre) (die : Nat) : List Pre :=
  (l.filter fun x => x.die == die).foldl (fun a x =>
    if a.any fun y => y.ent.va == x.ent.va then
      a.map fun y => if y.ent.va = x.ent.va && x.store then { y with store := true, ent := { y.ent with leaf := lockLeaf true y.ent.leaf } } else y
    else a ++ [x]) []

def lockedCount (s : State) (die : Nat) : Nat := ((s.die die).tlb.filter TlbEnt.locked).length

/-- A locked translation of a page stands in a die's TLB. -/
def isLocked (s : State) (die workid va : Nat) : Bool := (s.die die).tlb.any fun e => e.workid == workid && e.va == va && e.locked

/-- R155: one lock more on a page: a translation already locked is used unchanged, but that its DIRTY bit is seen set
once a written page's walk has set it. -/
def addLock (t : List TlbEnt) (x : Pre) : List TlbEnt :=
  let mine (e : TlbEnt) : Bool := e.workid == x.ent.workid && e.va == x.ent.va && e.locked
  if t.any mine then
    t.map fun e => if mine e then { e with locks := e.locks + 1, leaf := if x.store then lockLeaf true e.leaf else e.leaf } else e
  else tlbPut 8192 t { x.ent with locks := 1, pins := 0 }

/-- Check 8. -/
def check8 (s : State) (p : Packet) (es : List Entry) (timedOut : Bool) : List Pre ⊕ Rej :=
  if timedOut then .inr { code := .pageAbsent }
  else
    match preTranslate s p es with
    | .inr (e, c) => .inr { code := c, mode := e.mode, lane := e.lane, entry := e.idx }
    | .inl l => if s.live.any fun d => 6144 < lockedCount s d + ((lockPages l d).filter fun x => !isLocked s d p.workid x.ent.va).length then .inr { code := .pageAbsent } else .inl l

/-- Counter ranges of an entry that draws. -/
def drawRange (l : Launch) (e : Entry) : Option (Nat × Nat × Nat × Bool) :=
  if e.seedsel = 0xF then none
  else (l.seeds[e.seedsel]?).map fun d =>
    (d.seed, d.first + e.ctroff * 2 ^ 16, d.first + (e.ctroff + e.ctrlen) * 2 ^ 16, e.shared && d.shared)

/-- R124: two entries' ranges conflict. -/
def drawClash (l : Launch) (e : Entry) (m : Launch) (x : Entry) : Bool :=
  match drawRange l e, drawRange m x with
  | some (s1, a1, b1, h1), some (s2, a2, b2, h2) =>
    s1 == s2 && decide (a1 < b1) && decide (a2 < b2) && decide (a1 < b2) && decide (a2 < b1) && !(h1 && h2)
  | _, _ => false

/-- Entries that count as one (R124). -/
def sameDraw (e x : Entry) : Bool := e.mode != x.mode && e.vregion == x.vregion && e.start == x.start && e.seedsel == x.seedsel

/-- Check 9. -/
def check9 (s : State) (p : Packet) (es : List Entry) : Option Rej :=
  (es.find? fun e =>
    (es.any fun x => !(x.mode == e.mode && x.idx == e.idx) && !sameDraw e x && drawClash p.l e p.l x) ||
      s.works.any fun w => w.entries.any fun x => drawClash p.l e w.launch x).map fun e =>
    { code := .rngReuse, mode := e.mode, lane := e.lane, entry := e.idx }

/-! ## Installing -/

/-- Where a byte of a work's buffer lies, by its windows and pages. -/
def workPa (s : State) (workid hwin va : Nat) : Option (Nat × Attr) :=
  let ws := spaceWins s workid
  let byWin := if hwin != 0xFF then ws[hwin]? else ws.find? fun w => winHit w va
  match byWin with
  | some w => if winHit w va then some (winPa w va, winAttr w.attr) else none
  | none =>
    if hwin != 0xFF then none
    else match s.walk workid va with
      | .leaf word base _ _ => some (fld word 12 40 * 4096 + (va - base), leafAttr word)
      | _ => none

/-- Write bytes at a work's addresses, by lines; a clearing leaves host memory as it is (R398). -/
def workWrite (s : State) (workid hwin : Nat) (clear : Bool) : Nat → Nat → List Byte → State
  | 0, _, _ => s
  | fuel + 1, va, bs =>
    if bs.isEmpty then s
    else
      let n := 64 - va % 64
      let s := match workPa s workid hwin va with
        | some (pa, a) => if clear && s.homeOf pa == .host then s else s.writeBytes a.key a.ful pa (bs.take n)
        | none => s
      workWrite s workid hwin clear fuel (va + n) (bs.drop n)

/-- R332, R363: a buffer is set up: face 0, or the single face, and the tangent planes of face 0 from its initial data, and
zero elsewhere. One with no initial data keeps what host memory holds (R398). -/
def loadBuf (s : State) (p : Packet) (x : Bnd) (w : Nat) : State :=
  let n := x.f.size
  let init := if x.f.init = 0xFFFF then [] else
    match p.c.inits[x.f.init]? with
    | some (off, k) => s.readBytes 0 (p.c.addr + off) (min k (5 * n))
    | none => []
  let part (k : Nat) : List Byte :=
    let bs := (init.drop (k * n)).take n
    bs ++ List.replicate (n - bs.length) (0 : Byte)
  let planes := if x.f.diff then (List.range w).flatMap fun (k : Nat) => part (k + 1) else []
  let data := part 0 ++ if x.f.mode = 2 then [] else List.replicate n (0 : Byte) ++ planes
  (bufSpans x.f w).foldl (fun s y =>
    let bs := if y.1 = x.f.vaddr then data.take y.2 ++ List.replicate (y.2 - data.length) (0 : Byte) else List.replicate y.2 (0 : Byte)
    workWrite s p.workid x.b.hwin (x.f.init == 0xFFFF) (y.2 / 64 + 2) y.1 bs) s

/-- The buffers that a packet's blocks bind, once each, with the widest width of their entries. -/
def boundBufs (p : Packet) (es : List Entry) : List (Bnd × Nat) :=
  es.foldl (fun acc e =>
    [e.block, e.fblock].foldl (fun acc num =>
      match p.c.block num with
      | none => acc
      | some b => (bndsOf p.c b).foldl (fun acc x =>
          if acc.any fun y => y.1.f.id == x.f.id then
            acc.map fun (y : Bnd × Nat) => if y.1.f.id = x.f.id then (y.1, max y.2 (planesOf e.dw)) else y
          else acc ++ [(x, planesOf e.dw)]) acc) acc) []

/-- The buffers of a packet: the bound ones, and its container's others, which translate by any window that hits or by
pages. -/
def packetBufs (p : Packet) (es : List Entry) : List (Bnd × Nat) :=
  let bs := boundBufs p es
  let w := es.foldl (fun a e => max a (planesOf e.dw)) 0
  let free := p.c.bufs.filter fun (f : Buf) => !bs.any fun y => y.1.f.id == f.id
  bs ++ free.map fun (f : Buf) => (({ idx := 0, b := { (default : Bind) with hwin := 0xFF }, f := f } : Bnd), w)

/-- Save frames of the elastic entries of a packet on a die: (workid, entry key, offset) (R384). -/
def assignSaves (s : State) (p : Packet) (es : List Entry) : State :=
  s.live.foldl (fun s d =>
    let r := (saveSizes p.c es d).foldl (fun (a : Nat × List (Nat × Nat × Nat)) y => (a.1 + y.2, a.2 ++ [(p.workid, entryKey y.1, a.1)])) (saveTop s d, [])
    s.modDie d fun x => { x with saves := x.saves ++ r.2 }) s

/-- R312: partitions 0 to 13 of every on-die buffer are cleared. -/
def clearPartitions (s : State) : State :=
  let cleared (pa : Nat) : Bool := s.live.any fun d => bufBase d ≤ pa && decide (pa < bufBase d + 14 * 0x400000)
  { s with mem := s.mem.filter fun c => !cleared c.1 }

/-- R172: at admission the fallback of a lane's first firm entry is loaded into the lane's store. -/
def loadFallbacks (s : State) (c : Container) (es : List Entry) : State :=
  es.foldl (fun s e =>
    if e.elastic || e.fblock = 0xFFFF || !(s.lane e.lane).fbProg.isEmpty then s
    else match c.block e.fblock with
      | some b => s.modLane e.lane fun l => { l with fbProg := (c.progs[b.seq]?).getD [] }
      | none => s) s

/-- An admitted packet is installed (R123, R130, R155, R312, R332). The spec does not say what the version of the table
set (R95) counts: here it is 0 in a new set, and one more with each packet admitted to it (DESIGN CHOICE, log 137). -/
def installWork (s : State) (p : Packet) (vmap : List Nat) (cmap : Tbl Nat) (es : List Entry) (pres : List Pre) (d : Nat) : State :=
  let s := s.live.foldl (fun s die => (lockPages pres die).foldl (fun s x => s.modDie die fun y => { y with tlb := addLock y.tlb x }) s) s
  let s := loadFallbacks (assignSaves s p es) p.c es
  let first := match s.tset with
    | some t => if d < t.a then 0 else (d - t.a) / t.period + 1
    | none => 0
  let per := (p.frags.head?.map (·.period)).getD 1
  let s := if s.tset.isSome then s
    else
      let s := { s with keyGens := s.keyGens + 1 }
      let t : TSet := { num := p.l.tset, a := p.acttick, period := per, mode := (modesOf p.l).headD 0, dies := p.l.dies,
                        keyGen := s.keyGens, version := 0 }
      let s := clearPartitions s
      State.post { s with tset := some t } (tickStart p.acttick) .tableSetActivation
  let s := { s with tset := s.tset.map fun (t : TSet) => { t with version := (t.version + 1) % 2 ^ 32 } }
  let w : Work := { workid := p.workid, parent := p.parent, cont := p.cont, launch := p.l, vmap, cmap, entries := es,
                    points := p.frags.map fun f => (f.mode, f.chg), firstPeriod := first,
                    slot := ((List.range 64).find? fun k => !s.works.any fun x => x.slot == k).getD 0 }
  let groups := raddGroups p.c es
  let s := { s with works := s.works ++ [w], trees := s.trees ++ groups.map (treeOf p.workid p.l.dies es) }
  let bs := packetBufs p es
  let fresh_ : List BufSt := (bs.filter fun y => y.1.f.mode != 2).map fun (y : Bnd × Nat) =>
    { workid := p.workid, id := y.1.f.id, faces := [], pstats := [] }
  let kept := s.bufs.filter fun (b : BufSt) => b.workid != p.workid
  let s := { s with bufs := kept ++ fresh_ }
  bs.foldl (fun s y => loadBuf s p y.1 y.2) s

/-- A rejection record (R123, R370). -/
def rejectPacket (s : State) (workid : Nat) (r : Rej) : State :=
  s.postFq (faultRec 2 r.code.num 4 0xFF workid 0xFFFF r.lane 8 r.entry 0 0 s.tick 0 0 r.mode r.info (periodOf s s.tick).1)

/-- R121 to R124: a packet judged at its decision tick. -/
def judge (s : State) (bs : List Byte) (timedOut : Bool) : State :=
  let workid := field bs 0x10 2
  let digest := field bs 0x48 64
  match (List.range s.conts.length).find? fun k => ((s.conts[k]?).map (·.digest)) == some digest with
  | none => rejectPacket s workid { code := .security }
  | some k =>
    match s.conts[k]? with
    | none => s
    | some c =>
      if !matchesTemplate (bs.drop 64) c.template && c.reject.isNone then rejectPacket s workid { code := .security }
      else
        let p := packetOf bs k c
        let s := if c.reject.isNone && !timedOut then preMark s p else s
        match check2 s p bs with
        | some r => rejectPacket s workid r
        | none =>
          match (check3 s p).or (check4 p) with
          | some r => rejectPacket s workid r
          | none =>
            match placePacket s p with
            | .inr r => rejectPacket s workid r
            | .inl (vmap, cmap) =>
              let es := p.entries.map fun (y : Entry × Nat) => { y.1 with lane := laneAt vmap cmap y.1.vregion }
              match ((check5 s p es).or (check6 s p vmap es)).or (check7 s p es) with
              | some r => rejectPacket s workid r
              | none =>
                match check8 s p es timedOut with
                | .inr r => rejectPacket s workid r
                | .inl pres =>
                  match check9 s p es with
                  | some r => rejectPacket s workid r
                  | none => installWork s p vmap cmap es pres s.tick

/-! ## The I/O stream (R121, R154, R164) -/

/-- What is in use of partition 15, as (offset, bytes): container copies and region images (R164). -/
def partUses (s : State) : List (Nat × Nat) :=
  (s.conts.filter (·.copied)).map (fun c => (c.copyAt, c.copyBytes)) ++ s.resident.map fun (r : Resident) => (r.offset, r.size)

/-- `n` bytes fit at an offset of the partition. -/
def partFree (s : State) (o n : Nat) : Bool :=
  decide (o + n ≤ 0x400000) && (partUses s).all fun u => decide (o + n ≤ u.1) || decide (u.1 + u.2 ≤ o)

/-- Where a container's copy goes: the highest 256-byte-aligned offset with room for it (DESIGN CHOICE, log 145). -/
def copyOffset (s : State) (n : Nat) : Option Nat :=
  let down (x : Nat) : Nat := (x - n) / 256 * 256
  let tops := 0x400000 :: (partUses s).map (·.1)
  ((tops.filter fun x => n ≤ x).map down).foldl (fun a o => if partFree s o n then (match a with | none => some o | some b => some (max b o)) else a) none

/-- Bytes written at an offset of partition 15 of every live die. -/
def partWrite (s : State) (off : Nat) (bs : List Byte) : State :=
  s.live.foldl (fun s d => { s with mem := memWrite s.mem (bufBase d + 15 * 0x400000 + off) bs }) s

/-- R29, R164: the copy of a container's sections, when PD0 accepts the first packet that names it; its pages are
read-only from then until its last work ends. -/
def copyContainer (s : State) (bs : List Byte) : State :=
  let digest := field bs 0x48 64
  match s.conts.find? fun c => c.digest == digest with
  | none => s
  | some c =>
    if c.copied || c.reject.isSome then s
    else match copyOffset s c.copyBytes with
      | none => s
      | some off =>
        let bytes := c.copySecs.flatMap fun y => s.readBytes 0 (c.addr + y.1) y.2
        let s := partWrite s off bytes
        { s with conts := s.conts.map fun (x : Container) => if x.digest = digest then { x with copied := true, copyAt := off, ro := true } else x }

/-- A packet has firm entries with paged bindings, which PD0 must translate. -/
def needsPre (s : State) (bs : List Byte) : Bool :=
  match (List.range s.conts.length).find? fun k => ((s.conts[k]?).map (·.digest)) == some (field bs 0x48 64) with
  | none => false
  | some k =>
    match s.conts[k]? with
    | none => false
    | some c =>
      let p := packetOf bs k c
      p.entries.any fun y => !y.1.elastic && [y.1.block, y.1.fblock].any fun num =>
        match c.block num with
        | some b => (bndsOf c b).any fun x => x.b.hwin == 0xFF
        | none => false

/-- R121: PD0 accepts a packet into the stream; its decision tick is fixed by when its pre-translation completes. -/
def execLaunchPacket (bytes : List Byte) (s : State) : Res :=
  let s := copyContainer s bytes
  let (c, s) := s.free
  let pre := if needsPre s bytes then Config.pretransTicks c else 0
  let slow := decide (100000 < pre)
  let own := if slow then s.tick + 100001 else s.tick + pre + 1
  let d := max (max (s.tick + 16) own) s.ioLast
  let (id, s) := s.fresh
  let it : Item := { id, packet := some bytes, slot := 0, tag := 0, cmd := none, accepted := s.tick, decision := some d,
                     pretrans := if slow then none else some true }
  let s := s.sendControl hostDie (flitsOf bytes.length)
  let s := { s with stream := s.stream ++ [it], ioLast := d }
  let s := if slow then s.post (tickStart (s.tick + 100000)) (.pretranslationTimeout id) else s
  .next (s.post (tickStart d) (.admission id))

/-- R154: the pre-translation of a packet has not completed in time. -/
def execPretranslationTimeout (item : Nat) (s : State) : Res :=
  .next { s with stream := s.stream.map fun (x : Item) => if x.id = item && x.pretrans.isNone then { x with pretrans := some false } else x }

/-- R121, R123: the item is judged at its decision tick. -/
def execAdmission (item : Nat) (s : State) : Res :=
  match s.stream.find? fun x => x.id == item with
  | none => .next s
  | some x =>
    let s := { s with stream := s.stream.filter fun y => y.id != item }
    match x.packet with
    | some bs => .next (judge s bs (x.pretrans == some false))
    | none => .next s

/-- The event a mailbox command is, at its decision tick. -/
def cmdEvent (slot tag : Nat) : Cmd → Option Instr
  | .aset w r ws => some (.aset slot tag w r ws)
  | .pin w va n b => some (.pin slot tag w va n b)
  | .unpin w va n b => some (.unpin slot tag w va n b)
  | .inval w va n a b => some (.inval slot tag w va n a b)
  | .reside c i a => some (.reside slot tag c i a)
  | .evict c i => some (.evict slot tag c i)
  | .modereq m => some (.modereq slot tag m)
  | .endwork w => some (.endwork slot tag w)
  | .resync d => some (.resync slot tag d)
  | .ctrread d c l m e => some (.ctrread slot tag d c l m e)
  | .ctrclr d c l m e => some (.ctrclr slot tag d c l m e)
  | .reserved _ => none

/-! ## Activation, periods, mode changes (R111, R112, R116 to R120) -/

/-- R117: each work's budget on each lane it has elastic entries on, at a period's start. -/
def refill (s : State) : State :=
  s.works.foldl (fun s w =>
    (((w.entries.filter (·.elastic)).map (·.lane)).eraseDups).foldl (fun s l =>
      s.modLane l fun x => { x with budget := tblPut x.budget w.workid w.launch.budget }) s) s

/-- R117: a period starts. -/
def execPeriodStart (s : State) : Res := .next (refill s)

/-- R111: from A the set is in force; its first period starts. -/
def execTableSetActivation (s : State) : Res := .next (refill s)

/-- The union of the points of a mode (R114). -/
def modePoints (s : State) (m : Nat) : List Nat := s.works.flatMap fun w => (w.points.filter fun y => y.1 == m).flatMap (·.2)

/-- A tick is a mode-change point of the mode in force. -/
def isPoint (s : State) (tick : Nat) : Bool :=
  match s.tset with
  | some t => t.a ≤ tick && (modePoints s t.mode).contains ((tick - t.a) % t.period)
  | none => false

/-- R119: one request is picked before another. -/
def reqBefore (a b : ModeReq) : Bool :=
  a.src < b.src || (a.src == b.src && (a.tick < b.tick || (a.tick == b.tick && (a.die < b.die || (a.die == b.die && a.order < b.order)))))

/-- Entries of an elastic block in two modes. -/
def sameElastic (a b : Entry) : Bool := a.workid == b.workid && a.block == b.block && a.vregion == b.vregion && b.elastic

/-- R120: elastic blocks whose entry the new mode lacks are stopped and kept; the others may run. -/
def modeElastics (s : State) (m : Nat) : State :=
  s.elastics.foldl (fun s x =>
    let found := (s.workById x.entry.workid).bind fun w => w.entries.find? fun e => e.mode == m && sameElastic x.entry e
    let runs := (s.lane x.entry.lane).erun == some x.id
    match found with
    | some e =>
      -- the release keeps the width it started with (R245)
      let e := { e with dw := x.entry.dw }
      let s := s.modErel x.id fun y => { y with absent := false, entry := e, rel := { y.rel with entry := e } }
      if runs then s.modLane x.entry.lane fun l => { l with rel := l.rel.map fun r => { r with entry := e } } else s
    | none =>
      let s := s.modErel x.id fun y => { y with absent := true }
      if runs then s.soon (.elasticStop x.entry.lane .modeChange) else s) s

/-- R118: the requests that take effect at a point now; one that names the current mode is no request. -/
def dueReqs (s : State) (t : TSet) : List ModeReq := s.modeReqs.filter fun r => decide (r.tick + 8 ≤ s.tick) && r.mode != t.mode

/-- R119: the request that wins. -/
def winner : List ModeReq → Option ModeReq
  | [] => none
  | r :: rest => some (rest.foldl (fun a b => if reqBefore b a then b else a) r)

/-- R118, R119: at a mode-change point, the request that wins takes effect, and the losers are recorded. -/
def execModeChange (s : State) : Res :=
  match s.tset with
  | none => .next s
  | some t =>
    let due := dueReqs s t
    let s := { s with modeReqs := s.modeReqs.filter fun r => !(decide (r.tick + 8 ≤ s.tick)) }
    match winner due with
    | none => .next s
    | some win =>
      let s := (due.erase win).foldl (fun s r =>
        s.postNq (noteRec 0x26 (if r.src = 3 then 0xFF else r.die) (if r.src = 3 then r.order else r.core) 0
          (if r.src = 3 then 0xFFFF else r.workid) r.src r.mode 0 0 s.tick)) s
      let s := { s with tset := some { t with mode := win.mode }, crown := { s.crown with modeChg := min 255 (s.crown.modeChg + 1) } }
      .next (modeElastics s win.mode)

/-! ## The end of a work (R405) -/

/-- An elastic block is discarded, with its retire record; `ends` that its work ends. -/
def discardElastic (s : State) (x : ERel) (ends : Bool) : State :=
  let lane := x.entry.lane
  if (s.lane lane).erun == some x.id then
    let kept := retireRec s lane 1 ends
    let s := (clearBlock s lane).postRq kept
    let s := dropErel s lane
    s.modLane lane fun l => { l with retired := true, seq := .stopped }
  else
    let old := s.lane lane
    let l := match x.saved with | some v => { v.lane with rel := some (keptRel s x v) } | none => { (default : Lane) with rel := some x.rel }
    let s1 := (s.setLane lane l)
    let kept := retireRec s1 lane 1 ends
    let s := (s1.setLane lane old).postRq kept
    { s with elastics := s.elastics.filter fun e => e.id != x.id,
             queues := s.queues.map fun (y : Nat × List Nat) => (y.1, y.2.filter (· != x.id)) }

/-- R155: what admission locked for a work is unlocked; a lock of PIN stays until UNPIN. -/
def unlockWork (s : State) (workid : Nat) : State :=
  (List.range 4).foldl (fun s d => s.modDie d fun x =>
    { x with tlb := x.tlb.map fun (e : TlbEnt) => if e.workid = workid then { e with locks := 0 } else e,
             saves := x.saves.filter fun (y : Nat × Nat × Nat) => y.1 != workid }) s

/-- R405, R112: a work ends at a mode-change point; with the last work of the set, the set ends. -/
def execWorkEnd (workid : Nat) (s : State) : Res :=
  match s.workById workid with
  | none => .next s
  | some w =>
    let s := (s.elastics.filter fun x => x.entry.workid == workid).foldl (fun s x => discardElastic s x true) s
    let s := unlockWork s workid
    let s := { s with works := s.works.filter fun x => x.workid != workid,
                      trees := s.trees.filter fun t => t.workid != workid,
                      groups := s.groups.filter fun g => g.workid != workid }
    let last := !(s.works.any fun x => x.cont == w.cont)
    let conts := if last then (List.range s.conts.length).zip s.conts |>.map fun (y : Nat × Container) => if y.1 = w.cont then { y.2 with copied := false, ro := false } else y.2 else s.conts
    let s := (s.pends.filter fun p => p.cmd == .endwork workid).foldl (fun s p => s.soon (.commandCompletion p.id)) { s with conts }
    .next (if s.works.isEmpty then { s with tset := s.tset.map fun t => { t with ending := true } } else s)

/-- R112: in the tick after, no set is active; the on-die buffers are cleared and every lane is idle. -/
def endSet (s : State) : State :=
  let s := clearPartitions s
  { s with tset := none, modeReqs := [],
           lanes := s.lanes.map fun (y : Nat × Lane) => (y.1, { y.2 with rel := none, budget := [], seq := .idle }) }

end Sys2Proof.Machine
end

