-- ==== Sys2Proof/Machine/Manifest.lean ====
section
/-! DEFINITION. The manifest register block of the Crown (R95, R96, R362) and the mode-change points to come. -/

namespace Sys2Proof.Machine

/-- `n` bytes of zero. -/
def zeroBytes (n : Nat) : List Byte := List.replicate n 0

/-- Bytes cut or filled with zero to a length. -/
def padTo (n : Nat) (bs : List Byte) : List Byte := bs.take n ++ zeroBytes (n - bs.length)

/-! ## Identity (R93) -/

/-- The seeds of an Ed25519 and an ML-DSA-65 key derived from a secret. -/
def keySeeds (u : List Byte) : List Byte × List Byte :=
  (shake 136 (u ++ asciiBytes "K4-ID-ED") 32, shake 136 (u ++ asciiBytes "K4-ID-ML") 32)

/-- MAN.IDHASH: SHA-512 over the two public identity keys, Ed25519 first. -/
def idHash : List Byte :=
  let k := keySeeds Config.deviceSecret
  sha512 (edPublic k.1 ++ Config.mlPublic k.2)

/-- The seeds of the attestation keys of a first stage's digest and a security state (one byte). -/
def attestSeeds (stage : List Byte) (sec : Nat) : List Byte × List Byte :=
  keySeeds (Config.deviceSecret ++ stage ++ leBytes 1 sec)

/-- MAN.STATE (R96). -/
def manState (s : State) : Nat :=
  let c := s.crown
  c.fssvn * 2 ^ 40 + c.live * 2 ^ 36 + c.portLive * 2 ^ 34 + c.modeChg * 2 ^ 24 + c.dbgHi * 2 ^ 16 + b2n c.intervened * 2 ^ 15 +
    b2n c.tamper * 2 ^ 14 + c.sec * 2 ^ 12

/-- Containers with a running work, by index. -/
def runningConts (s : State) : List Nat := (List.range s.conts.length).filter fun k => s.works.any fun w => w.cont == k

/-- MAN.RNG: the seed records of the running works (R124), each with its container's index in MAN.CONT. -/
def seedRecs (s : State) : List (List Byte) :=
  s.works.flatMap fun w => w.launch.records.map fun (d : Seed) =>
    packFields [(8, d.seed), (8, d.first), (8, d.last), (2, (runningConts s).idxOf w.cont), (2, b2n d.shared), (4, 0)]

/-- A record of MAN.RTREE (R362). -/
def treeRec (t : Tree) : List Byte :=
  packFields [(2, t.workid), (1, t.fgroup), (1, t.nvd), (4, 0)] ++ t.cmask.flatMap (leBytes 2) ++ t.smask.flatMap (leBytes 8) ++ zeroBytes 16

/-- A record of MAN.CONT. -/
def contRec (s : State) (k : Nat) : List Byte :=
  match s.conts[k]? with
  | some c => packFields [(64, c.digest), (8, c.contId), (2, (s.tset.map (·.num)).getD 0), (6, 0)]
  | none => zeroBytes 80

/-- A record of MAN.TSET. -/
def tsetRec (s : State) (die : Nat) : List Byte :=
  match s.tset with
  | some t => if s.crown.live.testBit die then packFields [(2, t.num), (2, t.mode), (4, t.version), (8, 0)] else zeroBytes 16
  | none => zeroBytes 16

/-- The block with a value of MAN.DIGEST. -/
def manBlock (s : State) (digest : Nat) : List Byte :=
  let cs := runningConts s
  let rs := seedRecs s
  packFields [(8, manState s), (8, 16 * s.liveCount), (8, cs.length), (8, rs.length), (8, s.trees.length), (24, 0), (64, digest)] ++
    (List.range 4).flatMap (tsetRec s) ++ packFields [(32, (Config.bootNonce s.crown.bootCount).toNat), (32, 0)] ++
    padTo 2560 (cs.flatMap (contRec s)) ++ padTo 8192 rs.flatten ++ padTo 4096 (s.trees.flatMap treeRec) ++
    idHash ++ zeroBytes 1216

/-- MAN.DIGEST (R95). -/
def manDigest (s : State) : Nat := leNat (sha512 (manBlock s 0))

/-- The whole block. -/
def manifest (s : State) : List Byte := manBlock s (manDigest s)

/-! ## Mode-change points to come (R114) -/

/-- The first point of the mode in force at or after a tick. -/
def nextPoint (s : State) (tick : Nat) : Option Nat :=
  match s.tset with
  | none => none
  | some t =>
    let off := tick - t.a
    let one (p : Nat) : Nat :=
      let base := t.a + off / t.period * t.period
      if tick ≤ base + p then base + p else base + t.period + p
    ((modePoints s t.mode).map one).foldl (fun a p => match a with | none => some p | some b => some (min b p)) none

/-- The request that the next mode change would follow, with its tick. -/
def pendingMode (s : State) : Option (ModeReq × Nat) :=
  (s.modeReqs.filter fun r => (s.tset.map (·.mode)) != some r.mode).foldl (fun a r =>
    match nextPoint s (max (r.tick + 8) s.tick) with
    | none => a
    | some p => match a with
      | none => some (r, p)
      | some (x, q) => if p < q || (p == q && reqBefore r x) then some (r, p) else a) none

end Sys2Proof.Machine
end

