-- ==== Sys2Proof/Machine/Queues.lean ====
section
/-! DEFINITION. The fault, notification and retire queues (R370, R401, R402). -/

namespace Sys2Proof.Machine

/-- The queues by number: 0 FQ, 1 NQ, 2 RQ. -/
def State.queue (s : State) (q : Nat) : Queue := match q with | 0 => s.fq | 1 => s.nq | _ => s.rq

def State.setQueue (s : State) (q : Nat) (x : Queue) : State :=
  match q with | 0 => { s with fq := x } | 1 => { s with nq := x } | _ => { s with rq := x }

/-- R401: the bytes of a queue's record. -/
def recBytes (q : Nat) : Nat := if q = 1 then 32 else 64

/-- A record is written at TAIL, which then passes it; a TAIL that leaves HEAD raises the interrupt. -/
def writeRec (s : State) (q : Nat) (bs : List Byte) : State :=
  let x := s.queue q
  State.setQueue (s.writeBytes 0 false (x.base + (x.tail % x.size) * recBytes q) bs) q
    { x with tail := (x.tail + 1) % 2 ^ 32, irqs := if x.tail = x.head then x.irqs + 1 else x.irqs }

/-- R402: a record reaches its queue: written when there is room, else staged, else lost; a HOT record is dropped. -/
def reach (s : State) (q : Nat) (r : Rec) : State :=
  let x := s.queue q
  if x.staged.isEmpty && x.room then writeRec s q r.bytes
  else if r.hot then s.setQueue q { x with drops := satInc x.drops }
  else if x.staged.length < 256 then s.setQueue q { x with staged := x.staged ++ [r.bytes] }
  else s.setQueue q { x with lost := satInc x.lost }

/-- The records of a tick that is over reach their queue, in order, once no fault of that tick awaits its decision. -/
def reachAll (s : State) (q : Nat) : State :=
  let due (r : Rec) : Bool := decide (r.tick_ < s.tick) && !(q == 0 && s.faults.any fun e => decide (e.time / 120 ≤ r.tick_))
  let x := s.queue q
  let now_ := x.soon.takeWhile due
  now_.foldl (fun s r => reach s q r) (s.setQueue q { x with soon := x.soon.dropWhile due })

def State.flushQueues (s : State) : State := reachAll (reachAll (reachAll s 0) 1) 2

/-- R402: a staged record is written when its queue has room, and the next follows it. -/
def execQueueStagedWrite (q : Nat) (s : State) : Res :=
  let x := s.queue q
  match x.staged with
  | bs :: rest =>
    if x.room then
      let s := writeRec (s.setQueue q { x with staged := rest }) q bs
      .next (if rest.isEmpty || !(s.queue q).room then s else s.soon (.queueStagedWrite q))
    else .next s
  | [] => .next s

/-- Room may have come. -/
def wakeQueue (s : State) (q : Nat) : State :=
  let x := s.queue q
  if !x.staged.isEmpty && x.room then s.soon (.queueStagedWrite q) else s

/-- R401: where a queue may lie. -/
def queueBase (s : State) (v : Nat) : Bool := v % 4096 == 0 && (match s.homeOf v with | .dram _ | .host => true | _ => false)

/-- R401: the sizes allowed. -/
def queueSize (v : Nat) : Bool := v == 0 || (List.range 11).any fun k => v == 2 ^ (6 + k)

/-- R401: a write to BASE or SIZE. -/
def execQueueConfigWrite (q : Nat) (size : Bool) (v : Nat) (s : State) : Res :=
  let x := s.queue q
  if x.tail != x.head then .next s
  else if size then .next (if queueSize v then wakeQueue (s.setQueue q { x with size := v }) q else s)
  else .next (if queueBase s v then s.setQueue q { x with base := v } else s)

end Sys2Proof.Machine
end

