-- ==== Sys2Proof/Machine/Commands.lean ====
section
/-! DEFINITION. The commands of the table-unit mailbox (R142, R155, R159, R164, R403 to R406), as they act at their
decision tick, and the register writes of the Reed cores (R14, R160). -/

namespace Sys2Proof.Machine

/-! ## Completion (R142, R165, R403) -/

/-- OP of a command. -/
def cmdOp : Cmd → Nat
  | .aset _ _ _ => 0x10
  | .pin _ _ _ _ => 0x11
  | .unpin _ _ _ _ => 0x12
  | .inval _ _ _ _ _ => 0x13
  | .reside _ _ _ => 0x20
  | .evict _ _ => 0x21
  | .modereq _ => 0x30
  | .endwork _ => 0x31
  | .resync _ => 0x40
  | .ctrread _ _ _ _ _ => 0x41
  | .ctrclr _ _ _ _ _ => 0x42
  | .reserved op => op

/-- The slot is free again. -/
def unbusy (s : State) (slot : Nat) : State :=
  { s with mail := tblPut s.mail slot { tblGet {} s.mail slot with busy := false } }

/-- INVDONE; the record's CORE and TILE have no stated value. -/
def invDone (s : State) (slot workid va status : Nat) : State :=
  let (k, s) := s.free
  (unbusy s slot).note 0x22 0xFF (Config.freeBits k % 256) (Config.freeBits k / 256 % 256) workid status va 0 0

/-- IMGDONE; CORE, TILE and WORKID have no stated value. -/
def imgDone (s : State) (slot cont img status : Nat) : State :=
  let (k, s) := s.free
  (unbusy s slot).note 0x24 0xFF (Config.freeBits k % 256) (Config.freeBits k / 256 % 256) (Config.freeBits k / 2 ^ 16 % 2 ^ 16) status
    (cont * 2 ^ 16 + img) 0 0

/-- CMDDONE; TILE and, for a command that names no work, WORKID have no stated value. -/
def cmdDone (s : State) (slot tag op : Nat) (workid : Option Nat) (result status : Nat) : State :=
  let (k, s) := s.free
  (unbusy s slot).note 0x25 0xFF slot (Config.freeBits k % 256) (workid.getD (Config.freeBits k / 2 ^ 16 % 2 ^ 16)) status result
    (op * 2 ^ 16 + tag) 0

/-- R403: a host slot may post RESYNC and CTRREAD only. -/
def hostSlot (slot : Nat) : Bool := decide (16 ≤ slot)

def denied (s : State) (slot tag op : Nat) : State := cmdDone s slot tag op none 0 5

/-- A command that takes time completes later. -/
def pendCmd (s : State) (slot tag : Nat) (c : Cmd) (bound : Option Nat) (result status : Nat) : State :=
  let (k, s) := s.free
  let d := match bound with | some b => Config.commandDelay k % b | none => Config.commandDelay k
  let (id, s) := s.fresh
  let when_ := s.now + 1 + d
  State.post { s with pends := s.pends ++ [{ id, slot, tag, cmd := c, when_, result, status }] } when_ (.commandCompletion id)

/-! ## Address commands (R142, R155, R159) -/

/-- ASET: the record of a work's address space. -/
def execAset (slot tag workid root : Nat) (wins : List Win) (s : State) : Res :=
  let inDram : Bool := match s.homeOf root with | .dram _ => true | _ => false
  if hostSlot slot then .next (denied s slot tag 0x10)
  else if root % 8192 != 0 || !inDram then .next (invDone s slot workid 0 3)
  else if wins.any fun w => Win.valid w && !winOk s none w then .next (invDone s slot workid 0 4)
  else .next (invDone { s with spaces := tblPut s.spaces workid { root, wins } } slot workid 0 0)

/-- The pages of a range as a lock needs them, or none when one of them cannot be used. -/
def pinPages (s : State) (workid va size : Nat) (write : Bool) : Option (List Pre) :=
  let ps := prePages s workid none (if write then 1 else 0) 65536 va size
  if ps.any (·.bad.isSome) then none else some (lockPages ps 0)

/-- R155: one PIN lock more on a page, as `addLock` adds one of a work. -/
def addPin (t : List TlbEnt) (x : Pre) : List TlbEnt :=
  let mine (e : TlbEnt) : Bool := e.workid == x.ent.workid && e.va == x.ent.va && e.locked
  if t.any mine then t.map fun e => if mine e then { e with pins := e.pins + 1, leaf := if x.store then lockLeaf true e.leaf else e.leaf } else e
  else tlbPut 8192 t { x.ent with locks := 0, pins := 1 }

/-- PIN: the pages of a range are translated and locked on every live die, or none is. -/
def execPin (slot tag workid va size : Nat) (write : Bool) (s : State) : Res :=
  if hostSlot slot then .next (denied s slot tag 0x11)
  else
    match pinPages s workid va size write with
    | none => .next (invDone s slot workid va 2)
    | some ps =>
      if s.live.any fun d => 6144 < lockedCount s d + (ps.filter fun p => !isLocked s d workid p.ent.va).length then
        .next (invDone s slot workid va 8)
      else
        let s := ps.foldl (fun s x => s.markWalk x.ent.leaf x.first x.store) s
        let s := s.live.foldl (fun s die => ps.foldl (fun s x => s.modDie die fun y => { y with tlb := addPin y.tlb x }) s) s
        .next (invDone s slot workid va 0)

/-- A translation's page meets a range; size 0 is the whole space. -/
def inRange (e : TlbEnt) (workid va size : Nat) : Bool :=
  e.workid == workid && (size == 0 || (decide (e.va < va + size) && decide (va < e.va + e.size)))

/-- UNPIN: the locks that PIN took over the range are released. -/
def execUnpin (slot tag workid va size : Nat) (_write : Bool) (s : State) : Res :=
  if hostSlot slot then .next (denied s slot tag 0x12)
  else
    let drop (e : TlbEnt) : TlbEnt :=
      if e.workid = workid && decide (e.va < va + size) && decide (va < e.va + e.size) then { e with pins := 0 } else e
    let s := s.live.foldl (fun s d => s.modDie d fun x => { x with tlb := x.tlb.map drop }) s
    .next (invDone s slot workid va 0)

/-- R159: the unlocked translations of a range leave every TLB; those of a locked page stay. -/
def dropRange (s : State) (workid va size : Nat) : State :=
  s.live.foldl (fun s d =>
    let held := (s.die d).tlb.filter TlbEnt.locked
    let keep (e : TlbEnt) : Bool :=
      !inRange e workid va size || e.locked || held.any fun h => h.workid == e.workid && decide (h.va ≤ e.va) && decide (e.va < h.va + h.size)
    let s := s.modDie d fun x => { x with tlb := x.tlb.filter keep }
    (List.range 16).foldl (fun s k => s.modCore (d * 16 + k) fun c =>
      { c with tlb := c.tlb.filter keep,
               ports := c.ports.map fun (y : Nat × PortTile) => (y.1, { y.2 with tlb := y.2.tlb.filter keep, ahead := y.2.ahead.filter fun (a : Ahead) => !(size == 0 || (decide (va ≤ a.va) && decide (a.va < va + size))) }) }) s) s

/-- INVAL: the translations go at once; the command completes when the accesses that used them have performed. -/
def execInval (slot tag workid va size : Nat) (wake replay : Bool) (s : State) : Res :=
  if hostSlot slot then .next (denied s slot tag 0x13)
  else
    let pinned := s.live.any fun d => (s.die d).tlb.any fun e => inRange e workid va size && e.locked
    .next (pendCmd (dropRange s workid va size) slot tag (.inval workid va size wake replay) none 0 (if pinned then 1 else 0))

/-! ### The completion of an INVAL -/

def pieceIn (p : Piece) (va size : Nat) : Bool := size == 0 || (decide (p.va < va + size) && decide (va < p.va + p.n))

/-- The writes an engine entry has fired and not yet issued. -/
def landPieces : Land → List Piece
  | .epw _ ps _ | .fxout _ ps | .fpop _ ps => ps
  | _ => []

/-- An access made before `id` under a translation of the range has still to perform. What a saved block has still to do
is translated again when the block resumes. A write that was sent may outlive its block, whatever runs on its lane. -/
def stillOut (s : State) (id workid va size : Nat) : Bool :=
  let hit (ps : List Piece) : Bool := ps.any fun p => pieceIn p va size && !p.wblk && !p.done
  let mine (lane : Nat) : Bool := s.workOf lane == workid
  -- a copy goes on under the translations it took until it leaves their pages (R153)
  let isCopy (f : Flit) : Bool := match f.sender with | .copy _ _ => true | _ => false
  s.cores.any (fun y =>
    (y.2.srcXl ++ y.2.dstXl).any (fun e => inRange e workid va size && !e.leaf.testBit 8) ||
      y.2.reqs.any (fun r => r.unit == 243 && mine r.lane && !r.ready && hit r.pieces) ||
      y.2.copies.any fun x => mine x.lane && hit x.lines) ||
    s.flits.any (fun f => isCopy f && hit f.pieces) ||
  s.cores.any (fun y =>
    y.2.reqs.any (fun r => (mine r.lane || r.unit == 240) && decide (r.id < id) && !r.ready && hit r.pieces) ||
      y.2.ports.any (fun z => z.2.queue.any fun e => (mine e.lane || e.sent.isSome) && decide (e.id < id) && hit e.pieces)) ||
    s.lanes.any (fun y => mine y.1 && y.2.flights.any fun f => decide (f.id < id) && hit (landPieces f.land)) ||
    s.flits.any fun f => decide (f.id < id) && hit f.pieces

/-- R163: a held write is translated again; an absent page suspends its block, and the write stays held. -/
def replayPiece (s : State) (lane unit entry : Nat) (ag : Agent) (acc : Acc3) (p : Piece) : State × Piece :=
  match again s lane ag acc p with
  | (s, .inl p) => (s, p)
  | (s, .inr (.absent va)) => (suspendPage s lane ag.tile va, p)
  | (s, .inr (.fault c i)) => (raiseAt s lane unit entry c i .late, { p with wblk := false, done := true })
  | (s, _) => (s, p)

def replayPieces (lane unit entry : Nat) (ag : Agent) (acc : Acc3) (va size : Nat) : List Piece → State → State × List Piece
  | [], s => (s, [])
  | p :: r, s =>
    let (s, p) := if p.wblk && pieceIn p va size then replayPiece s lane unit entry ag acc p else (s, p)
    let (s, r) := replayPieces lane unit entry ag acc va size r s
    (s, p :: r)

def replayQueue (row workid va size : Nat) : List WEnt → State → State × List WEnt
  | [], s => (s, [])
  | e :: r, s =>
    let (s, e) :=
      if s.workOf e.lane = workid then
        let (s, ps) := replayPieces e.lane (uPort row) e.entry (.port row) (if e.kind = .store then .write else .atomic) va size e.pieces s
        (s, { e with pieces := ps })
      else (s, e)
    let (s, r) := replayQueue row workid va size r s
    (s, e :: r)

def replayFlights (lane va size : Nat) : List Flight → State → State × List Flight
  | [], s => (s, [])
  | f :: r, s =>
    let go (ag : Agent) (ps : List Piece) : State × List Piece := replayPieces lane f.unit f.entry ag .write va size ps s
    let (s, land) : State × Land := match f.land with
      | .epw b ps n => let (s, ps) := go .epi ps; (s, .epw b ps n)
      | .fxout b ps => let (s, ps) := go .felt ps; (s, .fxout b ps)
      | .fpop b ps => let (s, ps) := go .felt ps; (s, .fpop b ps)
      | x => (s, x)
    let (s, r) := replayFlights lane va size r s
    (s, { f with land } :: r)

/-- R163: the writes held over a range are replayed in issue order, port by port; then those of engines, and the accesses
of step contexts and copies that wait. -/
def replayWrites (s : State) (workid va size : Nat) : State :=
  let s := s.cores.foldl (fun s y =>
    (List.range 8).foldl (fun s row =>
      if ((s.core y.1).port row).queue.any fun e => e.pieces.any (·.wblk) then
        let (s, q) := replayQueue row workid va size ((s.core y.1).port row).queue s
        sendHead (s.modCore y.1 fun c => c.setPort row { c.port row with queue := q }) y.1 row
      else s) s) s
  s.lanes.foldl (fun s y =>
    if s.workOf y.1 != workid then s
    else
      let (s, fs) := replayFlights y.1 va size (s.lane y.1).flights s
      let held (v : Nat) : Bool := !pieceIn ({ va := v, n := 8 } : Piece) va size
      let s := s.modCore (coreOf y.1) fun c =>
        { c with copies := c.copies.map fun (x : CopyOp) => if x.lane = y.1 then { x with blocked := false } else x,
                 dstXl := c.dstXl.filter fun (e : TlbEnt) => !(e.workid == workid && e.leaf.testBit 8) }
      s.modLane y.1 fun l => { l with flights := fs, blockedVa := l.blockedVa.filter held }) s

/-- A block becomes ready: at the back of its lane's queue, or as its save ends (R157, R167). -/
def readyBlock (s : State) (x : ERel) : State :=
  toBack (s.modErel x.id fun y => { y with page := none, image := none }) x.entry.lane x.id

/-- A block that is still being stopped for a page or an image that has come is not suspended when its save ends. -/
def wakeStops (s : State) (why : StopWhy) (hit : Nat → Lane → Bool) : State :=
  let one (y : Nat × Lane) : Nat × Lane :=
    if hit y.1 y.2 then
      (y.1, { y.2 with stop := match y.2.stop with
        | .due w => if w = why then .due .yielded else .due w
        | .saving t w => if w = why then .saving t .yielded else .saving t w
        | x => x })
    else y
  { s with lanes := s.lanes.map one }

/-- R157: blocks suspended on a page of the range become ready. -/
def wakePages (s : State) (workid va size : Nat) : State :=
  let in_ (v : Nat) : Bool := size == 0 || (decide (va ≤ v) && decide (v < va + size))
  let s := wakeStops s .page fun lane l => s.workOf lane == workid && in_ l.suspVa
  s.elastics.foldl (fun s x =>
    match x.page with
    | some v => if x.entry.workid = workid && in_ v then readyBlock s x else s
    | none => s) s

/-- R167: blocks suspended on an image become ready. -/
def wakeImages (s : State) (cont img : Nat) : State :=
  let s := wakeStops s .image fun _ l => l.suspImg == (cont, img)
  s.elastics.foldl (fun s x => if x.image = some (cont, img) then readyBlock s x else s) s

/-! ## Residence (R164, R165) -/

/-- R164: the lowest 256-byte-aligned offset of partition 15 with room for an image. -/
def imageOffset (s : State) (size : Nat) : Option Nat :=
  let ends := 0 :: (partUses s).map fun u => (u.1 + u.2 + 255) / 256 * 256
  (ends.filter fun o => partFree s o size).foldl (fun a o => match a with | none => some o | some b => some (min b o)) none

/-- RESIDE: the image is copied into the partition of every live die. -/
def execReside (slot tag cont image : Nat) (wake : Bool) (s : State) : Res :=
  let c : Cmd := .reside cont image wake
  if hostSlot slot then .next (denied s slot tag 0x20)
  else
    match (s.conts[cont]?).bind fun k => if k.reject.isSome then none else (k.images[image]?).map fun i => (k, i) with
    | none => .next (pendCmd s slot tag c none 0 3)
    | some (k, i) =>
      if isResident s cont image then .next (pendCmd s slot tag c none 0 0)
      else
        match imageOffset s i.size with
        | none => .next (pendCmd s slot tag c none 0 2)
        | some off =>
          let bs := s.readBytes 0 (k.addr + i.offset) i.size
          let r : Resident := { cont, img := image, offset := off, size := i.size }
          let s := partWrite { s with resident := s.resident ++ [r] } off bs
          .next (pendCmd s slot tag c none 0 0)

/-- R164: an admitted firm entry or its fallback orders the image. -/
def imagePinned (s : State) (cont image : Nat) : Bool :=
  s.works.any fun w => w.cont == cont && w.entries.any fun e => !e.elastic && [e.block, e.fblock].any fun num =>
    match blockIn s w num with
    | some (_, b) => decide (b.imgFirst ≤ image) && decide (image < b.imgFirst + b.imgCount)
    | none => false

/-- EVICT: the image's space is freed. -/
def execEvict (slot tag cont image : Nat) (s : State) : Res :=
  if hostSlot slot then .next (denied s slot tag 0x21)
  else
    match (s.conts[cont]?).bind fun k => k.images[image]? with
    | none => .next (imgDone s slot cont image 3)
    | some _ =>
      if imagePinned s cont image then .next (imgDone s slot cont image 1)
      else .next (imgDone { s with resident := s.resident.filter fun r => !(r.cont == cont && r.img == image) } slot cont image 0)

/-! ## Modes, works and counters (R404, R405) -/

/-- R118: a mode is installed while a running work has installed its fragment. -/
def modeInstalled (s : State) (m : Nat) : Bool := s.works.any fun w => w.launch.modes.testBit m

/-- MODEREQ: a Reed core's request. -/
def execModereq (slot tag mode : Nat) (s : State) : Res :=
  if hostSlot slot then .next (denied s slot tag 0x30)
  else if !modeInstalled s mode || (s.tset.map (·.mode)) == some mode then .next (cmdDone s slot tag 0x30 none 0 6)
  else .next (cmdDone (postMode s mode 3 0xFF 0 slot 0xFFFF) slot tag 0x30 none 0 0)

/-- ENDWORK: the work is to end at the next mode-change point, and the command completes there. -/
def execEndwork (slot tag workid : Nat) (s : State) : Res :=
  if hostSlot slot then .next (denied s slot tag 0x31)
  else if (s.workById workid).isNone then .next (cmdDone s slot tag 0x31 (some workid) 0 6)
  else
    let (id, s) := s.fresh
    .next { s with works := s.works.map fun (w : Work) => if w.workid = workid then { w with ending := true } else w,
                   pends := s.pends ++ [{ id, slot, tag, cmd := .endwork workid, when_ := 0, result := 0, status := 0 }] }

/-- The installed firm entry that a counter command names. -/
def counted (s : State) (lane mode entry : Nat) : Option Entry :=
  (s.works.flatMap (·.entries)).find? fun e => !e.elastic && e.lane == lane && e.mode == mode && e.idx == entry

def execCtrread (slot tag die core lslot mode entry : Nat) (s : State) : Res :=
  match counted s (laneOf (die * 16 + core) lslot) mode entry with
  | some e => .next (cmdDone s slot tag 0x41 none e.ovr 0)
  | none => .next (cmdDone s slot tag 0x41 none 0 6)

def execCtrclr (slot tag die core lslot mode entry : Nat) (s : State) : Res :=
  if hostSlot slot then .next (denied s slot tag 0x42)
  else
    match counted s (laneOf (die * 16 + core) lslot) mode entry with
    | some e =>
      let clr (x : Entry) : Entry := if x = e then { x with ovr := 0 } else x
      .next (cmdDone { s with works := s.works.map fun (w : Work) => { w with entries := w.entries.map clr } } slot tag 0x42 none 0 0)
    | none => .next (cmdDone s slot tag 0x42 none 0 6)

/-! ## RESYNC (R406) -/

/-- LSTATE of a lane and the release its record names. -/
def laneState (s : State) (lane : Nat) : Nat × Option (Release × Entry) :=
  let l := s.lane lane
  match l.rel with
  | some r =>
    let st :=
      if l.retired then 0
      else if s.faults.any fun f => f.lane == lane then 8
      else match l.stop with
        | .saving _ _ | .due _ => 4
        | _ => if l.halted then 7 else match r.kind with | .firm => 1 | .fallback => 2 | .elastic => 3
    (st, some (r, r.entry))
  | none =>
    match s.elastics.find? fun x => x.entry.lane == lane && x.saved.isSome && (x.page.isSome || x.image.isSome) with
    | some x => (if x.page.isSome then 5 else 6, some (x.rel, x.entry))
    | none =>
      match s.elastics.find? fun x => x.entry.lane == lane && x.saved.isSome with
      | some x => (0, some (x.rel, x.entry))
      | none => (0, none)

def laneRec (s : State) (lane : Nat) : List Byte :=
  let l := s.lane lane
  let (st, r) := laneState s lane
  let q := min 255 (laneQueue s lane).length
  match r with
  | none => packFields [(2, 0xFFFF), (2, 0), (2, 0), (1, st), (1, q), (8, 0), (4, 0), (4, l.ovtot), (4, 0), (4, 0)]
  | some (r, e) =>
    let ovr := match (s.workById e.workid).bind fun w => w.entries.find? fun x => x.mode == e.mode && x.lane == e.lane && x.idx == e.idx with
      | some x => x.ovr
      | none => 0
    let bud := if l.erun.isSome then tblGet 0 l.budget e.workid else 0
    packFields [(2, e.workid), (2, e.block), (2, e.idx), (1, st), (1, q), (8, r.start), (4, ovr), (4, l.ovtot), (4, bud), (4, 0)]

def powerCode : Power → Nat
  | .run => 0
  | .hold => 1
  | .park => 2
  | .off => 3
  | .reset => 4

def dieRec (s : State) (d : Nat) : List Byte :=
  let x := s.die d
  let fl := b2n x.thermalWarn + 2 * b2n x.flrReset
  match s.tset with
  | some t =>
    packFields [(2, t.num), (1, t.mode), (1, powerCode x.power), (1, x.debug), (1, fl), (2, 0), (4, (periodOf s s.tick).1 % 2 ^ 24), (4, t.period),
      (8, t.a), (4, t.version), (8, (nextPoint s s.tick).getD 0), (28, 0)]
  | none => packFields [(2, 0), (1, 0), (1, powerCode x.power), (1, x.debug), (1, fl), (58, 0)]

/-- R130: a record of the relocation table. -/
def relocRec (w : Work) : List Byte :=
  let dmap := (List.range 4).foldl (fun a v => a + (w.vmap[v]?).getD 0 % 4 * 4 ^ v) 0
  let cm (v : Nat) : Nat := (List.range 16).foldl (fun a vc => a + tblGet 0 w.cmap (v * 16 + vc) % 16 * 16 ^ vc) 0
  packFields [(2, w.workid), (1, 1), (1, dmap), (1, 2 ^ w.launch.dies - 1), (3, 0)] ++ (List.range 4).flatMap (fun (v : Nat) => leBytes 8 (cm v)) ++
    zeroBytes 8

/-- R130: the relocation table: 64 records, each at its work's place, free ones zero. -/
def relocTable (s : State) : List Byte :=
  (List.range 64).flatMap fun k => match s.works.find? fun w => w.slot == k with | some w => relocRec w | none => zeroBytes 48

def barBits (s : State) (core : Nat) : List Byte :=
  let c := s.core core
  let bits (f : Bar → Bool) : Nat := (List.range 256).foldl (fun a b => if f (c.bar b) then a + 2 ^ b else a) 0
  leBytes 32 (bits (·.init)) ++ leBytes 32 (bits (·.ph))

/-- A command in flight, as the record shows it. -/
def flightRec : Cmd → List Byte
  | .aset w _ _ => packFields [(2, 0x10), (2, w), (1, 0), (3, 0), (8, 0)]
  | .pin w va _ b => packFields [(2, 0x11), (2, w), (1, b2n b), (3, 0), (8, va)]
  | .unpin w va _ b => packFields [(2, 0x12), (2, w), (1, b2n b), (3, 0), (8, va)]
  | .inval w va _ a b => packFields [(2, 0x13), (2, w), (1, b2n a + 2 * b2n b), (3, 0), (8, va)]
  | .reside c i a => packFields [(2, 0x20), (2, 0), (1, b2n a), (3, 0), (8, c * 2 ^ 16 + i)]
  | .evict c i => packFields [(2, 0x21), (2, 0), (1, 0), (3, 0), (8, c * 2 ^ 16 + i)]
  | _ => []

def flightCmds (s : State) : List Byte :=
  ((s.pends.map (·.cmd) ++ s.stream.filterMap (·.cmd)).map flightRec).flatten.take 256

/-- The RESYNC record. -/
def resyncRec (s : State) (gen : Nat) : List Byte :=
  let q (x : Queue) : List (Nat × Nat) := [(4, x.head), (4, x.tail), (4, x.lost)]
  let mc := match pendingMode s with
    | some (r, p) => [(1, r.mode), (1, r.src), (6, 0), (8, p)]
    | none => [(16, 0)]
  packFields ([(8, 0x3153524C41525942), (8, gen), (8, s.tick), (8, s.now * 5 / 6), (4, s.now * 5 % 6 * 2 ^ 32 / 6), (4, ptimeStat s.ptime),
    (8, manState s), (64, manDigest s)] ++ q s.fq ++ q s.nq ++ q s.rq ++ [(4, s.nq.drops)] ++ mc ++ [(88, 0)]) ++
    (List.range 4).flatMap (dieRec s) ++ (List.range 256).flatMap (laneRec s) ++ relocTable s ++
    (List.range 64).flatMap (barBits s) ++ padTo 256 (flightCmds s) ++ zeroBytes 256

/-- RESYNC: the snapshot is written; the generation alone changes. -/
def execResync (slot tag dest : Nat) (s : State) : Res :=
  let ok : Bool := dest % 4096 == 0 && (match s.homeOf dest with | .dram _ | .host => true | _ => false)
  let s := { s with generation := (s.generation + 1) % 2 ^ 64 }
  if ok then
    let s := s.writeBytes 0 false dest (resyncRec s s.generation)
    .next (pendCmd s slot tag (.resync dest) (some 240000) s.generation 0)
  else .next (cmdDone s slot tag 0x40 none s.generation 7)

/-! ## Completions -/

/-- A command that took time completes. -/
def execCommandCompletion (cmd : Nat) (s : State) : Res :=
  match s.pends.find? fun p => p.id == cmd with
  | none => .next s
  | some p =>
    let gone := { s with pends := s.pends.filter fun q => q.id != cmd }
    match p.cmd with
    | .inval w va size wake replay =>
      if stillOut s p.id w va size then .next (s.post (s.now + 1) (.commandCompletion cmd))
      else
        let s := if wake then wakePages gone w va size else gone
        let s := if replay then replayWrites s w va size else s
        .next (invDone s p.slot w va p.status)
    | .reside c i wake => .next (imgDone (if wake && p.status == 0 then wakeImages gone c i else gone) p.slot c i p.status)
    | .resync _ => .next (cmdDone gone p.slot p.tag 0x40 none p.result p.status)
    | .endwork w => .next (cmdDone gone p.slot p.tag 0x31 (some w) 0 p.status)
    | c => .next (cmdDone gone p.slot p.tag (cmdOp c) none p.result p.status)

/-! ## Register writes (R14, R160) -/

/-- R160: HOT.THRESH, for the counts made from now on. -/
def execHotThreshWrite (die : Nat) (v : W64) (s : State) : Res :=
  let n := v.toNat % 2 ^ 16
  .next (if n = 0 then s else s.modDie die fun d => { d with hotThresh := n })

/-- R14, R107: a register without behaviour of its own is read-only, and a write to it is ignored. -/
def execRegisterWrite (_sreg : Nat) (_v : W64) (s : State) : Res := .next s

end Sys2Proof.Machine
end

