-- ==== Sys2Proof/Machine/Verify.lean ====
section
/-! DEFINITION. Verification of a container by the Crown: its structure (R15 to R26, R57, R72, R74, R79, R166, R177, R178,
R218, R256, R287 to R304, R321, R353), its signatures and the copies it leaves (R27 to R29). A violation is an offset in
the container; the first is the lowest. -/

namespace Sys2Proof.Machine

/-! ## Sections (R15, R16) -/

structure Sect where
  at_ : Nat
  kind : Nat
  count : Nat
  off : Nat
  size : Nat
  deriving DecidableEq, Repr, Inhabited

def sectsOf (b : Bytes) : List Sect :=
  (List.range (min 64 (rd b 0x0C 2))).map fun (k : Nat) =>
    let o := 256 + 32 * k
    { at_ := o, kind := rd b o 2, count := rd b (o + 4) 4, off := rd b (o + 8) 8, size := rd b (o + 16) 8 }

def ofKind (ss : List Sect) (k : Nat) : List Sect := ss.filter fun s => s.kind == k

def oneOf (ss : List Sect) (k : Nat) : Sect := ((ofKind ss k).head?).getD default

/-- R15, R16: the header and the directory. -/
def headBad (b : Bytes) (size : Nat) (ss : List Sect) : List Viol :=
  let total := rd b 0x10 8
  let sig := rd b 0x18 8
  let n := rd b 0x0C 2
  let times (k : Nat) : Nat := (ofKind ss k).length
  chk (rd b 0 8 == 0x4348544152494850) 0 ++ chk (rd b 8 2 == 4) 8 ++ chk (rd b 0x0A 2 == 256) 0x0A ++ chk (2 ≤ n && n ≤ 64) 0x0C ++
    chk (1 ≤ rd b 0x0E 2 && rd b 0x0E 2 ≤ 4) 0x0E ++ chk (total % 256 == 0 && decide (total ≤ 2 ^ 30) && total == size) 0x10 ++
    chk (sig + 4096 == total) 0x18 ++ rsvd b 0x28 216 ++
    ss.flatMap (fun s =>
      chk (1 ≤ s.kind && s.kind ≤ 10) s.at_ ++ rsvd b (s.at_ + 2) 2 ++ rsvd b (s.at_ + 24) 8 ++
      chk (s.off % 256 == 0 && decide (256 + 32 * n ≤ s.off)) (s.at_ + 8) ++ chk (s.off + s.size ≤ sig) (s.at_ + 16) ++
      chk (!ss.any fun t => t.at_ < s.at_ && decide (t.off < s.off + s.size) && decide (s.off < t.off + t.size)) (s.at_ + 8) ++
      chk (!(ss.any fun t => t.at_ < s.at_ && t.kind == s.kind && [1, 2, 3, 4, 5, 6, 8, 10].contains s.kind)) s.at_) ++
    chk ([1, 2, 4, 5, 6, 8].all fun k => times k == 1) 0x0C

/-- R27: the signature block at `o`: its magic and its reserved bytes. -/
def sigBad (b : Bytes) (o : Nat) : List Viol := chk (rd b o 8 == 0x3247495352494850) o ++ rsvd b (o + 0x18) 8 ++ rsvd b (o + 0xD8D) 627

/-! ## Images (R19, R20) -/

/-- An image at an offset of the container. -/
def imageAt (b : Bytes) (o rel : Nat) : Image :=
  let npat := min 88 (rd b (o + 6) 2)
  let nrect := min 88 (rd b (o + 8) 2)
  let ro := o + rd b (o + 12) 4
  let po := o + rd b (o + 16) 4
  let rects : List Rect := (List.range nrect).map fun (k : Nat) =>
    let r := ro + 8 * k
    { kind := rd b r 1, row := rd b (r + 1) 1, col := rd b (r + 2) 1, rows := rd b (r + 3) 1, cols := rd b (r + 4) 1, pat := rd b (r + 6) 2 }
  let pats := (List.range npat).foldl (fun (a : Nat × List Pattern) _ =>
    let n := rd b a.1 2
    let w := rd b (a.1 + 2) 1
    let es := if n ≤ 256 && w ≤ 2 then (List.range n).map fun (k : Nat) => rd b (a.1 + 8 + 8 * w * k) (8 * w) else []
    (a.1 + 8 + 8 * w * n, a.2 ++ [({ words := w, entries := es } : Pattern)])) (po, [])
  { rows := rd b o 1, cols := rd b (o + 1) 1, ii := rd b (o + 2) 2, frameInt := rd b (o + 4) 2, afgar := (rd b (o + 10) 2).testBit 0,
    size := rd b (o + 20) 4, offset := rel, rects, pats := pats.2 }

/-- The offsets of an image's patterns, and their end. -/
def patOffs (b : Bytes) (o : Nat) (i : Image) : List Nat :=
  (i.pats.foldl (fun (a : Nat × List Nat) _ => (a.1 + 8 + 8 * rd b (a.1 + 2) 1 * rd b a.1 2, a.2 ++ [a.1])) (o + rd b (o + 16) 4, [])).2

def patEnd (b : Bytes) (o : Nat) (i : Image) : Nat :=
  i.pats.foldl (fun a _ => a + 8 + 8 * rd b (a + 2) 1 * rd b a 2) (o + rd b (o + 16) 4)

/-- R20: a record lies within the region. -/
def rectIn (i : Image) (r : Rect) : Bool :=
  1 ≤ r.rows && (match r.kind with
    | 0 => 1 ≤ r.cols && decide (r.row + r.rows ≤ i.rows) && decide (r.col + r.cols ≤ i.cols)
    | 3 => r.col == 0 && r.cols == 1 && decide (r.row + r.rows ≤ 4)
    | _ => r.col == 0 && r.cols == 1 && decide (r.row + r.rows ≤ i.rows))

def rising : List Nat → Bool
  | a :: b :: r => decide (a < b) && rising (b :: r)
  | _ => true

/-- R56: the opcode spaces that name a pattern: 0 element, 1 port, 2 generator, 4 and above an engine. -/
def spacesOf (i : Image) (p : Nat) : List Nat :=
  ((i.rects.filter fun r => r.pat == p).flatMap fun r =>
    if r.kind < 3 then [r.kind] else (List.range r.rows).map fun (k : Nat) => 4 + r.row + k).eraseDups

def decodeIn (sp w : Nat) : Dec Instr :=
  match sp with
  | 0 => decodeElement w
  | 1 => decodePort w
  | 2 => decodeGen w
  | n => decodeEngine (n - 4) w

/-- The element target of a `drn` prefix: the type and the destination it must share (R256). -/
def drnTarget : Instr → Option (FTy × Dst)
  | .fadd o | .fsub o | .fmul o | .fscl o | .scl o | .uscl o => some (o.ty, o.d)
  | .fma o | .fms o | .fnma o | .fdot2 o => some (o.ty, o.d)
  | .fmin o | .fmax o => some (o.ty, o.d)
  | .fabs o | .fneg o | .amax o => some (o.ty, o.d)
  | .frnd o | .lsumf o | .fnExp2 o | .fnLog2 o | .fnRcp o | .fnRsq o | .fnSin o | .fnTanh o | .fnSig o | .fnGelu o => some (o.ty, o.d)
  | .cvt o => match o.td with | .flt t => some (t, o.d) | _ => none
  | .cvtsr o => match o.td with | .flt t => some (t, o.d) | _ => none
  | .quant o | .dequ o => some (o.ty, o.d)
  | _ => none

/-- R218, R256, R353: what the entries of one pattern must keep together; the index of an offending entry. -/
def elementPattern (es : List (Nat × Nat)) : List Nat :=
  let is : List (Nat × Nat × Instr) := es.filterMap fun y => (decodeElement y.2).toOption.map fun i => (y.1, fld y.2 52 12, i)
  let toks := (is.filterMap fun y => match y.2.2 with | .tokw o => some (y.1, o.n) | _ => none)
  let bars := (is.filterMap fun y => match y.2.2 with | .barArrive o | .barWait o | .barAw o => some (y.1, o.n) | _ => none)
  let many (l : List (Nat × Nat)) : List Nat :=
    match (l.map (·.2)).eraseDups[4]? with
    | some ch => ((l.find? fun y => y.2 == ch).map (·.1)).toList
    | none => []
  let drn := is.filterMap fun y =>
    let pre : Option (FTy × Dst) := match y.2.2 with | .drnCut o => some (o.ty, o.d) | .drnLin o => some (o.ty, o.d) | _ => none
    match pre with
    | none => none
    | some p =>
      match is.find? fun z => z.2.1 == y.2.1 + 1 with
      | some z => if drnTarget z.2.2 == some p then none else some y.1
      | none => some y.1
  many toks ++ many bars ++ drn

/-- R269: at most eight rows; R273: no static reserved combination. -/
def matrixPattern (es : List (Nat × Nat)) : List Nat :=
  let rows := es.filter fun y => match decodeEngine 0 y.2 with | .ok (.mm _) | .ok (.mms _) => true | _ => false
  (rows.drop 8).map (·.1)

/-- R304: one port for a generator's pattern. -/
def genPattern (es : List (Nat × Nat)) : List Nat :=
  let ps := es.filterMap fun y => match decodeGen y.2 with | .ok (.cnt o) | .ok (.step o) => some (y.1, o.port) | _ => none
  match ps with
  | [] => []
  | p :: r => (r.filter fun y => y.2 != p.2).map (·.1)

/-- The position of the field a reject names; an opcode stands at bit 39 of an entry (R58), and a reserved combination is
named at the row's first field. -/
def rejectBit : Reject → Nat
  | .opcode => 39
  | .reserved n | .shape n | .limit n => n
  | .combo => 0

/-- R71, R72, R74: the bit of a port or generator entry that names a tile outside the region's rows. -/
def rowsBad (rows : Nat) (i : Instr) : Option Nat :=
  match i with
  | .ld o | .st o | .ldg o | .stg o | .aadd o | .amin o | .atomicMax o | .aand o | .aor o | .axor o | .axch o | .acas o
  | .radd o | .rmin o | .rmax o => if o.agen < rows then none else some 32
  | .cnt o | .step o => if o.port < rows then none else some 34
  | _ => none

/-- One pattern in every space that names it; an entry's violation names the first record that gives it that space. -/
def patBad (b : Bytes) (i : Image) (k o : Nat) : List Viol :=
  let n := rd b o 2
  let w := rd b (o + 2) 1
  let stamp (j : Nat) : Nat := rd b (o + 8 + 8 * w * j) 8 / 2 ^ 52
  let es : List (Nat × Nat) := match i.pats[k]? with
    | some p => (List.range p.entries.length).zip p.entries
    | none => []
  let at_ (sp j : Nat) (bit : Nat) (combo : Bool) : Viol :=
    { off := o + 8 + 8 * w * j, bit, combo, entry := some j,
      rect := (List.range i.rects.length).find? fun q => match i.rects[q]? with
        | some r => r.pat == k && (if r.kind < 3 then sp == r.kind else r.row + 4 ≤ sp && decide (sp < r.row + r.rows + 4))
        | none => false }
  named (fun v => { v with pattern := some k })
    (rsvd b (o + 3) 5 ++ chk (w == 1 || w == 2) (o + 2) ++ chk (n ≤ 256) o ++
      (List.range (min n 257)).flatMap (fun j =>
        if stamp j < i.ii && (j = 0 || decide (stamp (j - 1) < stamp j)) then [] else [{ off := o + 8 + 8 * w * j, bit := 52, entry := some j }]) ++
      (spacesOf i k).flatMap (fun sp => es.flatMap fun y =>
        match decodeIn sp y.2 with
        | .ok x => match rowsBad i.rows x with | some bit => [at_ sp y.1 bit false] | none => []
        | .error .combo => [at_ sp y.1 0 true]
        | .error r => [at_ sp y.1 (rejectBit r) false]) ++
      (spacesOf i k).flatMap fun sp =>
        (match sp with | 0 => elementPattern es | 2 => genPattern es | 4 => matrixPattern es | _ => []).map fun (j : Nat) => at_ sp j 39 false)

/-- R19, R20: an image, within its section. -/
def imageBad (b : Bytes) (o lim : Nat) : List Viol :=
  let i := imageAt b o 0
  let ro := o + rd b (o + 12) 4
  let units (r : Rect) : List Nat := rectUnits (0, 0) r
  chk (o % 8 == 0) o ++ chk (1 ≤ i.rows && i.rows ≤ 8) o ++ chk (1 ≤ i.cols && i.cols ≤ 8) (o + 1) ++ chk (1 ≤ i.ii && i.ii ≤ 4096) (o + 2) ++
    chk (1 ≤ i.frameInt) (o + 4) ++ chk (1 ≤ rd b (o + 6) 2 && rd b (o + 6) 2 ≤ 88) (o + 6) ++
    chk (1 ≤ rd b (o + 8) 2 && rd b (o + 8) 2 ≤ 88) (o + 8) ++ rsvBits b (o + 10) 1 16 ++ chk (ro % 8 == 0) (o + 12) ++
    chk ((o + rd b (o + 16) 4) % 8 == 0) (o + 16) ++ rsvd b (o + 24) 8 ++
    chk (o + i.size ≤ lim && decide (ro + 8 * i.rects.length ≤ o + i.size) && decide (patEnd b o i ≤ o + i.size)) (o + 20) ++
    ((List.range i.rects.length).zip i.rects).flatMap (fun y =>
      let r := y.2
      let at_ := ro + 8 * y.1
      let words := ((i.pats[r.pat]?).map (·.words)).getD 0
      named (fun v => { v with rect := some y.1 })
        (chk (r.kind < 4) at_ ++ rsvd b (at_ + 5) 1 ++ chk (rectIn i r) (at_ + 1) ++
          chk (r.pat < rd b (o + 6) 2 && ((words == 2) == (r.kind == 3))) (at_ + 6) ++
          chk (!(i.rects.take y.1).any fun x => (x.kind == r.kind) && (units x).any (units r).contains) at_)) ++
    ((List.range i.pats.length).zip (patOffs b o i)).flatMap fun y => patBad b i y.1 y.2

/-! ## The other records -/

/-- R17: a block record. -/
def blockAt (b : Bytes) (o : Nat) : Block :=
  { num := rd b o 2, fallback := rd b (o + 2) 2, flags := rd b (o + 4) 2, dwmask := rd b (o + 6) 1, fgroup := rd b (o + 7) 1,
    seq := rd b (o + 8) 2, imgFirst := rd b (o + 10) 2, imgCount := rd b (o + 12) 2, bindFirst := rd b (o + 14) 2,
    bindCount := rd b (o + 16) 2, engFirst := rd b (o + 18) 2, engCount := rd b (o + 20) 2, wc := rd b (o + 22) 2 }

def engAt (b : Bytes) (o : Nat) : EngRec :=
  { img := rd b o 2, eng := rd b (o + 2) 1, slots := rd b (o + 3) 2, ring := rd b (o + 5) 1, fctx := rd b (o + 6) 1 }

def bufAt (b : Bytes) (o : Nat) : Buf :=
  let fl := rd b (o + 5) 1
  { id := rd b o 2, mode := rd b (o + 2) 1, mem := rd b (o + 3) 1, pubScope := rd b (o + 4) 1, diff := fl.testBit 0,
    strict := fl.testBit 1, init := rd b (o + 6) 2, size := rd b (o + 8) 8, vaddr := rd b (o + 16) 8 }

def bindAt (b : Bytes) (o : Nat) : Bind :=
  { buf := rd b o 2, img := rd b (o + 2) 2, tile := rd b (o + 4) 1, dir := rd b (o + 5) 1, hwin := rd b (o + 6) 1,
    dramPk := rd b (o + 8) 2, linkPk := rd b (o + 10) 2 }

def wcAt (b : Bytes) (o : Nat) : Wc := { ticks := rd b o 4, holdT := rd b (o + 4) 4, saveB := rd b (o + 8) 4 }

def resvAt (b : Bytes) (o : Nat) : Resv := { dslots := rd b o 2, links := rd b (o + 2) 2, lflits := rd b (o + 4) 2 }

def fragAt (b : Bytes) (o : Nat) : Frag :=
  let n := rd b (o + 8) 2
  { tset := rd b o 2, mode := rd b (o + 2) 1, dies := rd b (o + 3) 1, period := rd b (o + 4) 4,
    chg := (List.range (min 12 (rd b (o + 10) 2))).map fun (k : Nat) => rd b (o + 16 + 4 * k) 4,
    resv := (List.range (rd b (o + 12) 2)).map fun (k : Nat) => resvAt b (o + 64 + 32 * n + 16 * k),
    entries := (List.range n).map fun (k : Nat) => rd b (o + 64 + 32 * k) 32 }

def fragSize (b : Bytes) (o : Nat) : Nat := 64 + 32 * rd b (o + 8) 2 + 16 * rd b (o + 12) 2

/-- The offsets of a section's fragments. -/
def fragOffs (b : Bytes) (s : Sect) : List Nat :=
  ((List.range (min s.count 128)).foldl (fun (a : Nat × List Nat) _ => (a.1 + fragSize b a.1, a.2 ++ [a.1])) (s.off, [])).2

/-- A section's records by their size. -/
def recOffs (s : Sect) (n : Nat) : List Nat := (List.range (min s.count (s.size / n))).map fun (k : Nat) => s.off + n * k

/-- The offsets a table of 4-byte offsets names. -/
def tabOffs (b : Bytes) (s : Sect) : List Nat := (List.range (min s.count (s.size / 4))).map fun (k : Nat) => s.off + rd b (s.off + 4 * k) 4

def progAt (b : Bytes) (o : Nat) : List Nat := (List.range (min 1024 (rd b o 2))).map fun (k : Nat) => rd b (o + 4 + 4 * k) 4

/-- A constant section (R166). -/
def isConst (b : Bytes) (s : Sect) : Bool := s.kind == 9 && decide (8 ≤ s.size) && rd b s.off 8 == 0x4E4F434B52494850

/-- R164: the sections that are copied into the image partitions. -/
def copiedSects (b : Bytes) (ss : List Sect) : List Sect := ss.filter fun s => !(s.kind == 2 || s.kind == 10 || (s.kind == 9 && !isConst b s))

def constOffs (s : Sect) : List Nat := (List.range (min s.count ((s.size - 8) / 32))).map fun (k : Nat) => s.off + 8 + 32 * k

def constAt (b : Bytes) (o : Nat) : ConstRec :=
  { img := rd b o 2, rect := rd b (o + 2) 1, k := rd b (o + 3) 1, value := BitVec.ofNat 128 (rd b (o + 16) 16) }

/-- The container as the copies of R29 and R164 keep it. The first 8 bytes of the stream-binding section are two counts of
4 bytes, buffer descriptors first, in the order of the arrays (DESIGN CHOICE, log 120). -/
def parse (b : Bytes) (addr digest : Nat) (bad : List Viol) : Container :=
  let ss := sectsOf b
  let data := ofKind ss 9
  let bs := (oneOf ss 4).off
  let nb := rd b bs 4
  let imgs := oneOf ss 2
  { digest, contId := rd b 0x20 8, minDies := rd b 0x0E 2, addr, total := rd b 0x10 8, reject := firstViol bad,
    blocks := (recOffs (oneOf ss 1) 32).map (blockAt b), images := (tabOffs b imgs).map fun (o : Nat) => imageAt b o o,
    engs := (recOffs (oneOf ss 3) 8).map (engAt b), bufs := (List.range (min nb 65536)).map fun (k : Nat) => bufAt b (bs + 8 + 32 * k),
    binds := (List.range (min 65536 (rd b (bs + 4) 4))).map fun (k : Nat) => bindAt b (bs + 8 + 32 * nb + 16 * k),
    progs := (tabOffs b (oneOf ss 5)).map (progAt b), wcs := (recOffs (oneOf ss 6) 16).map (wcAt b),
    frags := (ofKind ss 7).flatMap fun s => (fragOffs b s).map (fragAt b), template := bytesAt b (oneOf ss 8).off 512,
    inits := data.map fun (s : Sect) => (s.off, s.size), consts := (data.filter (isConst b)).flatMap fun s => (constOffs s).map (constAt b),
    copySecs := (copiedSects b ss).map fun s => (s.off, s.size), copyBytes := (copiedSects b ss).foldl (fun a s => a + s.size) 0,
    copied := false, ro := true }

/-- R17, R18, R25: block and worst-case records. -/
def blockBad (b : Bytes) (ss : List Sect) (c : Container) : List Viol :=
  let offs := recOffs (oneOf ss 1) 32
  (recOffs (oneOf ss 6) 16).flatMap (fun o => rsvd b (o + 12) 4) ++
  ((List.range c.blocks.length).zip (offs.zip c.blocks)).flatMap fun y =>
    let o := y.2.1
    let k := y.2.2
    named (fun v => { v with block := some y.1 }) <|
    let wcs := (List.range 4).flatMap fun d =>
      match c.wcs[k.wc + d]? with
      | some w => chk ((w.ticks == 0xFFFFFFFF) != k.dwmask.testBit d) ((oneOf ss 6).off + 16 * (k.wc + d))
      | none => []
    chk (k.num != 0xFFFF && !(c.blocks.take y.1).any fun x => x.num == k.num) o ++
      (if k.fallback = 0xFFFF then [] else
        chk (match c.block k.fallback with
          | some f => f.flags.testBit 2 && f.fallback == 0xFFFF && (f.dwmask &&& k.dwmask) == k.dwmask &&
              (writesOf c k.num).all (writesOf c k.fallback).contains && (writesOf c k.fallback).all (writesOf c k.num).contains
          | none => false) (o + 2)) ++
      rsvBits b (o + 4) 4 16 ++ rsvBits b (o + 6) 4 8 ++ chk (k.seq < c.progs.length) (o + 8) ++
      chk (k.imgFirst + k.imgCount ≤ c.images.length) (o + 10) ++ chk (1 ≤ k.imgCount && k.imgCount ≤ 64) (o + 12) ++
      chk (k.bindFirst + k.bindCount ≤ c.binds.length) (o + 14) ++ chk (k.bindCount ≤ 256) (o + 16) ++
      chk (k.engFirst + k.engCount ≤ c.engs.length) (o + 18) ++ chk (k.engCount ≤ 64) (o + 20) ++ chk (k.wc + 4 ≤ c.wcs.length) (o + 22) ++
      rsvd b (o + 24) 8 ++ wcs

/-- R21 to R23: engine lists, buffers and bindings. -/
def listBad (b : Bytes) (ss : List Sect) (c : Container) : List Viol :=
  let bs := (oneOf ss 4).off
  let engs := ((recOffs (oneOf ss 3) 8).zip c.engs).flatMap fun y =>
    let o := y.1
    let e := y.2
    chk (e.img < c.images.length) o ++ rsvBits b (o + 2) 4 8 ++ chk (e.slots ≤ 256) (o + 3) ++ chk (e.ring ≤ 32) (o + 5) ++
      chk (e.fctx ≤ 4) (o + 6) ++ rsvd b (o + 7) 1
  let bufs := ((List.range c.bufs.length).zip c.bufs).flatMap fun y =>
    let o := bs + 8 + 32 * y.1
    let f := y.2
    let init := c.inits[f.init]?
    let sect := (ofKind ss 9)[f.init]?
    chk (!(c.bufs.take y.1).any fun x => x.id == f.id) o ++ chk (f.mode < 3) (o + 2) ++ chk (f.mem < 4) (o + 3) ++
      chk (1 ≤ f.pubScope && f.pubScope ≤ 5) (o + 4) ++ rsvBits b (o + 5) 2 8 ++ chk (!(f.mode == 2 && f.diff)) (o + 5) ++
      chk (f.init == 0xFFFF || (match init, sect with | some x, some s => !isConst b s && decide (x.2 ≤ 5 * f.size) | _, _ => false)) (o + 6) ++
      chk (f.size != 0 && f.size % 64 == 0) (o + 8) ++ chk (f.vaddr % 256 == 0) (o + 16) ++ rsvd b (o + 24) 8 ++
      chk (f.mem != 2 || f.mode == 0) (o + 2)
  let binds := ((List.range c.binds.length).zip c.binds).flatMap fun y =>
    let o := bs + 8 + 32 * c.bufs.length + 16 * y.1
    let x := y.2
    let f := c.bufs.find? fun f => f.id == x.buf
    chk f.isSome o ++ chk (x.img == 0xFFFF || decide (x.img < c.images.length)) (o + 2) ++
      chk (if x.img = 0xFFFF then x.tile == 0xFF else x.tile < 8) (o + 4) ++
      chk (x.dir < 4 && (match f with
        | some f => (x.dir != 3 || f.mode == 2) && !(f.mem == 2 && (x.dir == 1 || x.dir == 2))
        | none => true)) (o + 5) ++
      chk (x.hwin < 8 || x.hwin == 0xFF) (o + 6) ++ rsvd b (o + 7) 1 ++ chk (x.dramPk ≤ 512) (o + 8) ++ chk (x.linkPk ≤ 100) (o + 10) ++
      rsvd b (o + 12) 4
  engs ++ chk (8 + 32 * rd b bs 4 + 16 * rd b (bs + 4) 4 ≤ (oneOf ss 4).size) bs ++ bufs ++ binds

/-- R26, R113: fragments and the launch template; R166: constants. -/
def tableBad (b : Bytes) (ss : List Sect) (c : Container) : List Viol :=
  let frags := (ofKind ss 7).flatMap fun s =>
    let offs := fragOffs b s
    let fs := offs.map (fragAt b)
    ((List.range offs.length).zip (offs.zip fs)).flatMap fun y =>
      let o := y.2.1
      let f := y.2.2
      chk (f.mode < 32 && !(fs.take y.1).any fun x => x.mode == f.mode) (o + 2) ++
        chk (1 ≤ f.dies && f.dies ≤ 4 && fs.all fun x => x.dies == f.dies) (o + 3) ++
        chk (1 ≤ f.period && f.period ≤ 2 ^ 24 && !(c.frags.any fun x => x.tset == f.tset && x.dies == f.dies && x.period != f.period)) (o + 4) ++
        chk (rd b (o + 10) 2 ≤ 12) (o + 10) ++ chk (rd b (o + 12) 2 ≤ 4095) (o + 12) ++ rsvd b (o + 14) 2 ++
        chk (rising f.chg && f.chg.all fun x => decide (x < f.period)) (o + 16) ++
        (List.range f.chg.length).flatMap (fun k => rsvBits b (o + 16 + 4 * k) 24 32) ++
        rsvd b (o + 16 + 4 * f.chg.length) (48 - 4 * f.chg.length) ++
        chk (o + fragSize b o ≤ s.off + s.size) (o + 8) ++
        ((List.range f.entries.length).zip f.entries).flatMap (fun z => chk (fld z.2 110 2 < f.dies) (o + 64 + 32 * z.1 + 13)) ++
        ((List.range f.resv.length).zip f.resv).flatMap fun z =>
          let ro := o + 64 + 32 * f.entries.length + 16 * z.1
          chk (z.2.dslots ≤ 56) ro ++ rsvBits b (ro + 2) 9 16 ++
            chk ((List.range 8).all fun j => !z.2.links.testBit j || (dieLinks j).all fun v => decide (v < f.dies)) (ro + 2) ++ chk (z.2.lflits ≤ 96) (ro + 4) ++ rsvd b (ro + 6) 10
  let has_ (d : Nat) : Bool := c.frags.any fun f => f.dies == d
  let consts := ((ofKind ss 9).filter (isConst b)).flatMap fun s =>
    (constOffs s).flatMap fun o =>
      let k := constAt b o
      let kind := ((c.images[k.img]?).bind fun i => i.rects[k.rect]?).map (·.kind)
      chk (kind == some 0) o ++ chk (k.k < 16) (o + 3) ++ rsvd b (o + 4) 12 ++
        chk ((c.consts.filter fun x => x.img == k.img && x.rect == k.rect && x.k == k.k).length ≤ 1) o
  let t := (oneOf ss 8).off
  frags ++ chk ((List.range 4).all fun d => d + 1 < c.minDies || has_ (d + 1)) 0x0E ++ chk (512 ≤ (oneOf ss 8).size) t ++ rsvd b (t + 8) 64 ++ launchRsv b t ++ consts

/-! ## Entries in the context of a block -/

/-- The directions an opcode admits (R72). -/
def dirOk (i : Instr) (d : Nat) : Bool :=
  match i with
  | .ld _ | .ldg _ => d == 0 || d == 2
  | .st _ | .stg _ => d == 1 || d == 2
  | _ => d == 3

def portOps (i : Instr) : Option OpPort :=
  match i with
  | .ld o | .st o | .ldg o | .stg o | .aadd o | .amin o | .atomicMax o | .aand o | .aor o | .axor o | .axch o | .acas o
  | .radd o | .rmin o | .rmax o => some o
  | _ => none

/-- The entries of an image by record: (record's index, record, entry's index, word). -/
def recEntries (i : Image) (kind : Nat) : List (Nat × Rect × Nat × Nat) :=
  (((List.range i.rects.length).zip i.rects).filter fun y => y.2.kind == kind).flatMap fun y =>
    let es := (patOf i y.2).entries
    ((List.range es.length).zip es).map fun (z : Nat × Nat) => (y.1, y.2, z.1, z.2)

/-- A binding of the block in binding order, for an engine. -/
def engBinding (c : Container) (k : Block) (n : Nat) (dirs mems : List Nat) : Bool :=
  n < k.bindCount && (match c.binds[k.bindFirst + n]? with
    | some x => x.img == 0xFFFF && dirs.contains x.dir && (match c.bufs.find? fun f => f.id == x.buf with
        | some f => mems.contains f.mem
        | none => false)
    | none => false)

/-- The rows of a record. -/
def rowsOf (r : Rect) : List Nat := (List.range r.rows).map fun (k : Nat) => r.row + k

/-- R72, R304: the port entries of an image, in a block that orders it. `ent` makes the violation of an entry, with the
bit of its field: 28 BSEL, 32 AGEN. -/
def portBad (c : Container) (k : Option Block) (im : Nat) (i : Image) (ent : Nat → Rect → Nat → Nat → Viol) : List Viol :=
  let mine := match k with | some k => (c.binds.drop k.bindFirst).take k.bindCount | none => []
  let tileB (row : Nat) : List Bind := mine.filter fun x => x.img == im && x.tile == row
  let gens := (recEntries i 2).flatMap fun y => match decodeGen y.2.2.2 with
    | .ok (.cnt o) | .ok (.step o) => (rowsOf y.2.1).map fun (r : Nat) => (r, o.port)
    | _ => []
  (recEntries i 1).flatMap fun y =>
    match (decodePort y.2.2.2).toOption with
    | none => []
    | some x => match portOps x with
      | none => []
      | some o =>
        let rows := rowsOf y.2.1
        let bound (r : Nat) : Bool := match (tileB r)[o.bsel]? with | some z => dirOk x z.dir | none => k.isNone
        (if rows.all bound then [] else [ent y.1 y.2.1 y.2.2.1 28]) ++
          if rows.all fun r => gens.all fun g => g.1 != o.agen || g.2 == r then [] else [ent y.1 y.2.1 y.2.2.1 32]

/-- The region's latches an `epi` writes under the `epc` in force at its stamp. -/
def epiLatches (es : List Instr) (stamp : Nat) : Nat :=
  let cs := es.filterMap fun i => match i with | .epc h g => some (h.stamp, g) | _ => none
  match ((cs.filter fun y => y.1 < stamp).getLast?).or cs.getLast? with
  | some y => outBits y.2 / 8
  | none => 4

/-- R295: the busy span of a Felt entry and the resource it keeps: 0 evaluator, 1 load, 2 transposer, 3 output. -/
def feltBusy (c : Container) (k : Block) (i : Instr) : Nat × Nat :=
  let rate (n near far : Nat) : Nat :=
    match (c.binds[k.bindFirst + n]?).bind fun x => c.bufs.find? fun f => f.id == x.buf with
    | some f => if f.mem = 0 then near else far
    | none => far
  let up (a b : Nat) : Nat := (a + b - 1) / b
  match i with
  | .fldt _ _ n _ _ m => (1, up m (rate n 16 4))
  | .fxin o => (2, up (256 * 2 ^ o.sz) (rate o.bsel 512 256))
  | .fxout o => (3, up (256 * 2 ^ o.sz) (rate o.bsel 512 256))
  | .fpop _ n _ _ _ g _ => (3, up (512 * g) (rate n 512 256))
  | .fpopLat _ _ _ _ _ => (3, 1)
  | _ => (0, 1)

def feltStamp (i : Instr) : Nat :=
  match i with
  | .fldt h _ _ _ _ _ | .fctx h _ | .feval h _ _ | .fpop h _ _ _ _ _ _ | .fpopLat h _ _ _ _ | .fclr h _ _ | .fclrCtx h _ => h.stamp
  | .fxin o | .fxout o => o.h.stamp
  | _ => 0

/-- The engine entries of engine `e` in the images a block orders. -/
def blockEngs (c : Container) (k : Block) (e : Nat) : List Instr :=
  ((c.images.drop k.imgFirst).take k.imgCount).flatMap fun i =>
    ((recEntries i 3).filter fun y => y.2.1.row ≤ e && decide (e < y.2.1.row + y.2.1.rows)).filterMap fun y => (decodeEngine e y.2.2.2).toOption

/-- R285, R273: whichever `epc` of its block is in force, and whatever the width of the tiles its rows make, an `epw` is a
reserved combination. An epilogue is RAW until an `epc`. -/
def epwCombo (c : Container) (k : Block) (pair : Bool) : Bool :=
  let outs : List (Option Fmt) := (blockEngs c k 1).filterMap fun i => match i with | .epc _ g => some (if g.raw then none else some g.ofmt) | _ => none
  let rows := blockEngs c k 0
  let ns : List Nat := rows.filterMap fun i => match i with | .mm o | .mms o => some o.n | .mmz _ _ => some 16 | _ => none
  (if outs.isEmpty then [none] else outs).all fun o =>
    let block := match o with | some g => isBlock g | none => false
    let bits := match o with | some g => fmtBits g | none => 32
    pair != block || (!pair && !ns.isEmpty && ns.all fun n => n * bits % 8 != 0)

/-- R21, R281, R285, R289, R292, R293, R295, R321: the engine entries of an image. -/
def engineBad (c : Container) (k? : Option Block) (im : Nat) (i : Image) (rectAt : Nat → Viol) (ent_ : Nat → Rect → Nat → Viol) : List Viol :=
  let k := k?.getD default
  let er : List EngRec := (match k? with | some k => (c.engs.drop k.engFirst).take k.engCount | none => c.engs).filter fun e => e.img == im
  let mask := er.foldl (fun a e => a ||| e.eng) 0
  let fctx := er.foldl (fun a e => max a e.fctx) 0
  let of_ (e : Nat) : List (Nat × Rect × Nat × Nat) := (recEntries i 3).filter fun y => y.2.1.row ≤ e && decide (e < y.2.1.row + y.2.1.rows)
  let chkE (ok : Bool) (y : Nat × Rect × Nat × Nat) : List Viol := if ok then [] else [ent_ y.1 y.2.1 y.2.2.1]
  let bnd (n : Nat) (dirs mems : List Nat) : Bool := k?.isNone || engBinding c k n dirs mems
  let epis := (of_ 1).filterMap fun y => (decodeEngine 1 y.2.2.2).toOption
  let felts := (of_ 3).filterMap fun y => (decodeEngine 3 y.2.2.2).toOption
  let recs := (((List.range i.rects.length).zip i.rects).filter fun y => y.2.kind == 3).flatMap fun y =>
    if (rowsOf y.2).all mask.testBit then [] else [rectAt y.1]
  let ep := (of_ 1).flatMap fun y => match decodeEngine 1 y.2.2.2 with
    | .ok (.epi h _ col _) => chkE (col + epiLatches epis h.stamp ≤ i.cols) y
    | .ok (.epw _ n _ pair _ _) =>
      chkE (bnd n [1, 2] [0, 1, 3]) y ++
        (if match k? with | some k => epwCombo c k pair | none => false then [{ ent_ y.1 y.2.1 y.2.2.1 with combo := true }] else [])
    | _ => []
  let cp := (of_ 2).flatMap fun y =>
    let ok (sb db : Nat) : Bool :=
      (sb == 255 || bnd sb [0, 2] [0, 1, 2, 3]) && (db == 255 || bnd db [1, 2] [0, 1, 2, 3])
    match decodeEngine 2 y.2.2.2 with
    | .ok (.copy o) | .ok (.copyc o) => chkE (ok o.sb o.db) y
    | .ok (.fill o _) => chkE (ok 255 o.db) y
    | .ok (.prefetch o) | .ok (.wld o) => chkE (ok o.sb 255) y
    | _ => []
  let ft := (of_ 3).flatMap fun y =>
    let own : Bool := match decodeEngine 3 y.2.2.2 with
      | .ok (.fldt _ ctx n _ _ _) => ctx < fctx && bnd n [0, 2] [0, 1, 2]
      | .ok (.fctx _ ctx) | .ok (.fclrCtx _ ctx) => ctx < fctx
      | .ok (.fxin o) => bnd o.bsel [0, 2] [0, 1, 2]
      | .ok (.fxout o) => bnd o.bsel [1, 2] [0, 1]
      | .ok (.fpop _ n _ _ _ _ _) => bnd n [1, 2] [0, 1]
      | .ok (.fpopLat _ _ _ _ s0) => s0 + i.cols ≤ 256
      | _ => true
    let busy : Bool := match (decodeEngine 3 y.2.2.2).toOption with
      | none => true
      | some x =>
        let (r, n) := feltBusy c k x
        k?.isNone || n ≤ i.ii && !(List.range (n - 1)).any fun d => felts.any fun z =>
          (feltBusy c k z).1 == r && feltStamp z == (feltStamp x + d + 1) % i.ii
    chkE (own && busy) y
  recs ++ ep ++ cp ++ ft

/-! ## Programs in the context of a block (R79, R177, R178) -/

/-- A step that may stand in an arm (R177). -/
def armStep : Instr → Bool
  | .brs _ _ _ _ | .loop _ _ | .waitRegion _ | .waitFrame _ | .waitBarrier _ | .cfg _ _ _ | .cfgx _ _ _ _ | .swap _ | .run _ _
  | .ldq _ _ _ | .stq _ _ _ | .spawn _ | .yield | .retire | .trap _ | .stepBrk _ | .pub _ | .barInit _ _ | .stepBarArrive _
  | .stepBarWait _ | .stepFence _ | .stepFenceSc _ | .frame _ => false
  | _ => true

/-- The bodies of a program's loops: (first, last). -/
def bodies (is : List (Nat × Instr)) : List (Nat × Nat) :=
  is.filterMap fun y => match y.2 with | .loop _ e => some (y.1 + 1, e) | _ => none

/-- R178: two bodies nest or lie apart. -/
def nests (x y : Nat × Nat) : Bool := decide (x.2 < y.1) || decide (y.2 < x.1) || (x.1 ≤ y.1 && decide (y.2 ≤ x.2)) || (y.1 ≤ x.1 && decide (x.2 ≤ y.2))

/-- R79: a step of a program, in a block if one runs it. -/
def stepBad (c : Container) (k : Option Block) (is : List (Nat × Instr)) (n : Nat) (y : Nat × Instr) : Bool :=
  let i := y.1
  let bs := bodies is
  let arm (a l : Nat) : Bool := (List.range l).all fun d => is.all fun z => z.1 != a + d || armStep z.2
  let inBlk (f : Block → Bool) : Bool := match k with | some b => f b | none => true
  let imgIn (im : Nat) : Bool := inBlk fun b => decide (b.imgFirst ≤ im) && decide (im < b.imgFirst + b.imgCount)
  match y.2 with
  | .cfg _ _ im => imgIn im
  | .cfgx _ _ im r => imgIn im && (match c.images[im]? with | some x => decide (r < x.rects.length) | none => false)
  | .brs _ _ t l =>
    t + l ≤ n && decide (i + l < n) && arm t l && arm (i + 1) l &&
      bs.all fun x => !(decide (x.1 ≤ t) && decide (t ≤ x.2)) || (decide (x.1 ≤ i) && decide (i ≤ x.2))
  | .loop _ e =>
    i < e && decide (e < n) && bs.all (nests (i + 1, e)) &&
      (bs.filter fun x => x.1 ≤ i + 1 && decide (e ≤ x.2)).length ≤ 8
  | .mode m => c.frags.any fun f => f.mode == m
  | .pub id => inBlk fun b => (bndsOf c b).any fun x => x.f.id == id && x.f.mode != 2 && (x.b.dir == 1 || x.b.dir == 2)
  | .waitFrame g | .frame g => inBlk fun b => b.fgroup == g
  | _ => true

/-- The steps of a program, decoded, by index. -/
def stepsAt (ws : List Nat) : List (Nat × Instr) :=
  ((List.range ws.length).zip ws).filterMap fun y => (decodeStep y.2).toOption.map fun i => (y.1, i)

/-- The field of a step that R79 checks against its context, by its lowest bit (R78). -/
def stepBit (i : Instr) : Nat :=
  match i with
  | .cfgx _ _ _ _ | .brs _ _ _ _ => 10
  | .loop _ _ | .cfg _ _ _ | .mode _ | .pub _ | .waitFrame _ | .frame _ => 0
  | _ => 26

def progBad (b : Bytes) (ss : List Sect) (c : Container) : List Viol :=
  let s := oneOf ss 5
  ((List.range c.progs.length).zip ((tabOffs b s).zip c.progs)).flatMap fun y =>
    let o := y.2.1
    let ws := y.2.2
    let is := stepsAt ws
    let users : List (Option Block) := match (c.blocks.filter fun k => k.seq == y.1).map some with | [] => [none] | l => l
    let at_ (k : Option Block) (n bit : Nat) : Viol := { off := o + 4 + 4 * n, bit, step := some n, block := k.map (·.num) }
    named (fun v => { v with program := some y.1 })
      (chk (1 ≤ rd b o 2 && rd b o 2 ≤ 1024 && decide (o + 4 + 4 * rd b o 2 ≤ s.off + s.size)) o ++ rsvd b (o + 2) 2 ++
        ((List.range ws.length).zip ws).flatMap (fun z => match decodeStep z.2 with
          | .ok _ => []
          | .error .opcode => [at_ users.head?.join z.1 26]
          | .error r => [at_ users.head?.join z.1 (rejectBit r)]) ++
        users.flatMap fun k => is.flatMap fun z => if stepBad c k is ws.length z then [] else [at_ k z.1 (stepBit z.2)])

/-- R72: the 17th binding of a block that names one image and one port tile (log 97). -/
def crowded (b : Bytes) (ss : List Sect) (c : Container) : List Viol :=
  let bs := (oneOf ss 4).off
  c.blocks.flatMap fun k =>
    let mine := (c.binds.drop k.bindFirst).take k.bindCount
    ((List.range mine.length).zip mine).flatMap fun y =>
      if y.2.img != 0xFFFF && ((mine.take y.1).filter fun x => x.img == y.2.img && x.tile == y.2.tile).length == 16
      then [{ off := bs + 8 + 32 * rd b bs 4 + 16 * (k.bindFirst + y.1), block := some k.num }] else []

/-- The entries of every image, in every block that orders it. -/
def contextBad (b : Bytes) (c : Container) : List Viol :=
  ((List.range c.images.length).zip c.images).flatMap fun y =>
    let i := y.2
    let o := i.offset
    let pos := patOffs b o i
    let users : List (Option Block) :=
      match (c.blocks.filter fun k => k.imgFirst ≤ y.1 && decide (y.1 < k.imgFirst + k.imgCount)).map some with | [] => [none] | l => l
    users.flatMap fun k =>
      let ent (q : Nat) (r : Rect) (j bit : Nat) : Viol :=
        { off := (pos[r.pat]?).getD o + 8 + 8 * (patOf i r).words * j, bit, rect := some q, pattern := some r.pat, entry := some j }
      let rectAt (q : Nat) : Viol := { off := o + rd b (o + 12) 4 + 8 * q, rect := some q }
      named (fun v => { v with image := some y.1, block := k.map (·.num) })
        (portBad c k y.1 i ent ++ engineBad c k y.1 i rectAt fun q r j => ent q r j 39)

/-- All structural checks. The sections are read only where the header and the directory are sound: a violation there
lies below all of theirs. -/
def structureBad (b : Bytes) (size : Nat) : List Viol :=
  let ss := sectsOf b
  match headBad b size ss with
  | [] =>
    let imgs := oneOf ss 2
    let counts := ss.flatMap fun s =>
      let unit := match s.kind with | 1 => 32 | 2 | 5 => 4 | 3 => 8 | 6 => 16 | _ => 0
      chk (s.count * unit ≤ s.size) (s.at_ + 4)
    let c := parse b 0 0 []
    let images := ((List.range c.images.length).zip (tabOffs b imgs)).flatMap fun y =>
      named (fun v => { v with image := some y.1,
                               block := (c.blocks.find? fun k => k.imgFirst ≤ y.1 && decide (y.1 < k.imgFirst + k.imgCount)).map (·.num) })
        (imageBad b y.2 (imgs.off + imgs.size))
    counts ++ images ++ blockBad b ss c ++ listBad b ss c ++ tableBad b ss c ++ progBad b ss c ++ crowded b ss c ++ contextBad b c ++
      sigBad b (size - 4096)
  | l => l

/-! ## Verification (R27, R28, R88) -/

/-- R27, R88: the pair of public keys that both key identifiers name, of those accepted in a security state. -/
def keyPair (pairs : Nat → List (List Byte × List Byte)) (sec ed ml : Nat) : Option (List Byte × List Byte) :=
  (pairs sec ++ if sec = 1 || sec = 2 then pairs 0 else []).find? fun y => keyIdent y.1 == ed && keyIdent y.2 == ml

/-- R27, R89: the two signatures of a block at an offset over a message: 0 they verify, else the check that failed. -/
def sigFail (pairs : Nat → List (List Byte × List Byte)) (sec : Nat) (b : Bytes) (o edOff : Nat) (msg : List Byte) : Nat :=
  match keyPair pairs sec (rd b o 8) (rd b (o + 8) 8) with
  | none => 2
  | some (ed, ml) =>
    if !edVerify ed msg (bytesAt b edOff 64) then 3
    else if !mlVerify ml msg (bytesAt b (edOff + 64) 3309) then 4
    else 0

/-- R28: the check of a container that fails before its structure is read: 0 none, 1 the digest, 2 its keys, 3 and 4 its
signatures. The signature block is its last 4,096 bytes (R15), and the digest covers what lies below SIGOFF (R27). -/
def containerFail (sec : Nat) (b : Bytes) (size : Nat) : Nat :=
  let sig := rd b 0x18 8
  let o := size - 4096
  if size < 4096 || size < sig then 1
  else
    let digest := sha512 (bytesAt b 0 sig)
    if bytesAt b (o + 0x20) 64 != digest then 1
    else sigFail Config.imageKeys sec b (o + 8) (o + 0x60) (asciiBytes "BYRAL-PHIRATH-C4" ++ digest)

/-- R28: the Crown verifies a container and then reads it; its pages are read-only from then on (R29). -/
def execContainerVerify (addr size : Nat) (s : State) : Res :=
  let b : Bytes := fun (o : Nat) => s.readByte 0 (addr + o)
  let id := rd b 0x20 8
  let logged (s : State) (e : LogEv) : State := { s with crown := { s.crown with log := s.crown.log ++ [e] } }
  match containerFail s.crown.sec b size with
  | 0 =>
    let digest := leNat (sha512 (bytesAt b 0 (rd b 0x18 8)))
    let c := parse b addr digest (structureBad b size)
    let s := match c.reject with | some v => logged s (.contRejected id v) | none => s
    match (List.range s.conts.length).find? fun k => ((s.conts[k]?).map (·.digest)) == some digest with
    | none => .next { s with conts := s.conts ++ [c] }
    | some k =>
      if s.works.any fun w => w.cont == k then .next s
      else .next { s with conts := s.conts.set k c }
  | fail => .next (logged s (.contFailed id fail))

end Sys2Proof.Machine
end

