-- ==== Sys2Proof/Machine/Crown.lean ====
section
/-! DEFINITION. The Crown: the start of the package (R87 to R92), thermal and power states (R12, R101, R102), debug
(R99, R100, R103 to R105, R390), tampering and quarantine (R90, R106), and function-level resets (R408, R409). -/

namespace Sys2Proof.Machine

def State.modCrown (s : State) (f : Crown → Crown) : State := { s with crown := f s.crown }

def State.log (s : State) (e : LogEv) : State := s.modCrown fun c => { c with log := c.log ++ [e] }

/-! ## Images (R88, R89) -/

def imgPrefix (kind : Nat) : List Byte :=
  match kind with
  | 1 => asciiBytes "BYRAL-FIRSTSTG-1"
  | 2 => asciiBytes "BYRAL-RECOVERY-1"
  | 3 => asciiBytes "BYRAL-REEDFW-V01"
  | _ => asciiBytes "BYRAL-DRAMTRN-01"

/-- The SHA-512 digest of an image's header and body (R89). -/
def imageDigest (bs : List Byte) : List Byte := sha512 (bs.take (64 + rd (ofBytes bs) 8 8))

/-- R89: an image verifies: its security version. -/
def imageOk (kind sec : Nat) (bs : List Byte) : Option Nat :=
  let b := ofBytes bs
  let body := rd b 8 8
  let sig := 64 + body
  let digest := imageDigest bs
  let svn := rd b 0x11 1
  if rd b 0 8 == 0x474D494C41525942 && body % 256 == 0 && decide (sig ≤ 2 ^ 24) && decide (sig + 4096 ≤ bs.length) && rd b 0x10 1 == kind &&
      (rsvd b 0x12 46).isEmpty && (sigBad b sig).isEmpty && bytesAt b (sig + 0x20) 64 == digest &&
      sigFail Config.imageKeys sec b (sig + 8) (sig + 0x60) (imgPrefix kind ++ digest) == 0 &&
      (2 < kind || decide (Config.minSvn kind ≤ svn)) then some svn else none

/-! ## Clearing a die (R12, R378, R408) -/

/-- R97, R98, R101: a function's sessions and link keys are gone. -/
def closeFn (f : HostFn) : HostFn := { f with session := none, finished := false, keyPub := 0, ide := [] }

/-- A lane's block is cleared with no fallback, and its release ends KILLED. -/
def clearKilled (s : State) (lane : Nat) : State :=
  match (s.lane lane).rel with
  | none => s
  | some _ =>
    if (s.lane lane).retired then s
    else
      let s := s.modLane lane fun l => { l with rel := l.rel.map fun r => { r with killed := true } }
      let kept := retireRec s lane 1 false
      endCleared (clearBlock s lane) lane 1 kept

/-- Every block of a die, running, stopped or queued, is cleared. -/
def clearDie (s : State) (die : Nat) : State :=
  let s := (s.elastics.filter fun x => dieOf x.entry.lane == die).foldl (fun s x => discardElastic s x false) s
  (List.range 64).foldl (fun s k => clearKilled s (die * 64 + k)) s

/-- R94: the data keys of the active table set are erased and fresh ones drawn, or none. -/
def newKeys (s : State) : State :=
  let s := { s with keyGens := s.keyGens + 1 }
  { s with tset := s.tset.map fun (t : TSet) => { t with keyGen := s.keyGens } }

/-- R101, R102: what an unpowered die or domain held is gone: its addresses read as memory that nothing has written. -/
def dropMem (s : State) (lo hi : Nat) : State := { s with mem := memDrop s.mem lo hi }

/-- R102: every memory-and-link domain loses its supply. -/
def dramOff (s : State) : State := { dropMem s 0 (2 ^ 35 * 4) with memOff := true, tags := [], lineKeys := [], selfRefresh := false }

/-- R101, R102: the channels are in self-refresh only while every live die is in PARK. -/
def unrefresh (s : State) : State :=
  { s with selfRefresh := s.selfRefresh && s.live.all fun x => (s.die x).power == .park }

/-- A die stops for good: its blocks cleared, its sessions closed, a D2 grant that waited refused (R104). -/
def dieGone (s : State) (die : Nat) (p : Power) : State :=
  let s := clearDie s die
  let s := if s.crown.d2Pending.any (·.1 == die) then
      (s.log (.tokenRefused 5)).modCrown fun c => { c with d2Pending := c.d2Pending.filter (·.1 != die) }
    else s
  let s := s.modDie die fun d => { d with power := p, powerReq := none, waking := false, lost := true, debug := 0, d1 := false, trace := [] }
  let s := if p = .off then dropMem s (bufBase die) (bufBase die + 2 ^ 40) else s
  let s := { s with fns := tblPut s.fns die (closeFn (tblGet {} s.fns die)) }
  let s := unrefresh s
  if s.live.all fun d => (s.die d).power == .off then newKeys s else s

/-! ## Quarantine (R90, R106) -/

/-- R90: every compute die to OFF with its domain, every key erased, sessions closed, and recovery firmware verified by
PD1's Crown. -/
def quarantine (s : State) : State :=
  let s := s.log .quarantine
  let s := (List.range 4).foldl (fun s d => dieGone s d .off) s
  let s := dramOff (newKeys { s with fns := s.fns.map fun (y : Nat × HostFn) => (y.1, closeFn y.2) })
  s.modCrown fun c => { c with sec := 3, crownDebug := 0, d2Pending := [], attest := false, up := c.pd1Ok && (imageOk 2 0 c.recovery).isSome }

/-- R106. -/
def execTamper (s : State) : Res := .next (quarantine (s.modCrown fun c => { c with tamper := true }))

/-- R89: the security version of an image of kind 3 or 4 is recorded in the Crown log. -/
def logSvn (s : State) (kind svn : Nat) : State := if 2 < kind then s.log (.imageSvn kind svn) else s

/-- R90: an image that the recovery firmware receives is judged with the FIELD pairs; a first stage goes to slot A
(DESIGN CHOICE, log 122). -/
def execRecoveryImage (kind : Nat) (bytes : List Byte) (s : State) : Res :=
  match imageOk kind 0 bytes with
  | some svn =>
    if s.crown.sec = 3 && s.crown.up && (kind = 1 || kind = 3) then
      .next ((logSvn s kind svn).modCrown fun c =>
        { c with slotA := if kind = 1 then bytes else c.slotA, firmware := if kind = 3 then bytes else c.firmware, rebootAsked := true })
    else .next s
  | none => .next s

/-- R87. -/
def execLifecycleFuseBlow (s : State) : Res := .next (s.modCrown fun c => { c with lifecycleBlown := true })

/-! ## Debug tokens (R88, R99, R100, R103) -/

/-- R100: a token's signatures and identity hold. Its length and its reserved bits other than DIEMASK's are checked too
(DESIGN CHOICE, log 123). -/
def tokenSigned (sec : Nat) (bs : List Byte) : Bool :=
  let b := ofBytes bs
  rd b 0 8 == 0x4742444C41525942 && (rsvd b 0x0C 4).isEmpty && (rsvd b 0xDAD 3).isEmpty && rd b 0x0B 1 < 2 &&
    bs.length == 0xDB0 && bytesAt b 0x10 64 == idHash &&
    sigFail Config.debugKeys sec b 0x70 0x80 (asciiBytes "BYRAL-DEBUGTOK-1" ++ sha512 (bytesAt b 0 0x80)) == 0

/-- R87, R100: the service token in boot flash passes; its DIEMASK is ignored. -/
def serviceOk (bs : List Byte) : Bool :=
  let b := ofBytes bs
  tokenSigned 0 bs && rd b 8 1 == 0 && rd b 9 1 == 1 && rd b 0x0B 1 == 0 && rd b 0x50 32 == 0

/-- R103: a cell admits a level. -/
def cellOk (sec level : Nat) (p : Power) : Bool :=
  match sec, level, p with
  | 3, 1, .off => true
  | 3, _, _ => false
  | 2, 3, _ => true
  | _, 3, _ => false
  | _, _, .off | _, _, .reset => false
  | 2, _, _ => true
  | _, 1, _ => true
  | _, _, .park => false
  | _, _, _ => true

/-- The power state in which a die is judged: a die mapped out at start counts as OFF. -/
def judgedPower (s : State) (die : Nat) : Power := if s.crown.mapped && !s.crown.live.testBit die then .off else (s.die die).power

/-- R103: a request wakes a parked die to HOLD in DEVELOPMENT; the channels leave self-refresh with it (R102). -/
def wakeDie (s : State) (die : Nat) : State :=
  let d := s.die die
  if d.power = .park && s.crown.sec = 2 then unrefresh (s.setDie die { d with power := .hold }) else s

/-- R105: a D2 grant in FIELD waits for the next mode-change point. -/
def grantDie (s : State) (level die : Nat) : State :=
  if s.crown.sec = 0 && level = 2 then
    let s := s.modCrown fun c => { c with d2Pending := c.d2Pending ++ [(die, s.now)] }
    if s.tset.isNone then s.soon (.d2FieldRestart die) else s
  else
    let s := wakeDie s die
    let s := if judgedPower s die = .off && s.crown.sec = 2 then s
      else s.modDie die fun d => { d with debug := max d.debug level, d1 := d.d1 || level = 1 }
    s.modCrown fun c => { c with dbgHi := max c.dbgHi level }

/-- R100: the Crown judges a token. -/
def execDebugToken (bytes : List Byte) (s : State) : Res :=
  let b := ofBytes bytes
  let level := rd b 8 1
  let mask := rd b 0x0A 1
  let refuse (r : Nat) : Res := .next (s.log (.tokenRefused r))
  if !tokenSigned s.crown.sec bytes || 64 ≤ mask then refuse 1
  else if level = 0 || 3 < level then refuse 2
  else if rd b 9 1 != s.crown.sec then refuse 3
  else if 2 ≤ level && !(rd b 0x0B 1 == 1) then refuse 4
  else if rd b 0x0B 1 == 1 && rd b 0x50 32 != (Config.bootNonce s.crown.bootCount).toNat then refuse 4
  else if rd b 0x0B 1 == 0 && rd b 0x50 32 != 0 then refuse 4
  else
    let named := (List.range 4).filter fun d => mask.testBit d
    let ok := named.filter fun d => cellOk s.crown.sec level (judgedPower s d)
    let s := (named.filter fun d => !ok.contains d).foldl (fun s _ => s.log (.tokenRefused 5)) s
    let s := ok.foldl (fun s d => grantDie s level d) s
    let crowns := mask / 16 % 4
    .next (if level = 3 && s.crown.sec = 2 && crowns != 0 then
        s.modCrown fun c => { c with crownDebug := c.crownDebug ||| crowns, dbgHi := max c.dbgHi 3 }
      else s)

/-- R99, R103: the session at D2 or above reaches the state of a die's work. -/
def mayRead (s : State) (die lane : Nat) : Bool :=
  let d := s.die die
  dieOf lane == die && 2 ≤ d.debug && (d.power == .run || d.power == .hold)

/-- R103: the session may halt, step or write the block of a lane. -/
def mayStop (s : State) (die lane : Nat) : Bool := mayRead s die lane && (s.crown.sec != 0 || !s.isFirm lane)

/-- R103: the session may observe: from retention in PARK; in QUARANTINE the Crown's log alone. -/
def mayObserve (s : State) (die : Nat) : Bool :=
  let d := s.die die
  1 ≤ d.debug && (d.power == .run || d.power == .hold || d.power == .park || (s.crown.sec == 3 && d.power == .off))

/-- An answer to the debugger. -/
def State.tell (s : State) (r : DebugReply) : State := s.modCrown fun c => { c with debugOut := c.debugOut ++ [r] }

/-- R99: a register of a lane. -/
def debugRead (s : State) (lane : Nat) (r : DebugReg) : V128 :=
  let l := s.lane lane
  let c := s.core (coreOf lane)
  match r with
  | .sp => BitVec.ofNat 128 l.sp
  | .file u k => (tblGet {} (c.elem u).file k).bits
  | .latch u => (c.elem u).latch.bits
  | .pred u p => (tblGet 0 (c.elem u).preds p).setWidth 128
  | .const u k => (tblGet {} (c.elem u).consts (l.act * 16 + k)).bits
  | .port row => (c.port row).latch.val.bits

/-- R99: a register of a lane is written. -/
def debugWrite (s : State) (lane : Nat) (r : DebugReg) (v : V128) : State :=
  let l := s.lane lane
  let elem (u : Nat) (f : Elem → Elem) : State := s.modCore (coreOf lane) fun c => c.setElem u (f (c.elem u))
  match r with
  | .sp => s.setLane lane { l with sp := v.toNat % 1024 }
  | .file u k => elem u fun e => { e with file := tblPut e.file k { tblGet {} e.file k with bits := v } }
  | .latch u => elem u fun e => { e with latch := { e.latch with bits := v } }
  | .pred u p => elem u fun e => { e with preds := tblPut e.preds p (v.setWidth 16) }
  | .const u k => elem u fun e =>
      { e with consts := tblPut e.consts (l.act * 16 + k) { tblGet {} e.consts (l.act * 16 + k) with bits := v } }
  | .port row => s.modCore (coreOf lane) fun c =>
      let p := c.port row
      c.setPort row { p with latch := { p.latch with val := { p.latch.val with bits := v } } }

/-- R99, R103: a granted session asks to observe, halt, step, read or write. What it reads changes nothing else. -/
def execDebugRequest (die : Nat) (op : DebugOp) (s : State) : Res :=
  let s := if 1 ≤ (s.die die).debug then wakeDie s die else s
  let stops (lane : Nat) (t : State) : Res := .next (if mayStop s die lane then t else s.log (.haltRefused lane))
  let reads (ok : Bool) (r : DebugReply) : Res := .next (s.tell (if ok then r else .refused die))
  match op with
  | .observe =>
    reads (mayObserve s die)
      (if s.crown.sec = 3 then .log s.crown.log
       else .trace die (s.die die).trace ((List.range 64).map fun k => (s.lane (die * 64 + k)).ovtot))
  | .readQ lane q => reads (mayRead s die lane) (.value (((s.lane lane).getQ q).setWidth 128))
  | .readReg lane r => reads (mayRead s die lane) (.value (debugRead s lane r))
  | .readMem pa n => reads (mayRead s die (die * 64)) (.bytes (s.readBytes 0 pa n))
  | .halt lane => stops lane (s.modLane lane fun l => { l with halted := true })
  | .stepOne lane => stops lane (if (s.lane lane).halted then { s with agenda := s.agenda ++ [.issue lane] } else s)
  | .stepRegion lane => stops lane (if (s.lane lane).halted then s.modLane lane fun l => { l with nudge := true } else s)
  | .writeQ lane q v => stops lane (s.modLane lane fun l => l.setQ q v)
  | .writeReg lane r v => stops lane (debugWrite s lane r v)
  | .writeMem lane pa bytes => stops lane (s.writeBytes 0 false pa bytes)

/-- R390: a resume request ends a breakpoint halt. -/
def execBrkResume (lane : Nat) (s : State) : Res :=
  if (s.lane lane).halted then .next (s.modLane lane fun l => { l with halted := false })
  else
    .next { s with elastics := s.elastics.map fun (x : ERel) =>
      if x.entry.lane = lane then { x with saved := x.saved.map fun (v : Saved) => { v with lane := { v.lane with halted := false } } } else x }

/-- R105: the data keys are redrawn and the table set is restarted, as at launch. -/
def execD2FieldRestart (die : Nat) (s : State) : Res :=
  let s := newKeys s
  let s := s.modCrown fun c => { c with intervened := true, dbgHi := max c.dbgHi 2, d2Pending := c.d2Pending.filter (·.1 != die) }
  let s := s.modDie die fun d => { d with debug := max d.debug 2 }
  match s.tset with
  | none => .next s
  | some t =>
    let s := s.elastics.foldl (fun s x => discardElastic s x false) s
    let s := (List.range 256).foldl clearKilled s
    let low := ((List.range 32).find? fun m => s.works.any fun w => w.launch.modes.testBit m).getD 0
    let s := { s with tset := some { t with mode := low, a := s.tick, keyGen := s.keyGens }, modeReqs := [], flips := [], groups := [],
                      works := s.works.map fun (w : Work) => { w with firstPeriod := 0 },
                      bufs := s.bufs.map fun (b : BufSt) => { b with faces := [], pstats := [], pending := false } }
    -- as at an activation (R312)
    let s := clearPartitions s
    let s := s.works.foldl (fun s w =>
      match s.conts[w.cont]? with
      | none => s
      | some c =>
        let p : Packet := { workid := w.workid, parent := w.parent, acttick := s.tick, l := w.launch, cont := w.cont, c, frags := [], entries := [] }
        (packetBufs p w.entries).foldl (fun s y => loadBuf s p y.1 y.2) s) s
    .next (refill s)

/-! ## Starting (R9, R87, R89, R91, R92) -/

/-- What outlives a start: flash, fuses, host and device memory, the world's stimulus, and the environment. Every tag is
RAW again (R317). -/
def restarted (s : State) : State :=
  let c := s.crown
  { State.reset with
    agenda := s.agenda, inputs := s.inputs, freeCtr := s.freeCtr, nextId := s.nextId, rails := s.rails, mem := s.mem,
    lineKeys := s.lineKeys, keyGens := s.keyGens + 1,
    dies := s.dies.map fun (y : Nat × Die) => (y.1, { (default : Die) with bist := y.2.bist, dramTrain := y.2.dramTrain, temps := y.2.temps }),
    crown := { lifecycleBlown := c.lifecycleBlown, bootCount := c.bootCount + 1, slotA := c.slotA, slotB := c.slotB, recovery := c.recovery,
               firmware := c.firmware, training := c.training, badLinks := c.badLinks, token := c.token, pd0Ok := c.pd0Ok, pd1Ok := c.pd1Ok,
               log := c.log } }

/-- R89: the ROM tries slot A, then slot B. -/
def bootSlot (sec : Nat) (c : Crown) : Option (Nat × Nat) :=
  match imageOk 1 sec c.slotA with
  | some v => some (0, v)
  | none => (imageOk 1 sec c.slotB).map fun v => (1, v)

/-- R87, R89: an image that the first stage finds in flash is verified, and its security version logged; a failure takes
the package to QUARANTINE. Flash that holds none has nothing to verify (DESIGN CHOICE, log 124). -/
def verifyStored (s : State) (kind : Nat) (bs : List Byte) : State :=
  if bs.isEmpty then s
  else
    match imageOk kind s.crown.sec bs with
    | some svn => logSvn s kind svn
    | none => quarantine (s.log (.imageFailed kind))

/-- The cycles between two readings of the sensors (R12). -/
def thermalPeriod : Nat := tickStart 10000

/-- R89: the rising edge of PWRGOOD. Without PD0 the package does not start (R92). -/
def execPwrgood (s : State) : Res :=
  if !s.rails then .next (State.log { s with powered := false } .supplyFault)
  else
    let s := restarted s
    if !s.crown.pd0Ok then .next (s.log .pd0Failed)
    else
      let sec := if s.crown.lifecycleBlown then 0 else 2
      match bootSlot sec s.crown with
      | none => .next (quarantine ((s.log (.slotFailed 0)).log (.slotFailed 1)))
      | some (slot, svn) =>
        let s := if slot = 1 then s.log (.slotFailed 0) else s
        let service := s.crown.lifecycleBlown && serviceOk s.crown.token
        let s := if s.crown.lifecycleBlown && !service && !s.crown.token.isEmpty then s.log .serviceTokenFailed else s
        let s := s.modCrown fun c =>
          { c with up := true, sec := if service then 1 else sec, fssvn := svn, usedSlot := slot, attest := true,
                   stage := imageDigest (if slot = 0 then c.slotA else c.slotB) }
        let s := verifyStored s 3 s.crown.firmware
        .next ((s.post (tickStart 1800000) .mapOut).post thermalPeriod (.thermalRead []))

/-- R91: the Reed cores run from tick 600,000 of a start that verifies; in QUARANTINE none does (DEDUCED, log 125). -/
def reedUp (s : State) : Bool := s.crown.up && s.crown.sec != 3 && decide (600000 ≤ s.tick)

/-- R9: PWRGOOD falls, or a rail leaves its tolerance. -/
def execPwrgoodFall (s : State) : Res :=
  .next { s with powered := false, evq := [], agenda := [], crown := { s.crown with up := false } }

/-- PD0 accepts a posted command into the I/O stream (R121, R403). A reserved OP is denied at its decision. -/
def acceptCmd (s : State) (slot : Nat) : State :=
  let m := tblGet {} s.mail slot
  match m.cmd with
  | none => s
  | some c =>
    let d := max (s.tick + 16) s.ioLast
    let (id, s) := s.fresh
    let s : State := { s with ioLast := d }
    let s := match c with | .resync _ => s.sendControl hostDie 1 | _ => s
    match cmdEvent slot m.tag c with
    | some i => s.post (tickStart d) i
    | none =>
      State.post { s with pends := s.pends ++ [{ id, slot, tag := m.tag, cmd := c, when_ := tickStart d, result := 0, status := 5 }] }
        (tickStart d) (.commandCompletion id)

/-- R92: a command that waits for the map-out. -/
def waitsMap : Cmd → Bool
  | .aset _ _ _ | .pin _ _ _ _ | .unpin _ _ _ _ | .inval _ _ _ _ _ | .reside _ _ _ | .evict _ _ => true
  | _ => false

/-- R133: the die a link that fails training maps out: of a compute die and a port die the compute die, of two compute
dies the higher, of the port dies PD1 (die 5). -/
def linkVictim (k : Nat) : Nat :=
  match links[k]? with
  | some (a, b) => if b < 4 then max a b else if a < 4 then a else 5
  | none => 6

/-- R92, R133: dies mapped out for a failing link. A link of a die that fails by itself proves nothing (DEDUCED, log 127). -/
def linkOut (s : State) : List Nat :=
  let bad (d : Nat) : Bool := if d < 4 then !(s.die d).bist || !(s.die d).dramTrain else d == 5 && !s.crown.pd1Ok
  (s.crown.badLinks.filter fun k => match links[k]? with | some (a, b) => !bad a && !bad b | none => false).map linkVictim

/-- R92: at tick 1,800,000 the live dies are fixed, and what waited is accepted. -/
def execMapOut (s : State) : Res :=
  if !s.crown.pd0Ok then .next ((s.log .pd0Failed).modCrown fun c => { c with up := false })
  else if s.crown.mapped || !s.crown.up || s.crown.sec = 3 then .next s
  else
    let s := verifyStored s 4 s.crown.training
    if s.crown.sec = 3 then .next s
    else
    let out := linkOut s
    let good (d : Nat) : Bool := let x := s.die d; x.bist && x.dramTrain && !out.contains d
    let live := (List.range 4).foldl (fun a d => if good d then a + 2 ^ d else a) 0
    let s := ((List.range 4).filter fun d => !good d).foldl (fun s d => s.log (.mapOut d)) s
    let s := s.modCrown fun c => { c with live, portLive := if c.pd1Ok && !out.contains 5 then 3 else 1, mapped := true }
    let s := { s with fns := (List.range 4).map fun (d : Nat) => (d, ({ responds := good d } : HostFn)) }
    let s := s.live.foldl (fun s d => (List.range 8).foldl (fun s g => s.post (s.now + tickStart (50 * g)) (.weightStoreRefresh d g)) s) s
    let waiting := s.mail.filter fun y => y.2.busy && (match y.2.cmd with | some c => waitsMap c | none => false)
    let s := waiting.foldl (fun s y => acceptCmd s y.1) s
    .next { s with lnchBuf := [], agenda := s.agenda ++ s.lnchBuf.map fun bs => .event (.launchPacket bs) }

/-! ## Power states and temperature (R12, R101, R102, R104) -/

/-- An installed mode places no entry on a die. -/
def emptyMode (s : State) (m die : Nat) : Bool := !(s.works.any fun w => w.entries.any fun e => e.mode == m && dieOf e.lane == die)

/-- R101, R102: the Crown refuses or keeps a request. Die 4 stands for every compute die together, which only OFF is
asked of. -/
def execPowerStateRequest (_slot die : Nat) (p : Power) (s : State) : Res :=
  let goes : List Nat := if die = 4 then s.live.filter fun d => (s.die d).power != .off else [die]
  let gone (d : Nat) : Bool := (s.die d).power == .off || (s.die d).power == .reset || !s.crown.live.testBit d
  let others := die != 4 && s.live.any fun x => x != die && (s.die x).power != .off
  let noMode := s.tset.isSome && !((List.range 32).any fun m => modeInstalled s m && goes.all (emptyMode s m))
  if goes.isEmpty || goes.any gone || p == .reset || (die == 4 && p != .off) || (p == .off && others) || noMode || s.crown.sec = 3 then .next s
  else
    let s := goes.foldl (fun s d => s.modDie d fun x => { x with powerReq := some p, reqAt := s.now }) s
    .next (if s.tset.isNone then goes.foldl (fun s d => s.post (tickStart (s.tick + 1)) (.powerStateChange d)) s else s)

/-- R101: the ticks within which a state is entered, or left for RUN. -/
def powerTicks (from_ goal : Power) : Nat :=
  match goal with
  | .hold => 2
  | .park => 150000
  | .off | .reset => 1000
  | .run => if from_ = .hold then 10 else 300000

/-- R104: a D2 grant that waits when its die enters PARK is judged against PARK, and so refused, where its token came
after the request. -/
def judgeParked (s : State) (die : Nat) : State :=
  let late (y : Nat × Nat) : Bool := y.1 == die && decide ((s.die die).reqAt ≤ y.2)
  if s.crown.d2Pending.any late then
    (s.log (.tokenRefused 5)).modCrown fun c => { c with d2Pending := c.d2Pending.filter fun y => !late y }
  else s

/-- R101: a requested state takes effect; a die on its way to RUN is there only when it has left its state. When the last
die goes to OFF by request, its memory-and-link domain goes with it (R102). -/
def execPowerStateChange (die : Nat) (s : State) : Res :=
  let d := s.die die
  match d.powerReq with
  | none => .next s
  | some p =>
    let (k, s) := s.free
    let t := s.now + 1 + Config.powerDelay k % (120 * powerTicks d.power p)
    let s := match p with
      | .run => s.setDie die { d with powerReq := none, waking := true, reachAt := t }
      | .off =>
        let s := (dieGone s die .off).modDie die fun x => { x with reachAt := t }
        if s.live.all fun x => (s.die x).power == .off then dramOff s else s
      -- R104: PARK closes a D2 or D3 session
      | .park => s.setDie die { d with power := .park, powerReq := none, waking := false, reachAt := t, debug := if 2 ≤ d.debug then b2n d.d1 else d.debug }
      | p => s.setDie die { d with power := p, powerReq := none, waking := false, reachAt := t }
    .next ((unrefresh s).post t (.powerStateReached die))

/-- R101, R102: the change is complete; the DRAM channels are in self-refresh while every live die is in PARK. -/
def execPowerStateReached (die : Nat) (s : State) : Res :=
  let d := s.die die
  let s := if d.waking && d.reachAt = s.now && d.power != .off && d.power != .reset then s.setDie die { d with power := .run, waking := false } else s
  let (now_, later) := s.heldStores.partition fun y => !s.asleep y.1
  let s := now_.foldl (fun s y => s.writeBytes 0 false y.1 y.2) { s with heldStores := later }
  .next { s with selfRefresh := !s.live.isEmpty && s.live.all fun x => (s.die x).power == .park && (s.die x).reachAt ≤ s.now }

/-- R12: what the Crown does about the reading of one die, the highest of its sensors. Dies 4 and 5 are the port dies,
which stay in RUN (R101). -/
def thermalDie (s : State) (die : Nat) : State :=
  let d := s.die die
  if !isLive s die || d.power = .off then s
  else
    match d.temps with
    | [] => s
    | t0 :: r =>
      let t := r.foldl max t0
      let s := if 105 ≤ t then
          (s.modDie die fun d => { d with thermalWarn := true }).modCrown fun c => { c with notices := c.notices ++ [.thermal die] }
        else s
      if 115 ≤ t && die < 4 then dieGone s die .off else s

/-- R12: the environment's temperatures come to stand at the four sensors of each die; or, without any, the Crown's
reading of all six dies, every 10,000 ticks. -/
def execThermalRead (temps : List (List Int)) (s : State) : Res :=
  match temps with
  | [] => .next (((List.range 6).foldl thermalDie s).post (s.now + thermalPeriod) (.thermalRead []))
  | _ => .next (((List.range temps.length).zip temps).foldl (fun s y => s.modDie y.1 fun d => { d with temps := y.2.take 4 }) s)

/-! ## Function-level resets (R408) -/

/-- R408: received in a tick, the reset acts in the first cycle of the next. -/
def execFunctionLevelReset (fn : Nat) (s : State) : Res :=
  let d := s.die fn
  if !s.crown.live.testBit fn then .next s
  else if !d.flrReset then
    .next ((s.setDie fn { d with flrReset := true }).post (tickStart (s.tick + 1)) (.functionLevelReset fn))
  else
    let s := if d.power = .off then s else dieGone s fn .reset
    let f := tblGet {} s.fns fn
    .next { s with fns := tblPut s.fns fn { closeFn f with tdi := .error } }

end Sys2Proof.Machine
end

