-- ==== Sys2Proof/Machine/Agents.lean ====
section
/-! DEFINITION. What lies around the compute dies: package time and its discipline (R107 to R109), attestation and link
protection (R97, R98), Reed cores, DMA engines and the host (R121, R347, R396, R401, R403, R407). -/

namespace Sys2Proof.Machine

/-! ## Package time (R108, R109) -/

/-- PTIME.NS (R107). -/
def State.ns (s : State) : Nat := s.now * 5 / 6

def State.modTime (s : State) (f : PTime → PTime) : State := { s with ptime := f s.ptime }

/-- R108: the port whose Announce wins. -/
def bestPort (t : Tbl (Nat × Nat)) : Option Nat :=
  (t.foldl (fun (a : Option (Nat × Nat)) y => match a with
    | none => some (y.2.1, y.1)
    | some x => if y.2.1 < x.1 then some (y.2.1, y.1) else some x) none).map (·.2)

/-- R108: an Announce takes part in the selection; one of another domain is discarded. -/
def execAnnounce (m : AnnMsg) (s : State) : Res :=
  if m.domain != 0 || 4 ≤ m.port then .next s
  else
    .next (s.modTime fun p =>
      let prios := tblPut p.prios m.port (m.prio, m.gm)
      { p with prios, port := bestPort prios })

/-- R108: a peer-delay exchange measures a port's path delay. -/
def execPeerDelay (port delay : Nat) (s : State) : Res :=
  if port < 4 then .next (s.modTime fun p => { p with delays := tblPut p.delays port delay }) else .next s

/-- The cycles of the 3 s of R109. -/
def holdoverCycles : Nat := 3600000000

/-- R108: the time stamped on a frame received now, in steps of 8 ns (cut down: DESIGN CHOICE, log 128). -/
def stampNs (s : State) : Nat := s.ns / 8 * 8

/-- R109: a notification of the Crown. -/
def notice (s : State) (n : Notice) : State := s.modCrown fun c => { c with notices := c.notices ++ [n] }

/-- R108, R109: a Sync is accepted from the chosen port, domain 0 and the intervals stated, and disciplines package time. -/
def execSync (m : SyncMsg) (s : State) : Res :=
  let p := s.ptime
  if m.domain != 0 || m.logInt < -5 || 0 < m.logInt || p.port != some m.port then .next s
  else
    let g := m.gptp + tblGet 0 p.delays m.port
    let s := s.post (s.now + holdoverCycles) .holdover
    if !p.synced then
      .next (s.modTime fun p =>
        { p with epoch := ofSigned 64 ((g : Int) - stampNs s), st := 1, synced := true, gm := m.gm, good := 0, lastSync := s.now })
    else
      let err : Int := toSigned 64 (ofSigned 64 ((g : Int) - p.epoch - stampNs s))
      let small : Bool := -50 ≤ err && decide (err ≤ 50)
      let far := (p.st = 2 || p.st = 3) && (decide (err < -1000000) || decide (1000000 < err))
      let chg := m.gm != p.gm
      let good := if small then (if p.st = 3 then 1 else p.good + 1) else 0
      let st := if p.st = 3 then 1 else if p.st = 1 && 8 ≤ good then 2 else p.st
      let (k, s) := s.free
      let rate : Int := ((Config.freeBits k % 100001 : Nat) : Int) - 50000
      let s := s.modTime fun p =>
        { p with st, good, rate, far := p.far || far, gmchg := p.gmchg || chg, gm := m.gm, lastSync := s.now }
      let s := if far && !p.far then notice s .far else s
      .next (if chg && !p.gmchg then notice s .gmchg else s)

/-- R109: no Sync has been accepted for 3 s. -/
def execHoldover (s : State) : Res :=
  let p := s.ptime
  if p.synced && (p.st = 1 || p.st = 2) && p.lastSync + holdoverCycles ≤ s.now then .next (s.modTime fun p => { p with st := 3 })
  else .next s

/-! ## Attestation (R97) -/

def State.fn (s : State) (n : Nat) : HostFn := tblGet {} s.fns n
def State.setFn (s : State) (n : Nat) (f : HostFn) : State := { s with fns := tblPut s.fns n f }

/-- A reply of a function whose layout SPDM gives: request code, function, a draw. -/
def reply (s : State) (fn code : Nat) (f : HostFn) (bs : List Byte) : State :=
  let (k, s) := s.free
  s.setFn fn { f with replies := f.replies ++ [bs ++ Config.spdmReply code fn k], transcript := f.transcript * 16 + code }

/-- A request out of order is answered with an error and changes nothing else. -/
def spdmError (s : State) (fn : Nat) (f : HostFn) : State :=
  let (k, s) := s.free
  s.setFn fn { f with replies := f.replies ++ [Config.spdmReply 15 fn k] }

/-- R92, R407: a function responds: one of the four of a package that has started and is not held in reset, of a die not
mapped out. -/
def fnUp (s : State) (fn : Nat) : Bool :=
  s.crown.up && s.crown.mapped && decide (fn < 4) && s.crown.live.testBit fn && (s.fn fn).responds

/-- A function that responds answers a request that stands in order; one that needs the attestation keys is in error once
they are erased (R90). -/
def answer (s : State) (fn code : Nat) (inOrder : HostFn → Bool) (f : HostFn → HostFn) (body : State → List Byte) : Res :=
  let x := s.fn fn
  if !fnUp s fn then .next s
  else if inOrder x then .next (reply s fn code (f x) (body s))
  else .next (spdmError s fn x)

def execGetVersion (fn : Nat) (s : State) : Res :=
  answer s fn 0 (fun _ => true)
    (fun f => { f with version := true, caps := false, algs := false, session := none, finished := false, transcript := 0 }) fun _ => []

def execGetCapabilities (fn : Nat) (s : State) : Res := answer s fn 1 (·.version) (fun f => { f with caps := true }) fun _ => []

/-- R97: Ed25519, TPM_ALG_SHA_512, secp384r1 and AES-256-GCM, numbered 0 to 3. -/
def execNegotiateAlgorithms (fn : Nat) (algs : List Nat) (s : State) : Res :=
  answer s fn 2 (fun f => f.caps && (List.range 4).all algs.contains) (fun f => { f with algs := true }) fun _ => []

def execGetDigests (fn : Nat) (s : State) : Res :=
  answer s fn 3 (·.algs) id fun _ => sha512 (Config.certChain fn)

def execGetCertificate (fn : Nat) (s : State) : Res := answer s fn 4 (·.algs) id fun _ => Config.certChain fn

/-- R93, R97: what both attestation keys sign. -/
def signed (s : State) (msg : List Byte) : List Byte :=
  let k := attestSeeds s.crown.stage s.crown.sec
  edSign k.1 msg ++ padTo 3309 (Config.mlSign k.2 msg s.freeCtr)

/-- R97: SPDM's own signatures are Ed25519 alone. -/
def signedEd (s : State) (msg : List Byte) : List Byte := edSign (attestSeeds s.crown.stage s.crown.sec).1 msg

def execChallenge (fn nonce : Nat) (s : State) : Res := answer s fn 5 (fun f => f.algs && s.crown.attest) id fun s => signedEd s (leBytes 32 nonce)

/-- R97: the evidence record. -/
def evidence (s : State) (nonce : Nat) : List Byte :=
  let head := packFields [(8, 0x315645_4C41525942), (32, nonce), (32, (Config.bootNonce s.crown.bootCount).toNat)] ++ idHash ++ manifest s
  head ++ signed s (asciiBytes "BYRAL-EVIDENCE-1" ++ sha512 head) ++ zeroBytes 75

def execGetMeasurements (fn nonce : Nat) (s : State) : Res := answer s fn 6 (fun f => f.algs && s.crown.attest) id fun s => evidence s nonce

/-- A KEY_EXCHANGE opens a session that FINISH completes. -/
def execKeyExchange (fn pub : Nat) (s : State) : Res :=
  answer s fn 7 (fun f => f.algs && s.crown.attest) (fun f => { f with session := some (Config.sharedKey fn pub s.freeCtr), finished := false, keyPub := pub })
    fun s => signedEd s (leBytes 8 (s.fn fn).transcript)

def execFinish (fn mac : Nat) (s : State) : Res :=
  answer s fn 8 (fun f => match f.session with | some k => !f.finished && mac == Config.finishMac k f.transcript | none => false)
    (fun f => { f with finished := true }) fun _ => []

def execEndSession (fn : Nat) (s : State) : Res :=
  answer s fn 9 (·.session.isSome) (fun f => { f with session := none, finished := false }) fun _ => []

def execVendorDefinedRequest (fn : Nat) (_req : List Byte) (s : State) : Res := answer s fn 10 (·.algs) id fun _ => []

/-- R98: IDE_KM over a secured session sets the key of a stream: 0 the link stream, 1 to 4 selective. -/
def execIdeKm (fn stream key : Nat) (s : State) : Res :=
  let f := s.fn fn
  .next (if fnUp s fn && f.finished && stream < 5 then s.setFn fn { f with ide := tblPut f.ide stream key } else s)

/-- R98: the moves between the states of a TDI, over a secured session. -/
def tdiMove : Tdi → Tdi → Bool
  | .configUnlocked, .configLocked => true
  | .configLocked, .run => true
  | _, .configUnlocked => true
  | _, _ => false

def execTdispRequest (fn : Nat) (goal : Tdi) (s : State) : Res :=
  let f := s.fn fn
  .next (if fnUp s fn && f.finished && tdiMove f.tdi goal then s.setFn fn { f with tdi := goal } else s)

/-! ## Reed cores, DMA engines and the host -/

/-- The 4 KiB blocks that bytes touch; no region of R138 begins or ends within one. -/
def blocksOf (pa n : Nat) : List Nat := if n = 0 then [] else (List.range ((pa + n - 1) / 4096 + 1 - pa / 4096)).map fun k => (pa / 4096 + k) * 4096

/-- R139, R102: an agent of a port die may reach an address of memory. -/
def agentReach (s : State) (pa n : Nat) : Bool :=
  n != 0 && (blocksOf pa n).all fun a => match s.homeOf a with
    | .dram _ | .host => true
    | .buf d _ | .ws d _ => s.bufUp d
    | .spad c => s.crown.live.testBit (c / 16)
    | .sys _ _ | .pd _ _ | .none => false

/-- R29, R139: an agent of a port die may store to an address. -/
def storable (s : State) (pa n : Nat) : Bool := agentReach s pa n && (blocksOf pa n).all fun a => !s.roPage a

/-- A store by a port die's agent performs under data key 0, its lines RAW (R396); it waits for a die in HOLD or PARK. -/
def agentStore (s : State) (pa : Nat) (bytes : List Byte) : State :=
  if s.asleep pa then { s with heldStores := s.heldStores ++ [(pa, bytes)] }
  else (s.dramChargeAll pa bytes.length).writeBytes 0 false pa bytes

/-- An answer to an agent. -/
def State.answered (s : State) (slot : Nat) (a : Answer) : State := { s with answers := s.answers ++ [(slot, a)] }

/-- R130, R401, R403: a register read through an aperture or a mailbox, and the little-endian bytes it gives. -/
def readReg (s : State) : RegRead → List Byte
  | .sys lane sreg => leBytes 8 (sysRead s lane sreg)
  | .manifest off n => (manifest s).drop off |>.take n
  | .reloc off n => (relocTable s).drop off |>.take n
  | .queue q r =>
    let x := s.queue q
    match r with
    | 0 => leBytes 8 x.base
    | 1 => leBytes 8 x.size
    | 2 => leBytes 8 x.head
    | 3 => leBytes 8 x.tail
    | 4 => leBytes 8 x.lost
    | _ => leBytes 8 x.drops
  | .busy slot => leBytes 8 (b2n (tblGet {} s.mail slot).busy)

/-- R139: a register read by an agent; the aperture of a die mapped out is refused. -/
def agentRead (s : State) (slot : Nat) (r : RegRead) : State :=
  let ok := match r with | .sys lane _ => s.crown.live.testBit (dieOf lane) | _ => true
  s.answered slot (if ok then .bytes (readReg s r) else .permission)

/-- The bytes of a load. -/
def answerLoad (s : State) (slot pa n : Nat) : State := ((s.dramChargeAll pa n).chargeRead pa n).answered slot (.bytes (s.readBytes 0 pa n))

/-- R102: the loads that awaited a die which runs again are answered. -/
def wakeLoads (s : State) : State :=
  let up (y : Nat × Nat × Nat) : Bool := !s.asleep y.2.1
  (s.sleeping.filter up).foldl (fun s y => answerLoad s y.1 y.2.1 y.2.2) { s with sleeping := s.sleeping.filter (!up ·) }

/-- R14, R29, R102, R139, R160: an access to memory or, by a Reed core, to a register aperture. One that is not allowed
does nothing, and its agent is told PERMISSION; a load from the buffer or weight store of a die in HOLD or PARK is
answered when the die runs. -/
def agentAccess (s : State) (slot : Nat) (a : Access) : State :=
  match a with
  | .load pa n =>
    if !agentReach s pa n then s.answered slot .permission
    else if s.asleep pa then { s with sleeping := s.sleeping ++ [(slot, pa, n)] }
    else answerLoad s slot pa n
  | .store pa bytes =>
    match s.homeOf pa with
    | .sys d off =>
      if 16 ≤ slot then s
      else if !s.crown.live.testBit d then s.answered slot .permission
      else if off = 0x1000 then s.post (s.now + 1) (.hotThreshWrite d (BitVec.ofNat 64 (leNat (bytes.take 8))))
      else s.soon (.registerWrite off (BitVec.ofNat 64 (leNat (bytes.take 8))))
    | _ => if storable s pa bytes.length then agentStore s pa bytes else s.answered slot .permission

/-- R403: a command is posted in the agent's own slot, unless the slot is busy. -/
def postCmd (s : State) (slot tag : Nat) (c : Cmd) : State :=
  if (tblGet {} s.mail slot).busy then s
  else
    let s := { s with mail := tblPut s.mail slot { busy := true, tag, cmd := some c } }
    if waitsMap c && !s.crown.mapped then s else acceptCmd s slot

/-- R347, R121, R401, R403: what a Reed core does. Core 0 to 7 are PD0's. -/
def execReedCoreAccess (core : Nat) (op : ReedOp) (s : State) : Res :=
  if !reedUp s then .next s
  else
    match op with
    | .mem a => .next (agentAccess s core a)
    | .read r => .next (agentRead s core r)
    | .post slot tag c => .next (if slot = core then postCmd s slot tag c else s.answered core .permission)
    | .launch bytes =>
      if bytes.length != 576 then .next s
      else if s.crown.mapped then .next (s.soon (.launchPacket bytes))
      else .next { s with lnchBuf := s.lnchBuf ++ [bytes] }
    | .queueHead q v => .next (wakeQueue (s.setQueue q { s.queue q with head := v % 2 ^ 32 }) q)

/-- R347, R403, R407: what the host does through a function. Its view of the registers is read-only. -/
def execHostAccess (fn : Nat) (op : ReedOp) (s : State) : Res :=
  if !fnUp s fn then .next s
  else
    match op with
    | .mem a => .next (agentAccess s (16 + fn) a)
    | .read r => .next (agentRead s (16 + fn) r)
    | .post slot tag c => .next (if slot = 16 + fn then postCmd s slot tag c else s.answered (16 + fn) .permission)
    | .launch _ | .queueHead _ _ => .next s

/-- R347, R396: a DMA engine performs a transfer in address order; a refused one writes nothing. One from a die in HOLD
or PARK is made when the die runs. -/
def execDmaWrite (engine src dst bytes : Nat) (s : State) : Res :=
  let ok := storable s dst bytes && agentReach s src bytes
  if ok && s.asleep src then .next (s.post (s.now + 1) (.dmaWrite engine src dst bytes))
  else
    let s := { s with dmas := s.dmas ++ [{ engine, src, dst, n := bytes, refused := !ok }] }
    .next (if ok then agentStore ((s.dramChargeAll src bytes).chargeRead src bytes) dst (s.readBytes 0 src bytes) else s)

end Sys2Proof.Machine
end

