-- ==== Sys2Proof/Machine/Dispatch.lean ====
section
/-! DEFINITION. One arm a constructor: each calls that instruction's own meaning. -/

namespace Sys2Proof.Machine

/-- The meaning of every instruction and event. -/
def exec (i : Instr) (s : State) : Host.Outcome State Fault Refusal :=
  match i with
  | .nop a => Sys2Proof.Machine.execNop a s
  | .add a => Sys2Proof.Machine.execAdd a s
  | .sub a => Sys2Proof.Machine.execSub a s
  | .adds a => Sys2Proof.Machine.execAdds a s
  | .subs a => Sys2Proof.Machine.execSubs a s
  | .neg a => Sys2Proof.Machine.execNeg a s
  | .abs a => Sys2Proof.Machine.execAbs a s
  | .min a => Sys2Proof.Machine.execMin a s
  | .max a => Sys2Proof.Machine.execMax a s
  | .avg a => Sys2Proof.Machine.execAvg a s
  | .clamp a => Sys2Proof.Machine.execClamp a s
  | .mul a => Sys2Proof.Machine.execMul a s
  | .mulh a => Sys2Proof.Machine.execMulh a s
  | .mad a => Sys2Proof.Machine.execMad a s
  | .sad a => Sys2Proof.Machine.execSad a s
  | .dot4 a => Sys2Proof.Machine.execDot4 a s
  | .and a => Sys2Proof.Machine.execAnd a s
  | .or a => Sys2Proof.Machine.execOr a s
  | .xor a => Sys2Proof.Machine.execXor a s
  | .andn a => Sys2Proof.Machine.execAndn a s
  | .not a => Sys2Proof.Machine.execNot a s
  | .shl a => Sys2Proof.Machine.execShl a s
  | .shr a => Sys2Proof.Machine.execShr a s
  | .sha a => Sys2Proof.Machine.execSha a s
  | .rot a => Sys2Proof.Machine.execRot a s
  | .clz a => Sys2Proof.Machine.execClz a s
  | .pop a => Sys2Proof.Machine.execPop a s
  | .brev a => Sys2Proof.Machine.execBrev a s
  | .bfx a => Sys2Proof.Machine.execBfx a s
  | .bfi a => Sys2Proof.Machine.execBfi a s
  | .cmp a => Sys2Proof.Machine.execCmp a s
  | .test a => Sys2Proof.Machine.execTest a s
  | .sel a => Sys2Proof.Machine.execSel a s
  | .mov a => Sys2Proof.Machine.execMov a s
  | .movk a => Sys2Proof.Machine.execMovk a s
  | .li a => Sys2Proof.Machine.execLi a s
  | .tri5 a => Sys2Proof.Machine.execTri5 a s
  | .pack a => Sys2Proof.Machine.execPack a s
  | .unpk a => Sys2Proof.Machine.execUnpk a s
  | .idx a => Sys2Proof.Machine.execIdx a s
  | .fadd a => Sys2Proof.Machine.execFadd a s
  | .fsub a => Sys2Proof.Machine.execFsub a s
  | .fmul a => Sys2Proof.Machine.execFmul a s
  | .fma a => Sys2Proof.Machine.execFma a s
  | .fms a => Sys2Proof.Machine.execFms a s
  | .fnma a => Sys2Proof.Machine.execFnma a s
  | .fmin a => Sys2Proof.Machine.execFmin a s
  | .fmax a => Sys2Proof.Machine.execFmax a s
  | .fabs a => Sys2Proof.Machine.execFabs a s
  | .fneg a => Sys2Proof.Machine.execFneg a s
  | .fcmp a => Sys2Proof.Machine.execFcmp a s
  | .fclass a => Sys2Proof.Machine.execFclass a s
  | .frnd a => Sys2Proof.Machine.execFrnd a s
  | .fscl a => Sys2Proof.Machine.execFscl a s
  | .fdot2 a => Sys2Proof.Machine.execFdot2 a s
  | .lsumf a => Sys2Proof.Machine.execLsumf a s
  | .cvt a => Sys2Proof.Machine.execCvt a s
  | .cvtsr a => Sys2Proof.Machine.execCvtsr a s
  | .quant a => Sys2Proof.Machine.execQuant a s
  | .dequ a => Sys2Proof.Machine.execDequ a s
  | .scl a => Sys2Proof.Machine.execScl a s
  | .uscl a => Sys2Proof.Machine.execUscl a s
  | .amax a => Sys2Proof.Machine.execAmax a s
  | .mxsc a => Sys2Proof.Machine.execMxsc a s
  | .rnd a => Sys2Proof.Machine.execRnd a s
  | .rndn a => Sys2Proof.Machine.execRndn a s
  | .fnExp2 a => Sys2Proof.Machine.execFnExp2 a s
  | .fnLog2 a => Sys2Proof.Machine.execFnLog2 a s
  | .fnRcp a => Sys2Proof.Machine.execFnRcp a s
  | .fnRsq a => Sys2Proof.Machine.execFnRsq a s
  | .fnSin a => Sys2Proof.Machine.execFnSin a s
  | .fnTanh a => Sys2Proof.Machine.execFnTanh a s
  | .fnSig a => Sys2Proof.Machine.execFnSig a s
  | .fnGelu a => Sys2Proof.Machine.execFnGelu a s
  | .pand a => Sys2Proof.Machine.execPand a s
  | .por a => Sys2Proof.Machine.execPor a s
  | .pxor a => Sys2Proof.Machine.execPxor a s
  | .pnot a => Sys2Proof.Machine.execPnot a s
  | .pmov a => Sys2Proof.Machine.execPmov a s
  | .bcast a => Sys2Proof.Machine.execBcast a s
  | .shuf a => Sys2Proof.Machine.execShuf a s
  | .lrot a => Sys2Proof.Machine.execLrot a s
  | .lsum a => Sys2Proof.Machine.execLsum a s
  | .lmax a => Sys2Proof.Machine.execLmax a s
  | .drnCut a => Sys2Proof.Machine.execDrnCut a s
  | .drnLin a => Sys2Proof.Machine.execDrnLin a s
  | .dseed a => Sys2Proof.Machine.execDseed a s
  | .dget a => Sys2Proof.Machine.execDget a s
  | .dput a => Sys2Proof.Machine.execDput a s
  | .dzero a => Sys2Proof.Machine.execDzero a s
  | .tokw a => Sys2Proof.Machine.execTokw a s
  | .toke a => Sys2Proof.Machine.execToke a s
  | .barArrive a => Sys2Proof.Machine.execBarArrive a s
  | .barWait a => Sys2Proof.Machine.execBarWait a s
  | .barAw a => Sys2Proof.Machine.execBarAw a s
  | .fence a => Sys2Proof.Machine.execFence a s
  | .fenceSc a => Sys2Proof.Machine.execFenceSc a s
  | .brk a => Sys2Proof.Machine.execBrk a s
  | .ld a => Sys2Proof.Machine.execLd a s
  | .st a => Sys2Proof.Machine.execSt a s
  | .ldg a => Sys2Proof.Machine.execLdg a s
  | .stg a => Sys2Proof.Machine.execStg a s
  | .aadd a => Sys2Proof.Machine.execAadd a s
  | .amin a => Sys2Proof.Machine.execAmin a s
  | .atomicMax a => Sys2Proof.Machine.execAtomicMax a s
  | .aand a => Sys2Proof.Machine.execAand a s
  | .aor a => Sys2Proof.Machine.execAor a s
  | .axor a => Sys2Proof.Machine.execAxor a s
  | .axch a => Sys2Proof.Machine.execAxch a s
  | .acas a => Sys2Proof.Machine.execAcas a s
  | .radd a => Sys2Proof.Machine.execRadd a s
  | .rmin a => Sys2Proof.Machine.execRmin a s
  | .rmax a => Sys2Proof.Machine.execRmax a s
  | .cnt a => Sys2Proof.Machine.execCnt a s
  | .step a => Sys2Proof.Machine.execStep a s
  | .tokgo a => Sys2Proof.Machine.execTokgo a s
  | .tokend a => Sys2Proof.Machine.execTokend a s
  | .mmz a b => Sys2Proof.Machine.execMmz a b s
  | .mm a => Sys2Proof.Machine.execMm a s
  | .mms a => Sys2Proof.Machine.execMms a s
  | .radv a => Sys2Proof.Machine.execRadv a s
  | .epc a b => Sys2Proof.Machine.execEpc a b s
  | .epi a b c d => Sys2Proof.Machine.execEpi a b c d s
  | .epw a b c d e f => Sys2Proof.Machine.execEpw a b c d e f s
  | .epd a => Sys2Proof.Machine.execEpd a s
  | .epb a b c => Sys2Proof.Machine.execEpb a b c s
  | .copy a => Sys2Proof.Machine.execCopy a s
  | .copyc a => Sys2Proof.Machine.execCopyc a s
  | .fill a b => Sys2Proof.Machine.execFill a b s
  | .prefetch a => Sys2Proof.Machine.execPrefetch a s
  | .wld a => Sys2Proof.Machine.execWld a s
  | .drain a b => Sys2Proof.Machine.execDrain a b s
  | .fldt a b c d e f => Sys2Proof.Machine.execFldt a b c d e f s
  | .fctx a b => Sys2Proof.Machine.execFctx a b s
  | .feval a b c => Sys2Proof.Machine.execFeval a b c s
  | .fxin a => Sys2Proof.Machine.execFxin a s
  | .fxout a => Sys2Proof.Machine.execFxout a s
  | .fpop a b c d e f g => Sys2Proof.Machine.execFpop a b c d e f g s
  | .fpopLat a b c d e => Sys2Proof.Machine.execFpopLat a b c d e s
  | .fclr a b c => Sys2Proof.Machine.execFclr a b c s
  | .fclrCtx a b => Sys2Proof.Machine.execFclrCtx a b s
  | .stepNop => Sys2Proof.Machine.execStepNop s
  | .cfg a b c => Sys2Proof.Machine.execCfg a b c s
  | .cfgx a b c d => Sys2Proof.Machine.execCfgx a b c d s
  | .swap a => Sys2Proof.Machine.execSwap a s
  | .run a b => Sys2Proof.Machine.execRun a b s
  | .waitRegion a => Sys2Proof.Machine.execWaitRegion a s
  | .waitFrame a => Sys2Proof.Machine.execWaitFrame a s
  | .waitBarrier a => Sys2Proof.Machine.execWaitBarrier a s
  | .brs a b c d => Sys2Proof.Machine.execBrs a b c d s
  | .loop a b => Sys2Proof.Machine.execLoop a b s
  | .setq a b => Sys2Proof.Machine.execSetq a b s
  | .addq a b c => Sys2Proof.Machine.execAddq a b c s
  | .addqImm a b c => Sys2Proof.Machine.execAddqImm a b c s
  | .cmpq a b c d => Sys2Proof.Machine.execCmpq a b c d s
  | .ldq a b c => Sys2Proof.Machine.execLdq a b c s
  | .stq a b c => Sys2Proof.Machine.execStq a b c s
  | .tick a => Sys2Proof.Machine.execTick a s
  | .mode a => Sys2Proof.Machine.execMode a s
  | .spawn a => Sys2Proof.Machine.execSpawn a s
  | .yield => Sys2Proof.Machine.execYield s
  | .retire => Sys2Proof.Machine.execRetire s
  | .trap a => Sys2Proof.Machine.execTrap a s
  | .freeze a => Sys2Proof.Machine.execFreeze a s
  | .thaw a => Sys2Proof.Machine.execThaw a s
  | .sysr a b => Sys2Proof.Machine.execSysr a b s
  | .sysw a b => Sys2Proof.Machine.execSysw a b s
  | .claim a b => Sys2Proof.Machine.execClaim a b s
  | .free a b => Sys2Proof.Machine.execFree a b s
  | .pub a => Sys2Proof.Machine.execPub a s
  | .barInit a b => Sys2Proof.Machine.execBarInit a b s
  | .stepBarArrive a => Sys2Proof.Machine.execStepBarArrive a s
  | .stepBarWait a => Sys2Proof.Machine.execStepBarWait a s
  | .frame a => Sys2Proof.Machine.execFrame a s
  | .stepFence a => Sys2Proof.Machine.execStepFence a s
  | .stepFenceSc a => Sys2Proof.Machine.execStepFenceSc a s
  | .stepBrk a => Sys2Proof.Machine.execStepBrk a s
  | .resultLand a => Sys2Proof.Machine.execResultLand a s
  | .memoryReply a => Sys2Proof.Machine.execMemoryReply a s
  | .hotThreshold a b c => Sys2Proof.Machine.execHotThreshold a b c s
  | .intervalWrap a => Sys2Proof.Machine.execIntervalWrap a s
  | .frameWireEvent a b => Sys2Proof.Machine.execFrameWireEvent a b s
  | .faceFlip a b => Sys2Proof.Machine.execFaceFlip a b s
  | .regionEnd a => Sys2Proof.Machine.execRegionEnd a s
  | .bankReady a b => Sys2Proof.Machine.execBankReady a b s
  | .configPrefetch a b => Sys2Proof.Machine.execConfigPrefetch a b s
  | .matrixStepLand a => Sys2Proof.Machine.execMatrixStepLand a s
  | .copyDone a => Sys2Proof.Machine.execCopyDone a s
  | .feltLoadDone a => Sys2Proof.Machine.execFeltLoadDone a s
  | .writePerform a b => Sys2Proof.Machine.execWritePerform a b s
  | .pageWalk a b c => Sys2Proof.Machine.execPageWalk a b c s
  | .atomicResend a b => Sys2Proof.Machine.execAtomicResend a b s
  | .flitDelivery a b => Sys2Proof.Machine.execFlitDelivery a b s
  | .barrierArrivalLand a b => Sys2Proof.Machine.execBarrierArrivalLand a b s
  | .barrierRelease a => Sys2Proof.Machine.execBarrierRelease a s
  | .weightStoreRefresh a b => Sys2Proof.Machine.execWeightStoreRefresh a b s
  | .faultDecision a => Sys2Proof.Machine.execFaultDecision a s
  | .entryRetry a => Sys2Proof.Machine.execEntryRetry a s
  | .blockRestart a => Sys2Proof.Machine.execBlockRestart a s
  | .killClear a => Sys2Proof.Machine.execKillClear a s
  | .blockStart a b => Sys2Proof.Machine.execBlockStart a b s
  | .elasticRelease a b => Sys2Proof.Machine.execElasticRelease a b s
  | .elasticResume a => Sys2Proof.Machine.execElasticResume a s
  | .elasticStop a b => Sys2Proof.Machine.execElasticStop a b s
  | .budgetExhausted a => Sys2Proof.Machine.execBudgetExhausted a s
  | .elasticSave a => Sys2Proof.Machine.execElasticSave a s
  | .periodStart => Sys2Proof.Machine.execPeriodStart s
  | .overrun a => Sys2Proof.Machine.execOverrun a s
  | .fallbackOverrun a => Sys2Proof.Machine.execFallbackOverrun a s
  | .modeChange => Sys2Proof.Machine.execModeChange s
  | .launchPacket a => Sys2Proof.Machine.execLaunchPacket a s
  | .admission a => Sys2Proof.Machine.execAdmission a s
  | .pretranslationTimeout a => Sys2Proof.Machine.execPretranslationTimeout a s
  | .tableSetActivation => Sys2Proof.Machine.execTableSetActivation s
  | .workEnd a => Sys2Proof.Machine.execWorkEnd a s
  | .aset a b c d e => Sys2Proof.Machine.execAset a b c d e s
  | .pin a b c d e f => Sys2Proof.Machine.execPin a b c d e f s
  | .unpin a b c d e f => Sys2Proof.Machine.execUnpin a b c d e f s
  | .inval a b c d e f g => Sys2Proof.Machine.execInval a b c d e f g s
  | .reside a b c d e => Sys2Proof.Machine.execReside a b c d e s
  | .evict a b c d => Sys2Proof.Machine.execEvict a b c d s
  | .modereq a b c => Sys2Proof.Machine.execModereq a b c s
  | .endwork a b c => Sys2Proof.Machine.execEndwork a b c s
  | .resync a b c => Sys2Proof.Machine.execResync a b c s
  | .ctrread a b c d e f g => Sys2Proof.Machine.execCtrread a b c d e f g s
  | .ctrclr a b c d e f g => Sys2Proof.Machine.execCtrclr a b c d e f g s
  | .queueStagedWrite a => Sys2Proof.Machine.execQueueStagedWrite a s
  | .queueConfigWrite a b c => Sys2Proof.Machine.execQueueConfigWrite a b c s
  | .hotThreshWrite a b => Sys2Proof.Machine.execHotThreshWrite a b s
  | .registerWrite a b => Sys2Proof.Machine.execRegisterWrite a b s
  | .containerVerify a b => Sys2Proof.Machine.execContainerVerify a b s
  | .thermalRead a => Sys2Proof.Machine.execThermalRead a s
  | .powerStateChange a => Sys2Proof.Machine.execPowerStateChange a s
  | .d2FieldRestart a => Sys2Proof.Machine.execD2FieldRestart a s
  | .functionLevelReset a => Sys2Proof.Machine.execFunctionLevelReset a s
  | .commandCompletion a => Sys2Proof.Machine.execCommandCompletion a s
  | .powerStateReached a => Sys2Proof.Machine.execPowerStateReached a s
  | .dmaWrite a b c d => Sys2Proof.Machine.execDmaWrite a b c d s
  | .pwrgood => Sys2Proof.Machine.execPwrgood s
  | .mapOut => Sys2Proof.Machine.execMapOut s
  | .tamper => Sys2Proof.Machine.execTamper s
  | .holdover => Sys2Proof.Machine.execHoldover s
  | .lifecycleFuseBlow => Sys2Proof.Machine.execLifecycleFuseBlow s
  | .pwrgoodFall => Sys2Proof.Machine.execPwrgoodFall s
  | .powerStateRequest a b c => Sys2Proof.Machine.execPowerStateRequest a b c s
  | .debugToken a => Sys2Proof.Machine.execDebugToken a s
  | .brkResume a => Sys2Proof.Machine.execBrkResume a s
  | .sync a => Sys2Proof.Machine.execSync a s
  | .announce a => Sys2Proof.Machine.execAnnounce a s
  | .peerDelay a b => Sys2Proof.Machine.execPeerDelay a b s
  | .getVersion a => Sys2Proof.Machine.execGetVersion a s
  | .getCapabilities a => Sys2Proof.Machine.execGetCapabilities a s
  | .negotiateAlgorithms a b => Sys2Proof.Machine.execNegotiateAlgorithms a b s
  | .getDigests a => Sys2Proof.Machine.execGetDigests a s
  | .getCertificate a => Sys2Proof.Machine.execGetCertificate a s
  | .challenge a b => Sys2Proof.Machine.execChallenge a b s
  | .getMeasurements a b => Sys2Proof.Machine.execGetMeasurements a b s
  | .keyExchange a b => Sys2Proof.Machine.execKeyExchange a b s
  | .finish a b => Sys2Proof.Machine.execFinish a b s
  | .endSession a => Sys2Proof.Machine.execEndSession a s
  | .vendorDefinedRequest a b => Sys2Proof.Machine.execVendorDefinedRequest a b s
  | .ideKm a b c => Sys2Proof.Machine.execIdeKm a b c s
  | .tdispRequest a b => Sys2Proof.Machine.execTdispRequest a b s
  | .reedCoreAccess a b => Sys2Proof.Machine.execReedCoreAccess a b s
  | .hostAccess a b => Sys2Proof.Machine.execHostAccess a b s
  | .debugRequest a b => Sys2Proof.Machine.execDebugRequest a b s
  | .recoveryImage a b => Sys2Proof.Machine.execRecoveryImage a b s

end Sys2Proof.Machine
end

