-- ==== Sys2Proof/Machine/Cycle.lean ====
section
/-! DEFINITION. One arithmetic cycle of the machine, phase by phase: what falls due (0), the table units' work at a
tick's start (1 to 3), the counters (4), the memories and engines (5), the results that land (6), the regions that end
(7), holds and firings (8) and the sequencers' own cycles (9). Each phase puts what is to happen on the agenda. -/

namespace Sys2Proof.Machine

/-! ## Phase 0: a cycle begins, and what falls due -/

/-- Events due by now, and those still to come. -/
def dueEvents (now : Nat) (l : List (Nat × Instr)) : List Instr × List (Nat × Instr) :=
  ((l.takeWhile fun y => decide (y.1 ≤ now)).map (·.2), l.dropWhile fun y => decide (y.1 ≤ now))

def isReset : Instr → Bool
  | .functionLevelReset _ => true
  | _ => false

def isResync : Instr → Bool
  | .resync _ _ _ => true
  | _ => false

def isPwrgood : Instr → Bool
  | .pwrgood => true
  | _ => false

/-- R406, R408: within one cycle resets act first, then RESYNC takes its snapshot, then the rest as posted. -/
def inOrder (is : List Instr) : List Instr :=
  is.filter isReset ++ is.filter isResync ++ is.filter fun i => !isReset i && !isResync i

/-- R112: from the first cycle of the tick after its last work ended no set is active. -/
def endDue (s : State) : State :=
  match s.tset with
  | some t => if t.ending && s.now % 120 = 0 then endSet s else s
  | none => s

/-- The next cycle begins. Without power nothing happens but a rising PWRGOOD. -/
def beginCycle (s : State) : State :=
  let s := { s with now := s.now + 1 }
  if s.powered then
    let s := endDue s.flushQueues
    let (evs, later) := dueEvents s.now s.evq
    let (ins, next_) := dueEvents s.now s.inputs
    { s with evq := later, inputs := next_, agenda := s.agenda ++ (inOrder evs ++ ins).map .event }
  else
    let (ins, next_) := dueEvents s.now s.inputs
    { s with inputs := next_, agenda := (ins.filter isPwrgood).map .event }

/-! ## Phases 1 to 4: the table units at a tick's start (R111 to R120, R172, R377, R383, R409) -/

/-- The period index of a tick, and its offset. -/
def offsetOf (t : TSet) (tick : Nat) : Nat × Nat := ((tick - t.a) / t.period, (tick - t.a) % t.period)

/-- The mode in force at a tick to come, as the requests posted so far decide it. -/
def modeAt (s : State) (t : TSet) (tick : Nat) : Nat :=
  match pendingMode s with
  | some (r, p) => if p ≤ tick then r.mode else t.mode
  | none => t.mode

/-- The entries of a mode that apply at a tick. -/
def entriesAt (s : State) (t : TSet) (mode tick : Nat) : List Entry :=
  if tick < t.a then []
  else s.works.flatMap fun w => if (offsetOf t tick).1 < w.firstPeriod then [] else w.entries.filter fun e => e.mode == mode

/-- Firm entries that start at a tick. -/
def firmStarts (s : State) (t : TSet) (tick : Nat) : List Entry :=
  (entriesAt s t (modeAt s t tick) tick).filter fun e => !e.elastic && e.start == (offsetOf t tick).2

/-- A firm block starts on a lane at a tick. -/
def firmAt (s : State) (t : TSet) (lane tick : Nat) : Bool := (firmStarts s t tick).any fun e => e.lane == lane

/-- A tick lies in a firm window of a lane. -/
def inFirm (s : State) (t : TSet) (lane tick : Nat) : Bool :=
  (entriesAt s t t.mode tick).any fun e => e.lane == lane && inWindow e (offsetOf t tick).2

/-- The die walks its tables. -/
def dieUp (s : State) (die : Nat) : Bool :=
  let d := s.die die
  s.crown.live.testBit die && !d.lost && d.power == .run

/-- R172: the ticks before START at which step 0 may be performed: the load rounded up, plus 1. -/
def prefetchLead (s : State) (e : Entry) : Option Nat :=
  (s.workById e.workid).bind fun w => (blockIn s w e.block).bind fun y =>
    match ((y.1.progs[y.2.seq]?).getD []).head? with
    | none => none
    | some word =>
      match decodeStep word with
      | .ok (.cfg _ _ img) => (y.1.images[img]?).map fun i => (loadCycles y.1 img i none + 119) / 120 + 1
      | _ => none

/-- R409: at the DEADLINE of an entry placed on a lost die, its buffers' PSTAT is set. -/
def lostDeadline (s : State) (e : Entry) : State :=
  match (s.workById e.workid).bind fun w => blockIn s w e.block with
  | none => s
  | some (c, b) =>
    ((bndsOf c b).filter fun x => x.f.mode != 2 && (x.b.dir == 1 || x.b.dir == 2)).foldl (fun s x =>
      let y := s.bufSt e.workid x.f.id
      s.setBuf { y with pstats := s.live.foldl (fun p d => tblSet false p d true) y.pstats }) s

/-- R117: the tick that ends is charged to the work whose elastic block ran. -/
def chargeBudget (s : State) (lane : Nat) : State :=
  let l := s.lane lane
  match l.erun, l.rel with
  | some _, some r =>
    let b := tblGet 0 l.budget r.entry.workid
    if b = 0 then s
    else
      let s := s.setLane lane { l with budget := tblPut l.budget r.entry.workid (b - 1) }
      if b = 1 then s.soon (.budgetExhausted lane) else s
  | _, _ => s

/-- R12, R409: the entries of lost dies whose DEADLINE falls in this tick, of the period that started them. -/
def lostEntries (s : State) (t : TSet) : List Entry :=
  s.works.flatMap fun w => w.entries.filter fun e =>
    e.mode == t.mode && !e.elastic && (s.die (dieOf e.lane)).lost && decide (t.a + e.deadline ≤ s.tick) &&
      (s.tick - e.deadline - t.a) % t.period == 0 && decide (w.firstPeriod ≤ (s.tick - e.deadline - t.a) / t.period)

/-- Phase 1: frame groups, overruns, budgets, a period's start, and works that end. -/
def tickEnds (s : State) : State :=
  let s := groupTick s
  let s := { s with tset := s.tset.map fun (t : TSet) => { t with atPoint := isPoint s s.tick } }
  match s.tset with
  | none => s
  | some t =>
    let s := s.lanes.foldl (fun s y =>
      match y.2.rel with
      | some r =>
        if y.2.retired then s
        else if r.kind = .firm && r.abs r.entry.deadline = s.tick then s.soon (.overrun y.1)
        else if r.kind = .fallback && r.abs r.entry.fbend = s.tick then s.soon (.fallbackOverrun y.1)
        else s
      | none => s) s
    let s := (lostEntries s t).foldl lostDeadline s
    let s := s.lanes.foldl (fun s y => chargeBudget s y.1) s
    let s := if t.a < s.tick && (offsetOf t s.tick).2 = 0 then s.soon .periodStart else s
    if t.atPoint then (s.works.filter (·.ending)).foldl (fun s w => s.soon (.workEnd w.workid)) s else s

/-- R101, R102: a die whose requested power state may take effect at a point, the mode in force afterwards given; OFF takes
every live die together. -/
def powerDue (s : State) (mode die : Nat) : Bool :=
  let off (d : Nat) : Bool := (s.die d).power == .off || ((s.die d).powerReq == some .off && emptyMode s mode d)
  match (s.die die).powerReq with
  | none => false
  | some .off => s.live.all off
  | some _ => emptyMode s mode die

/-- R105: the lowest-numbered mode that a running work installs. -/
def lowestMode (s : State) : Nat := ((List.range 32).find? (modeInstalled s)).getD 0

/-- The mode in force after a point: a restart of R105 begins in the lowest one. -/
def modeAfter (s : State) (t : TSet) : Nat :=
  if s.crown.d2Pending.isEmpty then ((winner (dueReqs s t)).map (·.mode)).getD t.mode else lowestMode s

/-- Phase 2: at a mode-change point, the change, D2 grants in FIELD, and power states. A grant that waits is judged
against PARK first where its die parks at this point (R104). -/
def tickPoint (s : State) : State :=
  match s.tset with
  | none => s
  | some t =>
    if t.atPoint then
      let parks := (s.live.filter (powerDue s (modeAfter s t))).filter fun d => (s.die d).powerReq == some .park
      let s := parks.foldl judgeParked s
      let s := if (s.modeReqs.any fun r => r.tick + 8 ≤ s.tick) then s.soon .modeChange else s
      let s := s.crown.d2Pending.foldl (fun s y => s.soon (.d2FieldRestart y.1)) s
      (s.live.filter (powerDue s (modeAfter s t))).foldl (fun s d => s.soon (.powerStateChange d)) s
    else s

/-- R117: what a lane does for its elastic entries. -/
def elasticLane (s : State) (t : TSet) (lane : Nat) : State :=
  let l := s.lane lane
  let near (n : Nat) : Bool := firmAt s t lane (s.tick + n)
  if l.erun.isSome then
    if near 2 && (match l.stop with | .saving _ _ => false | _ => true) then s.soon (.elasticStop lane .firmStart)
    else if l.stop = .none && !hasBudget s lane (l.erun.getD 0) && (readyElastics s lane).any (fun x => hasBudget s lane x.id) then
      s.soon (.elasticStop lane .budget)
    else s
  else if (l.rel.isSome && !l.retired) || l.stop != .none || !dieUp s (dieOf lane) || inFirm s t lane s.tick ||
      near 0 || near 1 || near 2 then s
  else runNext s lane

/-- The program stores of the next firm block and of its fallback (R172). -/
def loadStore (s : State) (e : Entry) : State :=
  match s.workById e.workid with
  | none => s
  | some w => s.modLane e.lane fun l => { l with nextProg := progOf s w e.block, fbProg := progOf s w e.fblock }

/-- Phase 3: prefetches, the starts of firm blocks, and the releases of elastic ones. -/
def tickStarts (s : State) : State :=
  match s.tset with
  | none => s
  | some t =>
    let all := entriesAt s t t.mode s.tick
    let off := (offsetOf t s.tick).2
    let s := (all.filter fun e => e.elastic && e.start == off).foldl (fun s e => s.soon (.elasticRelease e.lane (entryKey e))) s
    let soon_ := s.works.flatMap fun w => w.entries.filter fun e => !e.elastic
    let s := soon_.foldl (fun s e =>
      match prefetchLead s e with
      | some k => if (firmStarts s t (s.tick + k)).contains e && dieUp s (dieOf e.lane) then s.soon (.configPrefetch e.lane (entryKey e)) else s
      | none => s) s
    let s := (firmStarts s t (s.tick + 1)).foldl loadStore s
    (firmStarts s t s.tick).foldl (fun s e => if dieUp s (dieOf e.lane) then s.soon (.blockStart e.lane (entryKey e)) else s) s

/-- Phase 4: slack. An elastic entry may start in the tick of its release. -/
def tickSlack (s : State) : State :=
  match s.tset with
  | none => s
  | some t =>
    let lanes := (s.elastics.map (·.entry.lane)).eraseDups
    lanes.foldl (fun s l => elasticLane s t l) s

/-- One of the four phases, in the first cycle of a tick of a package that is up. R110 lets a die's boundary fall within an
arithmetic cycle of the package's; here every die's falls on it (DESIGN CHOICE, log 139). -/
def onTick (f : State → State) (s : State) : State := if s.now % 120 = 0 && s.powered && s.crown.mapped then f s else s

/-! ## Phase 5: the counters (R174, R180, R246) -/

/-- What ends for a lane with this cycle: a restoring, a fault's freeze, a fault's stop of its step context. -/
def Lane.wake (l : Lane) (now : Nat) : Lane :=
  let l := match l.stop with
    | .restoring u => if u ≤ now then { l with stop := .none } else l
    | _ => l
  let l := if l.faultHold && l.thawAt != 0 && l.thawAt ≤ now then { l with faultHold := false, thawAt := 0 } else l
  if l.stepAt != 0 && l.stepAt ≤ now then { l.stepDone with stepAt := 0 } else l

/-- The counter of a lane stands still throughout this cycle. -/
def standsStill (s : State) (lane : Nat) (l : Lane) : Bool :=
  l.frozen || l.faultHold || (l.halted && !l.nudge) || l.away || (s.die (dieOf lane)).power != .run

/-- A counter that has fired its cycle goes on to the next after the stretch of its drone width; the state, and whether
it wraps. -/
def Lane.advance (l : Lane) (now : Nat) : Lane × Bool :=
  if !l.run || l.still || now ≤ l.startAt || !l.fired || l.refire then (l, false)
  else if l.substep + 1 < stretch l.width then ({ l with substep := l.substep + 1 }, false)
  else
    let l := { l with fired := false, substep := 0, pos := l.pos + 1 }
    if l.ccyc + 1 < l.hdr.ii then ({ l with ccyc := l.ccyc + 1 }, false) else (l, true)

def counters (s : State) : State :=
  s.lanes.foldl (fun s y =>
    let l := y.2.wake s.now
    let (l, wraps) := ({ l with still := standsStill s y.1 l } : Lane).advance s.now
    let s := s.setLane y.1 l
    if wraps then s.soon (.intervalWrap y.1) else s) s

/-! ## Phase 6: the memories and the engines (R311, R323) -/

/-- An access at its core's scratchpad banks: a request, or the head of a port's queue. -/
inductive Access
  | req (id : Nat)
  | head (row : Nat)
  deriving DecidableEq, Repr, Inhabited

/-- The accesses waiting at a core's banks, in the order they are served: arrival cycle, then priority. -/
def waiting (s : State) (core : Nat) : List (Nat × Nat × Nat × Access) :=
  let c := s.core core
  let reqs := (c.reqs.filter fun r =>
      r.arr ≤ s.now && !r.ready && !r.atomic && r.unit != 241 && r.pieces.any fun p => !p.done && inSpad s p).map fun (r : Req) =>
    (r.arr, r.prio, r.id, Access.req r.id)
  let heads := (List.range 8).filterMap fun row =>
    match (c.port row).queue with
    | e :: _ =>
      if e.arr ≤ s.now && (match e.sent with | some t => decide (t < s.now) | none => false) &&
          e.pieces.any (fun p => !p.done && inSpad s p) then some (e.arr, 1 + row, e.id, Access.head row) else none
    | [] => none
  (reqs ++ heads).mergeSort fun a b => a.1 < b.1 || (a.1 == b.1 && (a.2.1 < b.2.1 || (a.2.1 == b.2.1 && a.2.2.1 ≤ b.2.2.1)))

/-- A bank taken in this cycle, by which access and for which line. -/
abbrev Taken := List (Nat × Nat × Nat)

/-- The pieces of an access that its banks serve now, and the banks taken. -/
def grant (id : Nat) (ps : List Piece) (used : Taken) : List Piece × Taken :=
  ps.foldl (fun a p =>
    let b := p.pa / 64 % 32
    let line := p.pa / 64
    match a.2.find? fun x => x.1 == b with
    | none => (a.1 ++ [p], a.2 ++ [(b, id, line)])
    | some x => if x.2.1 = id && x.2.2 = line then (a.1 ++ [p], a.2) else a) ([], used)

def samePiece (p q : Piece) : Bool := p.pa == q.pa && p.lane == q.lane && p.plane == q.plane

/-- One access is served as far as its banks are free. -/
def serveAccess (core : Nat) (a : State × Taken) (x : Nat × Nat × Nat × Access) : State × Taken :=
  let s := a.1
  match x.2.2.2 with
  | .head row =>
    match ((s.core core).port row).queue with
    | e :: _ =>
      let (ps, used) := grant e.id (e.pieces.filter fun p => !p.done && inSpad s p) a.2
      (if ps.isEmpty then s else performHead s core row (fun p => ps.any (samePiece p)), used)
    | [] => a
  | .req id =>
    match (s.core core).reqs.find? fun r => r.id == id with
    | none => a
    | some r =>
      let ready := r.pieces.filter fun p =>
        !p.done && inSpad s p && !(!r.store && pieceWaits s core r p)
      let (ps, used) := grant r.id ready a.2
      if ps.isEmpty then (s, used)
      else if r.store then
        let s := s.performPieces ps
        let left := r.pieces.map fun (p : Piece) => if ps.any (samePiece p) then { p with done := true } else p
        let fin := left.all (·.done)
        let s := s.modCore core fun c =>
          { c with reqs :=
              if fin && r.unit = 240 then c.reqs.filter fun y => y.id != id
              else c.reqs.map fun (y : Req) =>
                if y.id = id then { y with pieces := left, ready := fin, readyAt := max y.readyAt (s.now + 3) } else y }
        (s, used)
      else (serveReq s core r (fun p => ps.any (samePiece p)) (if r.unit = 255 then s.now + 3 else s.now), used)

/-- R310, R311: a write that comes to the head of its queue in this cycle, and arrived before, is served in it where its
bank is free. -/
def nextHeads (core : Nat) : Nat → State × Taken → State × Taken
  | 0, a => a
  | n + 1, a =>
    let fresh (row : Nat) : Bool := match ((a.1.core core).port row).queue with
      | e :: _ => e.sent == some a.1.now && decide (e.arr ≤ a.1.now) && e.pieces.any fun p => !p.done && inSpad a.1 p
      | [] => false
    match (List.range 8).filter fresh with
    | [] => a
    | rows => nextHeads core n (rows.foldl (fun a row => serveAccess core a (0, 0, 0, .head row)) a)

/-- R311, R323: one cycle of a core's scratchpad and engines. -/
def coreCycle (s : State) (core : Nat) : State :=
  let c := s.core core
  let desc := (c.reqs.filter fun r => r.unit == 241 && r.arr ≤ s.now)
  let used0 : Taken := desc.flatMap fun r => [(r.size % 32, r.id, 0), ((r.size + 1) % 32, r.id, 0)]
  let s := if desc.isEmpty && c.taken.isEmpty then s
    else s.modCore core fun c => { c with taken := [], reqs := c.reqs.filter fun (r : Req) => !(r.unit == 241 && decide (r.arr ≤ s.now)) }
  -- an access of the copy engine or a sequencer that arrives in this cycle comes after the Felt's
  let all := waiting s core
  let (last_, first_) := all.partition fun x => x.1 == s.now && decide (11 ≤ x.2.1)
  let (s, used) := first_.foldl (serveAccess core) (s, used0)
  let s := feltCycle s core (used.map (·.1))
  let taken := ((s.core core).taken).map fun b => (b, 0, 0)
  copyCycle (nextHeads core 16 (last_.foldl (serveAccess core) (s, used ++ taken))).1 core

/-- R354: arrivals whose earlier accesses have performed land. -/
def landArrivals (s : State) (core : Nat) : State :=
  let c := s.core core
  (c.arrivals.filter fun a => !outstandingBefore s a.lane (c.bar a.bar).scope a.id).foldl
    (fun s a => s.soon (.barrierArrivalLand core a.id)) s

/-- R137, R315: a tick is over: the slots of its links and DRAM channels have been given out. -/
def slotsEnd (s : State) : State :=
  if s.now % 120 = 0 && s.crown.mapped && s.tick != 0 then (s.linkSlots (s.tick - 1)).dramSlotsEnd (s.tick - 1) else s

def memories (s : State) : State :=
  let s := wakeLoads (slotsEnd s)
  s.cores.foldl (fun s y => if (s.die (y.1 / 16)).power = .run then landArrivals (coreCycle s y.1) y.1 else s) s

/-! ## Phases 7 and 8: landings, and the ends of regions (R184, R187, R190) -/

/-- A lane has a result to land. -/
def landsNow (s : State) (lane : Nat) : Bool := !(landingNow s lane).isEmpty

def landings (s : State) : State :=
  s.lanes.foldl (fun s y => if landsNow s y.1 then s.soon (.resultLand y.1) else s) s

def regionEnds (s : State) : State :=
  s.lanes.foldl (fun s y =>
    if y.2.run && y.2.ended && y.2.flights.isEmpty && !y.2.faultHold && !y.2.away then s.soon (.regionEnd y.1) else s) s

/-! ## Phase 9: holds and firings (R182, R183) -/

/-- The sources an element entry reads (R60, R186). -/
def sourcesOf : Instr → List Src
  | .add o | .sub o | .adds o | .subs o | .min o | .max o | .avg o | .mul o | .mulh o | .and o | .or o | .xor o | .andn o
  | .shl o | .shr o | .sha o | .rot o | .sel o => [o.a, o.b]
  | .neg o | .abs o | .not o | .clz o | .pop o | .brev o | .lsum o | .lmax o => [o.a]
  | .clamp o | .mad o | .sad o | .dot4 o | .bfx o | .bfi o => [o.a, o.b, o.c]
  | .cmp o => [o.a, o.b]
  | .test o => [o.a, o.b]
  | .mov o => [o.a]
  | .movk o => [o.a]
  | .tri5 o => [o.a]
  | .pack o => [o.a, o.b]
  | .unpk o => [o.a]
  | .fadd o | .fsub o | .fmul o | .fscl o | .scl o | .uscl o => [o.a, o.b]
  | .fma o | .fms o | .fnma o | .fdot2 o => [o.a, o.b, o.c]
  | .fmin o | .fmax o => [o.a, o.b]
  | .fabs o | .fneg o | .amax o => [o.a]
  | .fcmp o => [o.a, o.b]
  | .fclass o => [o.a]
  | .frnd o | .lsumf o | .fnExp2 o | .fnLog2 o | .fnRcp o | .fnRsq o | .fnSin o | .fnTanh o | .fnSig o | .fnGelu o => [o.a]
  | .cvt o => [o.a]
  | .cvtsr o => [o.a, o.c]
  | .quant o | .dequ o => [o.a]
  | .mxsc o => [o.a]
  | .bcast o | .lrot o | .dseed o | .dget o | .dput o => [o.a]
  | .shuf o => [o.a, o.b]
  | .drnLin o => [o.a, o.b, o.c]
  | _ => []

/-- The meaning of an entry, tried without adopting it. -/
def tryFire (s : State) (lane unit idx : Nat) (i : Instr) : Option State :=
  match exec i { s with cur := { lane, unit, idx } } with
  | .next t => some t
  | _ => none

/-- R157: an elastic entry that would meet an invalid page does not fire: its request is posted, and its region holds. -/
def suspends (s : State) (lane unit idx : Nat) (i : Instr) : Option State :=
  if s.isFirm lane || unit < 64 then none
  else
    match tryFire s lane unit idx i with
    | some t =>
      let l := s.lane lane
      let m := t.lane lane
      if (t.agenda.drop s.agenda.length).any (fun x => x == .event (.elasticStop lane .page)) || (m.stop == .due .page && l.stop != m.stop) then
        some { s with nq := t.nq, agenda := t.agenda, lanes := (s.setLane lane { l with suspVa := m.suspVa, stop := m.stop }).lanes }
      else none
    | none => none

/-- The addresses a port entry translates at offset `off` of its face, for the lanes `on`: its lanes', and its dirty
map's (R302, R305). -/
def entryVas (s : State) (lane row : Nat) (o : OpPort) (indexed write : Bool) (x : Bnd) (off : Int) (on : List Nat) : List Nat :=
  let l := s.lane lane
  let e := (s.core (coreOf lane)).elem (uElem row 0)
  let face := accessFace s lane x (s.captured lane x.f) write
  let base := x.f.vaddr + planeOff x.f l.width face.1 0
  let sb : Nat := match s.attrAt lane (.port row) l.cwin x.b.hwin (vaOf base off) with
    | some a => (pairOf o.ty a).bytes o.ty
    | none => lWidth o.ty / 8
  let offs := on.map fun (j : Nat) => off + (if indexed then laneOfV 16 e.latch.bits (4 + j) else j) * (sb : Int)
  let maps := if x.f.mode = 1 && (write || x.b.dir = 2) then offs.map fun z => mapVa x.f l.width z.toNat else []
  ((offs.map (vaOf base)) ++ maps).eraseDups

/-- The addresses a port entry that stands at its stamp will translate. -/
def portVas (s : State) (lane unit : Nat) (o : OpPort) (indexed write : Bool) : List Nat × Option Bnd :=
  let s := { s with cur := { lane, unit, idx := 0 } }
  let row := unit - 64
  let g := guardOf o.h (portElem s)
  if nullified g (portLanes o) then ([], none)
  else
    match genTake (s.myCore.gen ((s.lane lane).org.1 + o.agen)), s.portBnd lane row o.bsel with
    | some (off, _), some x => (entryVas s lane row o indexed write x off ((List.range (portLanes o)).filter (guardBit g)), some x)
    | _, _ => ([], none)

/-! ### Lookahead (R152) -/

/-- The port entries of a lane that take from a generator, in the order they issue from now on: their row and operands,
and whether they write. An indexed entry's addresses are not known ahead. -/
def genUsers (s : State) (lane gen : Nat) : List (Nat × OpPort × Bool) :=
  let c := s.core (coreOf lane)
  let l := s.lane lane
  let of_ (row w : Nat) : Option (Nat × Nat × OpPort × Bool) :=
    let use (o : OpPort) (wr : Bool) : Option (Nat × Nat × OpPort × Bool) := if l.org.1 + o.agen = gen then some (fld w 52 12, row, o, wr) else none
    match decodePort w with
    | .ok (.ld o) => use o false
    | .ok (.st o) => use o true
    | .ok i => (portOp i).bind fun o => use o true
    | .error _ => none
  let all := ((List.range 8).filter fun r => c.ownedBy (uPort r) (slotOf lane)).flatMap fun r => (c.list (uPort r) l.act).filterMap (of_ r)
  let sorted := all.mergeSort fun a b => a.1 ≤ b.1
  let later (y : Nat × Nat × OpPort × Bool) : Bool := l.ccyc < y.1 || (l.ccyc == y.1 && !l.fired)
  (sorted.filter later ++ sorted.filter (!later ·)).map (·.2)
where
  /-- The operands of an atomic or reduction. -/
  portOp : Instr → Option OpPort
    | .aadd o | .amin o | .atomicMax o | .aand o | .aor o | .axor o | .axch o | .acas o | .radd o | .rmin o | .rmax o => some o
    | _ => none

/-- The page an address lies in, as far as a port's lookahead tells pages apart: the leaf's base, by the die's view. -/
def pageOf (s : State) (lane row va : Nat) : Nat :=
  match s.tlbSearch lane (.port row) (s.workOf lane) va false with
  | .hit _ e => e.va
  | .miss => match s.walk (s.workOf lane) va with | .leaf _ base _ _ => base | _ => va / 4096 * 4096

/-- One address that the lookahead emits meets its page: it is held from when its translation is there. -/
def meetPage (s : State) (lane row gen take : Nat) (x : Bnd) (write : Bool) (va : Nat) : State :=
  let core := coreOf lane
  let keep (s : State) (ready : Nat) : State :=
    s.modCore core fun c => let p := c.port row; c.setPort row { p with ahead := p.ahead ++ [{ gen, take, va, ready }] }
  match ((s.core core).port row).ahead.find? fun a => pageOf s lane row a.va == pageOf s lane row va with
  | some a => keep s a.ready
  | none =>
    match s.probe lane (.port row) (s.lane lane).cwin x.b.hwin va write with
    | some n => keep s (s.now + n)
    | none =>
      let (k, s) := s.free
      let t := s.now + 31 + Config.walkDelay k
      (keep s t).post t (.pageWalk (s.workOf lane) va write)

/-- R152: one cycle of a generator's lookahead: at most one address, at most 64 ahead of issue, none while 8 distinct pages
are held for addresses not yet issued. It runs from the first take of a sequence to its end (log 5). -/
def lookahead (s : State) (lane gen : Nat) : State :=
  let core := coreOf lane
  let g := (s.core core).gen gen
  let n := g.seen - g.taken
  let users := genUsers s lane gen
  if g.st != .run || 64 ≤ n || users.isEmpty then s
  else
    match genAfter n g, users[n % users.length]? with
    | some g', some (row, o, write) =>
      match s.portBnd lane row o.bsel with
      | none => s
      | some x =>
        let paged (va : Nat) : Bool := x.b.hwin == 0xFF && !(s.lane lane).cwin.any fun w => winHit w va
        let s := s.modCore core fun c => let p := c.port row
          c.setPort row { p with ahead := p.ahead.filter fun a => a.gen != gen || decide (g.taken ≤ a.take) }
        let held := ((((s.core core).port row).ahead).map fun a => pageOf s lane row a.va).eraseDups
        if 8 ≤ held.length then s
        else
          let vas := (entryVas s lane row o false write x (genOffset g') (List.range (portLanes o))).filter paged
          let s := vas.foldl (fun s va => meetPage s lane row gen g.seen x write va) s
          s.modCore core fun c => c.setGen gen { c.gen gen with seen := g.seen + 1 }
    | _, _ => s

/-- The lookaheads of a lane's generators. -/
def lookaheads (s : State) (lane : Nat) : State :=
  let l := s.lane lane
  if !l.run || l.away || l.ended || (s.die (dieOf lane)).power != .run then s
  else ((List.range 8).filter (s.servesGen lane)).foldl (fun s r => lookahead s lane r) s

/-- R151, R152: one address of a port: its translation is there, or it is awaited; the state, and whether it holds. -/
def awaitVa (s : State) (lane unit : Nat) (x : Bnd) (write : Bool) (va : Nat) : State × Bool :=
  let row := unit - 64
  let l := s.lane lane
  let take (s : State) : State × Bool :=
    match s.translate lane (.port row) l.cwin x.b.hwin va 1 (if write then .write else .read) (hostOk x) with
    | (s, .absent v) => (suspendPage s lane row v, true)
    | (s, .ok _ _ _ _ _) => (s, false)
    | (_, .fault _ _) => (s, false)
  match s.probe lane (.port row) l.cwin x.b.hwin va write with
  | some 0 => (s, false)
  | need =>
    match l.xl.find? fun y => y.1 == unit with
    | some (_, v, t) =>
      if v = va then
        if s.now < t then (s, true)
        else take (s.setLane lane { l with xl := tblDel l.xl unit })
      else (s.setLane lane { l with xl := tblDel l.xl unit }, true)
    | none =>
      match ((s.core (coreOf lane)).port row).ahead.find? fun a => pageOf s lane row a.va == pageOf s lane row va with
      | some a => if s.now < a.ready then (s, true) else take s
      | none =>
        match need with
        | some n => (s.modLane lane fun l => { l with xl := tblPut l.xl unit (va, s.now + n) }, true)
        | none =>
          let (k, s) := s.free
          let t := s.now + 31 + Config.walkDelay k
          ((s.modLane lane fun l => { l with xl := tblPut l.xl unit (va, t) }).post t (.pageWalk (s.workOf lane) va write), true)

/-- R152: the region holds while an address of a port entry is being translated. -/
def awaitVas (s : State) (lane unit : Nat) (o : OpPort) (indexed write : Bool) : State × Bool :=
  match portVas s lane unit o indexed write with
  | (vas, some x) => vas.foldl (fun a va => if a.2 then a else awaitVa a.1 lane unit x write va) (s, false)
  | _ => (s, false)

/-- A float `radd` takes no queue entry (R310). -/
def takesEntry : Instr → Bool
  | .radd o => o.ty.isInt
  | _ => true

/-- R310: a write that takes a queue entry finds no room; one that is nullified takes none, and awaits room where its HOLD
bit asks for it (R188). -/
def queueFull (s : State) (lane unit idx : Nat) (i : Instr) (o : OpPort) : Bool :=
  let len (s : State) : Nat := ((s.core (coreOf lane)).port (unit - 64)).queue.length
  (o.h.hold && takesEntry i && decide (16 ≤ len s)) ||
    match tryFire s lane unit idx i with
    | some t => decide (16 < len t)
    | none => false

/-- A port entry: its addresses, then queue room for a write. -/
def portHold (s : State) (lane unit idx : Nat) (i : Instr) (o : OpPort) (indexed write : Bool) : State × Bool :=
  let (s, w) := awaitVas s lane unit o indexed write
  if w then (s, true)
  else (s, write && queueFull s lane unit idx i o)

/-- R274, check (c): a row step with HOLD awaits a fill. -/
def rowHold (s : State) (lane idx : Nat) (o : OpRow) (sparse : Bool) : Bool :=
  let c := s.core (coreOf lane)
  let l := s.lane lane
  let inst := currentInst c l.act idx lane
  let rep0 := match o.repq with | some q => decide ((l.getQ q).toNat = 0) | none => false
  let j := match inst with | some r => r.j | none => 0
  let x := rowSlots c (slotLimit l.width) o sparse j
  o.hold && !(inst.isNone && rep0) && !(j == 0 && (o.afmt.isNone || o.bfmt.isNone) && rowReserved o sparse x.fa x.fb) &&
    (x.a ++ x.b).all (slotHeld c) && rowFilling c x

/-- A barrier entry whose arrival faulted where it stood (R354). -/
def barFaulted (r : ArrRec) : Bool := r.arrived && r.stood.isNone

/-- R354: a `bar.aw` where it stands: it arrives once, and then waits. -/
def awHold (s : State) (lane unit idx : Nat) (o : OpN) : State × Bool :=
  let s := if (s.lane lane).refire && barFaulted (recOf s lane unit o.n) then barClear s lane unit o.n else s
  let r := recOf s lane unit o.n
  if nullified (guardOf o.h ((s.core (coreOf lane)).elem unit)) 1 || barFaulted r then (s, false)
  else if !r.arrived && !barOwned s lane o.n then
    (putRec (awArrive s lane unit idx o.n) lane unit o.n { r with arrived := true, stood := none }, false)
  else
    let s := barStand (awArrive s lane unit idx o.n) lane unit o.n
    (s, !barMet s lane unit o.n)

/-- The hold condition of one entry at its stamp (R182). -/
def entryHold (s : State) (lane unit idx : Nat) (i : Instr) : State × Bool :=
  let core := coreOf lane
  let c := s.core core
  let off (h : Hdr) : Bool := nullified (guardOf h (c.elem unit)) 1
  match i with
  | .tokw o => (s, o.h.hold && tblGet 0 (c.elem unit).tokens o.n == 0)
  | .barWait o =>
    let s := barStand s lane unit o.n
    (s, o.h.hold && !off o.h && !barMet s lane unit o.n)
  | .barAw o => awHold s lane unit idx o
  | .fence o => (s, o.h.hold && !off o.h && fenceWaits s lane o.scope.code s.nextId false)
  | .fenceSc o => (s, o.h.hold && !off o.h && fenceWaits s lane o.scope.code s.nextId true)
  | .ld o => portHold s lane unit idx i o false false
  | .ldg o => portHold s lane unit idx i o true false
  | .st o => portHold s lane unit idx i o false true
  | .stg o => portHold s lane unit idx i o true true
  | .aadd o | .amin o | .atomicMax o | .aand o | .aor o | .axor o | .axch o | .acas o | .radd o | .rmin o | .rmax o =>
    portHold s lane unit idx i o false true
  | .mm o => (s, rowHold s lane idx o false)
  | .mms o => (s, rowHold s lane idx o true)
  | .copy _ | .copyc _ | .fill _ _ | .prefetch _ | .wld _ =>
    (s, decide (8 ≤ (c.copies.filter fun x => x.st != .faulted).length))
  | .drain _ mem => (s, drainWaits s core mem)
  | .fldt h ctx _ _ _ _ => (s, h.hold && (c.felt.ctx ctx == .loading))
  | .feval h _ _ => (s, h.hold && (match c.felt.active with | some a => c.felt.ctx a == .loading | none => false))
  | _ =>
    (s, unit < 64 && (entryHdrHold i) && awaitsEdge c (slotOf lane) unit (sourcesOf i))
where
  /-- The HOLD bit of an element entry that may read an edge. -/
  entryHdrHold : Instr → Bool
    | .add o | .sub o | .adds o | .subs o | .min o | .max o | .avg o | .mul o | .mulh o | .and o | .or o | .xor o | .andn o
    | .shl o | .shr o | .sha o | .rot o | .sel o => o.h.hold
    | .neg o | .abs o | .not o | .clz o | .pop o | .brev o | .lsum o | .lmax o => o.h.hold
    | .clamp o | .mad o | .sad o | .dot4 o | .bfx o | .bfi o => o.h.hold
    | .cmp o => o.h.hold
    | .test o => o.h.hold
    | .mov o => o.h.hold
    | .movk o => o.h.hold
    | .tri5 o => o.h.hold
    | .pack o => o.h.hold
    | .unpk o => o.h.hold
    | .fadd o | .fsub o | .fmul o | .fscl o | .scl o | .uscl o => o.h.hold
    | .fma o | .fms o | .fnma o | .fdot2 o => o.h.hold
    | .fmin o | .fmax o => o.h.hold
    | .fabs o | .fneg o | .amax o => o.h.hold
    | .fcmp o => o.h.hold
    | .fclass o => o.h.hold
    | .frnd o | .lsumf o | .fnExp2 o | .fnLog2 o | .fnRcp o | .fnRsq o | .fnSin o | .fnTanh o | .fnSig o | .fnGelu o => o.h.hold
    | .cvt o => o.h.hold
    | .cvtsr o => o.h.hold
    | .quant o | .dequ o => o.h.hold
    | .mxsc o => o.h.hold
    | .bcast o | .lrot o | .dseed o | .dget o | .dput o => o.h.hold
    | .shuf o => o.h.hold
    | .drnLin o => o.h.hold
    | _ => false

/-- The instruction of entry `idx` of a unit's list in the active bank. -/
def decodeAt (s : State) (lane unit idx : Nat) : Option (Nat × Option Instr) :=
  let read (x : Dec Instr) : Option Instr := match x with | .ok i => some i | .error _ => none
  (((s.core (coreOf lane)).list unit (s.lane lane).act)[idx]?).map fun w =>
    (w, read (if unit < 64 then decodeElement w else if unit < 72 then decodePort w else if unit < 80 then decodeGen w
      else decodeEngine (unit - 80) w))

/-- The entries of a lane's units at its counter cycle, units in ascending order. -/
def standing (s : State) (lane : Nat) : List (Nat × Nat) :=
  let c := s.core (coreOf lane)
  let l := s.lane lane
  (List.range 84).flatMap fun u =>
    if c.ownedBy u (slotOf lane) then
      let es := c.list u l.act
      ((List.range es.length).filter fun k => fld ((es[k]?).getD 0) 52 12 == l.ccyc).map fun k => (u, k)
    else []

/-- R334, R381: the faces that a region's entries use from counter cycle 0 of its frame on. -/
def captureFaces (s : State) (lane : Nat) : State :=
  let bs := (s.bnds lane).filter fun x => x.f.mode != 2
  let l := s.lane lane
  let seen (x : Bnd) : Capture :=
    { face := s.face (dieOf lane) (s.workOf lane) x.f.id, pstat := s.pstat (dieOf lane) (s.workOf lane) x.f.id }
  let s := s.setLane lane { l with capNew := false, caps := bs.foldl (fun t x => tblPut t x.f.id (seen x)) [] }
  let c := s.core (coreOf lane)
  let imgs := (List.range 84).filterMap fun (u : Nat) => if c.ownedBy u (slotOf lane) then c.srcOf u l.act else none
  (bs.filter fun x => x.b.img == l.hdr.img || imgs.contains x.b.img || x.b.img == 0xFFFF).foldl (fun s x => noteFb s lane x) s

/-- What holds a region apart from its entries: the frame wire, a stop that is due to a page or an image, results that
are late, blocked writes, and tangent passes. -/
def regionHold (s : State) (lane : Nat) : Bool :=
  let l := s.lane lane
  l.awaitFrame || l.flights.any (fun f => decide (f.due ≤ l.pos)) || l.mxHold != 0 ||
    (match l.stop with | .due .page | .due .image => true | _ => false) ||
    (s.core (coreOf lane)).ports.any fun y => y.2.queue.any fun e => e.lane == lane && e.pieces.any (·.wblk)

/-- A held or frozen cycle is counted; a stopped region is held (R182, R383, R400). -/
def countHeld (s : State) (lane : Nat) : State :=
  s.modLane lane fun l =>
    { l with rel := l.rel.map fun r => { r with held := r.held + 1 }, mxHold := if l.still then l.mxHold else l.mxHold - 1 }

/-- A held or frozen cycle also adds to the pages whose replies the region awaits (R160). -/
def heldCycle (s : State) (lane : Nat) : State :=
  let s := countHeld s lane
  let c := s.core (coreOf lane)
  ((List.range 8).filter fun r => c.ownedBy (uPort r) (slotOf lane)).foldl (fun s r => heatPort s (coreOf lane) r) s

/-- One entry's part of a hold: its condition, and an invalid page it would meet. -/
def holdOne (lane : Nat) (a : State × Bool) (x : Nat × Nat) : State × Bool :=
  match decodeAt a.1 lane x.1 x.2 with
  | some (_, some i) =>
    let (s, w) := entryHold a.1 lane x.1 x.2 i
    if w then (s, true)
    else match suspends s lane x.1 x.2 i with
      | some t => (t, true)
      | none => (s, a.2)
  | _ => a

/-- R182: a lane's counter cycle: held, or every entry at it fires. -/
def fireLane (s : State) (lane : Nat) : State :=
  let l := s.lane lane
  if !l.run || s.now < l.startAt then s
  else if l.still then (if l.away then countHeld s lane else heldCycle s lane)
  else if l.fired && !l.refire then s
  else
    let s := if l.capNew && !l.awaitFrame && !l.ended then captureFaces s lane else s
    if regionHold s lane then heldCycle s lane
    else
      let due := if l.refire then (l.retry.filter fun r => r.1 != 255 && r.2.2 ≤ s.tick).map fun r => (r.1, r.2.1)
        else if l.ended then [] else standing s lane
      let (s, held) := due.foldl (holdOne lane) (s, false)
      if held then heldCycle s lane
      else
        let s := s.modLane lane fun l =>
          { l with fired := true, substep := 0, refire := false, nudge := false,
                   retry := if l.refire then l.retry.filter fun r => !(r.1 != 255 && decide (r.2.2 ≤ s.tick)) else l.retry }
        { s with agenda := s.agenda ++ due.map fun x => Todo.fire lane x.1 x.2 }

def firings (s : State) : State := s.lanes.foldl (fun s y => lookaheads (fireLane s y.1) y.1) s

/-! ## Phase 10: own cycles of the step contexts (R173, R178) -/

/-- A context may act in this cycle. -/
def mayStep (s : State) (lane : Nat) (l : Lane) : Bool :=
  slotOf lane == s.now % 4 && l.goAt ≤ s.now && !l.halted && !l.away && (s.die (dieOf lane)).power == .run

def sequencers (s : State) : State :=
  s.lanes.foldl (fun s y =>
    if mayStep s y.1 y.2 then
      match y.2.seq with
      | .run | .wait _ => { s with agenda := s.agenda ++ [.issue y.1] }
      | .skip left last_ =>
        s.modLane y.1 fun l => if left ≤ 1 then l.testEnd last_ else { l with seq := .skip (left - 1) last_ }
      | _ => s
    else s) s

/-! ## The phases in order, and the items of an agenda -/

/-- The agenda is empty: the next phase of the cycle. -/
def nextPhase (s : State) : State :=
  match s.phase with
  | 0 => { beginCycle s with phase := 1 }
  | 1 => { onTick (fun s => tickEnds (landTrains s)) s with phase := 2 }
  | 2 => { onTick tickPoint s with phase := 3 }
  | 3 => { onTick tickStarts s with phase := 4 }
  | 4 => { onTick tickSlack s with phase := 5 }
  | 5 => { counters s with phase := 6 }
  | 6 => { memories s with phase := 7 }
  | 7 => { landings s with phase := 8 }
  | 8 => { regionEnds s with phase := 9 }
  | 9 => { firings s with phase := 10 }
  | _ => { sequencers s with phase := 0 }

/-- A step pointer's step: past the last one it acts as `retire` (R174). -/
def issueStep (s : State) (lane : Nat) : Res :=
  let l := s.lane lane
  let s := { s with cur := { lane, unit := 255, idx := l.sp } }
  match l.prog[l.sp]? with
  | none => exec .retire s
  | some w =>
    match decodeStep w with
    | .ok i => exec i s
    | .error _ => .fault (.undecodable 255 w)

/-- An entry of a timed list fires. -/
def fireEntry (s : State) (lane unit idx : Nat) : Res :=
  match decodeAt s lane unit idx with
  | none => .next s
  | some (w, none) => .fault (.undecodable unit w)
  | some (_, some i) => exec i { s with cur := { lane, unit, idx } }

/-- One item of the agenda. -/
def runTodo (s : State) : Todo → Res
  | .issue lane => issueStep s lane
  | .fire lane unit idx => fireEntry s lane unit idx
  | .event i => exec i s

/-! ## Placing an instruction to run next -/

/-- A step in place of the step at lane 0's step pointer, to issue next. -/
def placeStep (s : State) (w : Nat) : State :=
  let l := s.lane 0
  let prog := (l.prog ++ List.replicate (l.sp + 1 - l.prog.length) 0).set l.sp (leNat (leBytes 4 w))
  { s.setLane 0 { l with prog } with agenda := [.issue 0] }

/-- An entry alone in the active-bank list of a unit of core 0, to fire next for lane 0. -/
def placeEntry (s : State) (unit w : Nat) : State :=
  let act := (s.lane 0).act
  { s.modCore 0 (fun c => c.setList unit act [w]) with agenda := [.fire 0 unit 0] }

/-- The unit whose decoder reads a 64-bit word: an element, a port or a generator. -/
def unitFor (v : Nat) : Nat :=
  match decodeElement v with
  | .ok _ => 0
  | .error _ => match decodePort v with | .ok _ => 64 | .error _ => 72

/-- The instruction stored where it runs next. -/
def placeWord (s : State) (nbits w : Nat) : State :=
  if nbits ≤ 32 then placeStep s w
  else if nbits ≤ 64 then placeEntry s (unitFor (leNat (leBytes 8 w))) (leNat (leBytes 8 w))
  else let v := leNat (leBytes 16 w); placeEntry s (80 + fld v 43 4 % 4) v

end Sys2Proof.Machine
end

