-- ==== Sys2Proof/Machine/Step.lean ====
section
/-! DEFINITION. One step of the machine: the next thing on the agenda of the current cycle, or, when nothing is left on
it, the next phase of the cycle. -/

namespace Sys2Proof.Machine

def step (s : State) : Host.Outcome State Fault Refusal :=
  match s.agenda with
  | [] => .next (nextPhase s)
  | t :: r => runTodo { s with agenda := r } t

/-- The instruction stored in a program store or timed list, and the agenda set to run it: a step at lane 0's step
pointer, an entry in the active bank of a unit of core 0. -/
def State.withFetchWord (s : State) (nbits w : Nat) : State := placeWord s nbits w

end Sys2Proof.Machine
end

