-- ==== Sys2Proof/Certificates/Slice0/Obligations.lean ====
section
/-! DEFINITION. The statements for the provers, and the words they are written in. -/

open Sys2Proof Sys2Proof.Machine

namespace Sys2Proof.Slice0

/-! ## Words of the statements -/

/-- The lane and the core of the instruction under way. -/
abbrev lane0 (s : State) : Nat := s.cur.lane
abbrev core0 (s : State) : Nat := coreOf s.cur.lane

/-- The number a lane holds under an integer type (R191): two's complement for the i types. -/
def valOf (t : ITy) (x : Nat) : Int := if t.signed then (BitVec.ofNat t.width x).toInt else (BitVec.ofNat t.width x).toNat

/-- The lane bits of a number, kept modulo 2^w (R191). -/
def wrapTo (w : Nat) (v : Int) : Nat := (BitVec.ofInt w v).toNat

/-- Some lane of the entry executes (R59, R188): the guard holds for a lane below the lane count. -/
def SomeLane (s : State) (h : Hdr) (n : Nat) : Prop := ∃ j, j < n ∧ guardBit (s.myGuard h) j = true

/-- No lane of the entry executes. -/
def NoLane (s : State) (h : Hdr) (n : Nat) : Prop := ∀ j, j < n → guardBit (s.myGuard h) j = false

/-- The values read agree with the tag the entry expects (R65). -/
def TagsAgree (t : TagExp) (vs : List Val) : Prop :=
  (t = .unscaled → ∀ v ∈ vs, v.scaled = false) ∧ (t = .scaled → ∀ v ∈ vs, v.scaled = true)

/-- An entry's source names the edge latch in direction `dir`. -/
def Names (srcs : List Src) (dir : Nat) : Prop := ∃ a ∈ srcs, Src.dir a = some dir

/-- What an entry that only sends results and clears FRESH bits leaves unchanged. Everything outside the lane under
way and its core stays; in the lane only the results in flight change; in the core no element, memory, accumulator,
barrier, timed list or owner changes; an edge latch keeps its value, and its FRESH bit falls only where an entry with
HOLD = 1 names it (R183). -/
structure OnlySends (s t : State) (h : Hdr) (srcs : List Src) : Prop where
  rest : t = { s with lanes := t.lanes, cores := t.cores, nextId := t.nextId }
  bytes : ∀ a, memGet t.mem a = memGet s.mem a
  lanes : ∀ l, l ≠ lane0 s → t.lane l = s.lane l
  own : t.lane (lane0 s) = { s.lane (lane0 s) with flights := (t.lane (lane0 s)).flights }
  cores : ∀ c, c ≠ core0 s → t.core c = s.core c
  core : t.core (core0 s) = { s.core (core0 s) with
    north := (t.core (core0 s)).north, south := (t.core (core0 s)).south, gens := (t.core (core0 s)).gens, ports := (t.core (core0 s)).ports }
  gens : ∀ r, (t.core (core0 s)).gen r = { (s.core (core0 s)).gen r with latch := ((t.core (core0 s)).gen r).latch }
  ports : ∀ r, (t.core (core0 s)).port r = { (s.core (core0 s)).port r with latch := ((t.core (core0 s)).port r).latch }
  edges : ∀ u dir, (edgeLatch (t.core (core0 s)) u dir).val = (edgeLatch (s.core (core0 s)) u dir).val
  stays : ∀ dir, dir < 4 → (h.hold = false ∨ ¬ Names srcs dir ∨ edgeUnit (s.core (core0 s)) (slotOf (lane0 s)) s.cur.unit dir = false) →
    edgeLatch (t.core (core0 s)) s.cur.unit dir = edgeLatch (s.core (core0 s)) s.cur.unit dir
  falls : ∀ dir, dir < 4 → h.hold = true → Names srcs dir →
    edgeUnit (s.core (core0 s)) (slotOf (lane0 s)) s.cur.unit dir = true →
    (edgeLatch (t.core (core0 s)) s.cur.unit dir).fresh = false

/-- One result more is in flight: due `lat` counter cycles on (R184, R187), raising these flags when it lands. -/
def Sends (s t : State) (lat : Nat) (x : Land) (nf tf : Nat) : Prop :=
  ∃ f : Flight, (t.lane (lane0 s)).flights = (s.lane (lane0 s)).flights ++ [f] ∧ f.due = (s.lane (lane0 s)).pos + lat ∧
    f.land = x ∧ f.nflags = nf ∧ f.tflags = tf ∧ f.unit = s.cur.unit ∧ f.entry = s.cur.idx

/-- No result more is in flight. -/
def SendsNone (s t : State) : Prop := (t.lane (lane0 s)).flights = (s.lane (lane0 s)).flights

/-- A byte of flags is the union of what the executing lanes raise. -/
def UnionOf (s : State) (h : Hdr) (n : Nat) (nf : Nat) (raised : Nat → Nat) : Prop :=
  ∀ b, nf.testBit b = true ↔ ∃ j, j < n ∧ guardBit (s.myGuard h) j = true ∧ (raised j).testBit b = true

/-- The result an element entry sends to its destination (R62, R185 to R189): lanes of width `w`, those under `g`
written with `val`, in every plane of the drone width `plane`, with the tag given. -/
structure Result (s t : State) (lat w : Nat) (d : Dst) (g : Nat → Bool) (val : Nat → Nat) (tag : Bool)
    (plane : Nat → Nat → Nat) (nf tf : Nat) (x : Land) (mask bits : V128) (planes : List (Nat × V128)) : Prop where
  sent : Sends s t lat x nf tf
  land : x = .elem s.cur.unit (dstOf s.myLane.base d).1 (dstOf s.myLane.base d).2 mask (some bits) (some tag) planes
  masked : ∀ j, j < laneCount w → laneOfV w mask j = if g j then 2 ^ w - 1 else 0
  lanes : ∀ j, j < laneCount w → g j = true → laneOfV w bits j = val j
  which : planes.map Prod.fst = planeNums s.myLane.width
  tangents : ∀ p v, (p, v) ∈ planes → ∀ j, j < laneCount w → g j = true → laneOfV w v j = plane p j

/-- An element entry as the statements see it: the instruction, its header, type, destination, sources and tag
expectation, and its latency. -/
structure Entry1 where
  i : Instr
  h : Hdr
  ty : ITy
  d : Dst
  srcs : List Src
  tag : TagExp
  lat : Nat

def of1 (k : OpI1 → Instr) (o : OpI1) (lat : Nat) : Entry1 := ⟨k o, o.h, o.ty, o.d, [o.a], o.tag, lat⟩
def of2 (k : OpI2 → Instr) (o : OpI2) (lat : Nat) : Entry1 := ⟨k o, o.h, o.ty, o.d, [o.a, o.b], o.tag, lat⟩
def of3 (k : OpI3 → Instr) (o : OpI3) (lat : Nat) : Entry1 := ⟨k o, o.h, o.ty, o.d, [o.a, o.b, o.c], o.tag, lat⟩

/-- Lane `j` of the source numbered `k`. -/
def Entry1.arg (e : Entry1) (s : State) (k j : Nat) : Nat :=
  laneOfV e.ty.width (readI s e.ty (e.srcs.getD k .L)).bits j

/-- The same under the type's signedness. -/
def Entry1.num (e : Entry1) (s : State) (k j : Nat) : Int := valOf e.ty (e.arg s k j)

def Entry1.vals (e : Entry1) (s : State) : List Val := e.srcs.map (readI s e.ty)

/-- A tangent that some executing lane reads is not zero (R250), lane `j` reading the lanes `reads j`. -/
def Entry1.Cuts (e : Entry1) (s : State) (reads : Nat → Nat → Prop) : Prop :=
  ∃ j i, j < laneCount e.ty.width ∧ i < laneCount e.ty.width ∧ guardBit (s.myGuard e.h) j = true ∧ reads j i ∧
    ∃ v ∈ e.vals s, ∃ p ∈ planeNums s.myLane.width, laneOfV e.ty.width (v.plane p) i ≠ 0

/-- The entry runs (R191 to R196): with a lane to execute and its tags met, it sends one result whose executing lanes
are `val`, with the flags `raised`, zero tangents, and TCUT where a nonzero tangent is replaced. -/
def Entry1.Computes (e : Entry1) (s : State) (val raised : Nat → Nat) (reads : Nat → Nat → Prop) : Prop :=
  SomeLane s e.h (laneCount e.ty.width) → TagsAgree e.tag (e.vals s) →
    ∃ t nf tf x m b ps, exec e.i s = .next t ∧ OnlySends s t e.h e.srcs ∧
      Result s t e.lat e.ty.width e.d (guardBit (s.myGuard e.h)) val (decide (∃ v ∈ e.vals s, v.scaled = true))
        (fun _ _ => 0) nf tf x m b ps ∧
      UnionOf s e.h (laneCount e.ty.width) nf raised ∧
      (tf = tCUT ∧ e.Cuts s reads ∨ tf = 0 ∧ ¬ e.Cuts s reads)

/-- Each lane reads its own lane of the sources. -/
def own (j i : Nat) : Prop := i = j
/-- Each lane reads every lane. -/
def every (_ _ : Nat) : Prop := True
def noFlags (_ : Nat) : Nat := 0

end Sys2Proof.Slice0

open Sys2Proof.Slice0

/-! ## Class 00: integers -/

/-- R198, without saturation: each lane takes the exact result modulo 2^w; no flag is raised. -/
def Sys2Proof.Slice0.AdditiveLanes : Prop :=
  (∀ (s : State) (o : OpI2),
    (let e := of2 .add o 1; e.Computes s (fun j => wrapTo o.ty.width (e.num s 0 j + e.num s 1 j)) noFlags own) ∧
    (let e := of2 .sub o 1; e.Computes s (fun j => wrapTo o.ty.width (e.num s 0 j - e.num s 1 j)) noFlags own) ∧
    (let e := of2 .min o 1; e.Computes s (fun j => wrapTo o.ty.width (min (e.num s 0 j) (e.num s 1 j))) noFlags own) ∧
    (let e := of2 .max o 1; e.Computes s (fun j => wrapTo o.ty.width (max (e.num s 0 j) (e.num s 1 j))) noFlags own) ∧
    (let e := of2 .avg o 1
     e.Computes s (fun j => wrapTo o.ty.width (Int.fdiv (e.num s 0 j + e.num s 1 j + 1) 2)) noFlags own)) ∧
  (∀ (s : State) (o : OpI1),
    (let e := of1 .neg o 1; e.Computes s (fun j => wrapTo o.ty.width (-(e.num s 0 j))) noFlags own) ∧
    (let e := of1 .abs o 1; e.Computes s (fun j => wrapTo o.ty.width ((e.num s 0 j).natAbs : Int)) noFlags own)) ∧
  (∀ (s : State) (o : OpI3),
    let e := of3 .clamp o 1
    e.Computes s (fun j => wrapTo o.ty.width (min (max (e.num s 0 j) (e.num s 1 j)) (e.num s 2 j))) noFlags own)

/-- R198, saturating: a result outside the type's range becomes the nearest limit and raises SAT. -/
def Sys2Proof.Slice0.SaturatingLanes : Prop :=
  ∀ (s : State) (o : OpI2) (v : Nat → Int) (e : Entry1),
    ((e = of2 .adds o 1 ∧ ∀ j, v j = e.num s 0 j + e.num s 1 j) ∨ (e = of2 .subs o 1 ∧ ∀ j, v j = e.num s 0 j - e.num s 1 j)) →
    let lo : Int := if o.ty.signed then -(2 ^ (o.ty.width - 1)) else 0
    let hi : Int := if o.ty.signed then 2 ^ (o.ty.width - 1) - 1 else 2 ^ o.ty.width - 1
    e.Computes s (fun j => wrapTo o.ty.width (max lo (min hi (v j)))) (fun j => if v j < lo ∨ hi < v j then 0x20 else 0) own

/-- R198: sums, differences and the other one-cycle arithmetic of the lanes, wrapping and saturating. -/
def Obligations.LaneSums : Prop := Slice0.AdditiveLanes ∧ Slice0.SaturatingLanes

/-- R199, R200: products, sums of differences and four-term dot products, modulo 2^w, two counter cycles on. -/
def Obligations.ProductLanes : Prop :=
  (∀ (s : State) (o : OpI2),
    (let e := of2 .mul o 2; e.Computes s (fun j => wrapTo o.ty.width (e.num s 0 j * e.num s 1 j)) noFlags own) ∧
    (let e := of2 .mulh o 2
     e.Computes s (fun j => wrapTo o.ty.width (Int.fdiv (e.num s 0 j * e.num s 1 j) (2 ^ o.ty.width))) noFlags own)) ∧
  (∀ (s : State) (o : OpI3),
    (let e := of3 .mad o 2; e.Computes s (fun j => wrapTo o.ty.width (e.num s 0 j * e.num s 1 j + e.num s 2 j)) noFlags own) ∧
    (let e := of3 .sad o 2; e.Computes s (fun j => wrapTo o.ty.width (((e.num s 0 j - e.num s 1 j).natAbs : Int) + e.num s 2 j)) noFlags own) ∧
    (let e := of3 .dot4 o 2
     let byte (x k : Nat) : Int := let b := (BitVec.ofNat 32 x).extractLsb' (8 * k) 8; if o.ty.signed then b.toInt else b.toNat
     let part (k j : Nat) : Int := byte (e.arg s 0 j) k * byte (e.arg s 1 j) k
     o.ty.width = 32 →
     e.Computes s (fun j => wrapTo 32 (part 0 j + part 1 j + part 2 j + part 3 j + e.num s 2 j)) noFlags own))

/-- R201 to R203: logic, shifts by any count, and counts of bits. -/
def Sys2Proof.Slice0.BitLanes : Prop :=
  (∀ (s : State) (o : OpI2),
    let w := o.ty.width
    let a (j : Nat) : BitVec w := BitVec.ofNat w ((of2 .and o 1).arg s 0 j)
    let b (j : Nat) : BitVec w := BitVec.ofNat w ((of2 .and o 1).arg s 1 j)
    (of2 .and o 1).Computes s (fun j => (a j &&& b j).toNat) noFlags own ∧
    (of2 .or o 1).Computes s (fun j => (a j ||| b j).toNat) noFlags own ∧
    (of2 .xor o 1).Computes s (fun j => (a j ^^^ b j).toNat) noFlags own ∧
    (of2 .andn o 1).Computes s (fun j => (a j &&& ~~~(b j)).toNat) noFlags own ∧
    (of2 .shl o 1).Computes s (fun j => (a j <<< (b j).toNat).toNat) noFlags own ∧
    (of2 .shr o 1).Computes s (fun j => (a j >>> (b j).toNat).toNat) noFlags own ∧
    (of2 .sha o 1).Computes s (fun j => ((a j).sshiftRight (b j).toNat).toNat) noFlags own ∧
    (of2 .rot o 1).Computes s (fun j => ((a j).rotateLeft (b j).toNat).toNat) noFlags own) ∧
  (∀ (s : State) (o : OpI1),
    let w := o.ty.width
    let a (j : Nat) : BitVec w := BitVec.ofNat w ((of1 .not o 1).arg s 0 j)
    (of1 .not o 1).Computes s (fun j => (~~~(a j)).toNat) noFlags own ∧
    (of1 .brev o 1).Computes s (fun j => (a j).reverse.toNat) noFlags own ∧
    (∃ z : Nat → Nat, (of1 .clz o 1).Computes s z noFlags own ∧
      ∀ j, z j ≤ w ∧ (∀ i, i < z j → (a j).getMsbD i = false) ∧ (z j < w → (a j).getMsbD (z j) = true)) ∧
    (of1 .pop o 1).Computes s (fun j => ((List.range w).filter fun i => (a j).getLsbD i).length) noFlags own)

/-- R204: the field taken and the field put, bit by bit, clipped at the lane's top. -/
def Sys2Proof.Slice0.FieldLanes : Prop :=
  ∀ (s : State) (o : OpI3),
    let w := o.ty.width
    let e := of3 .bfx o 1
    (∃ r : Nat → Nat, e.Computes s r noFlags own ∧
      ∀ j, let pos := e.arg s 1 j; let len := min (e.arg s 2 j) (w - pos)
        ∀ i, i < w → (r j).testBit i =
          if len = 0 then false else if i < len then (e.arg s 0 j).testBit (pos + i)
          else o.ty.signed && (e.arg s 0 j).testBit (pos + len - 1)) ∧
    (∃ r : Nat → Nat, (of3 .bfi o 1).Computes s r noFlags own ∧
      ∀ j, let pos := e.arg s 2 j % 2 ^ (w / 2); let len := min (e.arg s 2 j / 2 ^ (w / 2)) (w - pos)
        ∀ i, i < w → (r j).testBit i =
          if pos ≤ i ∧ i < pos + len then (e.arg s 1 j).testBit (i - pos) else (e.arg s 0 j).testBit i)

/-- R201 to R204: logic, shifts, counts of bits and fields. -/
def Obligations.LaneLogic : Prop := Slice0.BitLanes ∧ Slice0.FieldLanes


namespace Sys2Proof.Slice0

/-- A predicate result (R205): bit `j` of predicate `p` is written where `w j`, with `v j`. -/
def SendsPred (s t : State) (p : Nat) (w v : Nat → Bool) : Prop :=
  ∃ mask bits : BitVec 16, Sends s t 1 (.pred s.cur.unit p mask bits) 0 0 ∧
    ∀ j, j < 16 → mask.getLsbD j = w j ∧ (w j = true → bits.getLsbD j = v j)

/-- A compare under the guard: guarded bits below the lane count, and zero above it (R205). -/
def Compares (i : Instr) (s : State) (h : Hdr) (n p : Nat) (srcs : List Src) (tag : TagExp) (vs : List Val) (c : Nat → Bool) : Prop :=
  SomeLane s h n → TagsAgree tag vs →
    ∃ t, exec i s = .next t ∧ OnlySends s t h srcs ∧
      SendsPred s t p (fun j => if j < n then guardBit (s.myGuard h) j else true) (fun j => decide (j < n) && c j)

/-- A relation of two numbers by its condition (R64). -/
def relHolds (c : Cond) (a b : Int) : Bool :=
  decide ((c = .eq ∧ a = b) ∨ (c = .ne ∧ a ≠ b) ∨ (c = .lt ∧ a < b) ∨ (c = .le ∧ a ≤ b) ∨ (c = .gt ∧ a > b) ∨ (c = .ge ∧ a ≥ b))

/-- An entry that moves whole lanes with their tangents and tag (R194): lane `j` of the destination is lane `k` of the
value where `f j = some k`, and 0 where it is none. -/
def Moves (i : Instr) (s : State) (h : Hdr) (w : Nat) (d : Dst) (srcs : List Src) (a : Val) (f : Nat → Option Nat) : Prop :=
  SomeLane s h (laneCount w) →
    ∃ t x m b ps, exec i s = .next t ∧ OnlySends s t h srcs ∧
      Result s t 1 w d (guardBit (s.myGuard h)) (fun j => ((f j).map (laneOfV w a.bits)).getD 0) a.scaled
        (fun p j => ((f j).map (laneOfV w (a.plane p))).getD 0) 0 0 x m b ps

/-- An entry without sources fills its guarded lanes, unscaled and with zero tangents. -/
def Fills (i : Instr) (s : State) (h : Hdr) (w : Nat) (d : Dst) (v : Nat → Nat) : Prop :=
  SomeLane s h (laneCount w) →
    ∃ t x m b ps, exec i s = .next t ∧ OnlySends s t h [] ∧
      Result s t 1 w d (guardBit (s.myGuard h)) v false (fun _ _ => 0) 0 0 x m b ps

/-- The entry is nullified: it sends nothing, and only the FRESH bits of the edges it names fall (R59, R183). -/
def DoesNothing (i : Instr) (s : State) (h : Hdr) (srcs : List Src) : Prop :=
  ∃ t, exec i s = .next t ∧ OnlySends s t h srcs ∧ SendsNone s t

end Sys2Proof.Slice0

/-- R205: `cmp` and `test` write the guarded bits of a predicate below the lane count, and zeros above it. -/
def Sys2Proof.Slice0.ComparePredicates : Prop :=
  (∀ (s : State) (o : OpCmp),
    let vs := [readI s o.ty o.a, readI s o.ty o.b]
    let num (k j : Nat) : Int := valOf o.ty (laneOfV o.ty.width (vs.getD k {}).bits j)
    Compares (.cmp o) s o.h (laneCount o.ty.width) o.p [o.a, o.b] o.tag vs fun j => relHolds o.cc (num 0 j) (num 1 j)) ∧
  (∀ (s : State) (o : OpTest),
    let vs := [readI s o.ty o.a, readI s o.ty o.b]
    Compares (.test o) s o.h (laneCount o.ty.width) o.p [o.a, o.b] o.tag vs fun j =>
      decide (∃ i, i < o.ty.width ∧ (laneOfV o.ty.width (vs.getD 0 {}).bits j).testBit i = true ∧
        (laneOfV o.ty.width (vs.getD 1 {}).bits j).testBit i = true))

/-- R206: the instructions on predicates work on all sixteen bits, each under its own guard bit; p7 reads as ones. -/
def Sys2Proof.Slice0.PredicateLogic : Prop :=
  ∀ (s : State) (h : Hdr) (p a b : Nat), (∃ j, j < 16 ∧ guardBit (s.myGuard h) j = true) →
    let bit (q j : Nat) : Bool := if q = 7 then true else (tblGet 0 s.myElem.preds q).getLsbD j
    let writes (i : Instr) (v : Nat → Bool) : Prop :=
      ∃ t, exec i s = .next t ∧ OnlySends s t h [] ∧ SendsPred s t p (guardBit (s.myGuard h)) v
    writes (.pand ⟨h, p, a, b⟩) (fun j => bit a j && bit b j) ∧
    writes (.por ⟨h, p, a, b⟩) (fun j => bit a j || bit b j) ∧
    writes (.pxor ⟨h, p, a, b⟩) (fun j => bit a j != bit b j) ∧
    writes (.pnot ⟨h, p, a⟩) (fun j => !bit a j) ∧
    writes (.pmov ⟨h, p, a⟩) (fun j => bit a j)

/-- R205, R206: compares, tests and the logic of predicates. -/
def Obligations.IntegerPredicates : Prop := Slice0.ComparePredicates ∧ Slice0.PredicateLogic

/-- R207: `sel` writes every lane, from A where the guard holds and from B where it does not, tangents with it; the
result is scaled when a lane taken is. It has no nullified form. -/
def Obligations.SelectLanes : Prop :=
  ∀ (s : State) (o : OpI2),
    let a := readI s o.ty o.a
    let b := readI s o.ty o.b
    let pick (j : Nat) : Val := if guardBit (s.myGuard o.h) j then a else b
    TagsAgree o.tag [a, b] →
    ∃ t x m v ps, exec (.sel o) s = .next t ∧ OnlySends s t o.h [o.a, o.b] ∧
      Result s t 1 o.ty.width o.d (fun _ => true) (fun j => laneOfV o.ty.width (pick j).bits j)
        (decide (∃ j, j < laneCount o.ty.width ∧ (pick j).scaled = true))
        (fun p j => laneOfV o.ty.width ((pick j).plane p) j) 0 0 x m v ps

/-- R208, R210 to R212: moves, immediates, indices, broadcasts, shuffles and rotations of lanes; an index beyond the
lanes gives 0. -/
def Sys2Proof.Slice0.MovedLanes : Prop :=
  (∀ (s : State) (o : OpMov),
    Moves (.mov o) s o.h o.ty.width o.d [o.a] (readI s o.ty o.a) some) ∧
  (∀ (s : State) (o : OpNum),
    Moves (.bcast o) s o.h o.ty.width o.d [o.a] (readI s o.ty o.a) (fun _ => some o.n) ∧
    Moves (.lrot o) s o.h o.ty.width o.d [o.a] (readI s o.ty o.a) (fun j => some ((j + o.n) % laneCount o.ty.width))) ∧
  (∀ (s : State) (o : OpShuf),
    Moves (.shuf o) s o.h o.ty.width o.d [o.a, o.b] (readI s o.ty o.a) (fun j =>
      let k := laneOfV o.ty.width (readI s o.ty o.b).bits j
      if k < laneCount o.ty.width then some k else none)) ∧
  (∀ (s : State) (o : OpLi), Fills (.li o) s o.h o.ty.width o.d fun _ => wrapTo o.ty.width o.imm) ∧
  (∀ (s : State) (o : OpD),
    Fills (.idx o) s o.h o.ty.width o.d fun j =>
      (((s.cur.unit / 8 - s.myLane.org.1) * s.myLane.hdr.cols + (s.cur.unit % 8 - s.myLane.org.2)) * laneCount o.ty.width + j) %
        2 ^ o.ty.width)

/-- R209: `movk` writes the guarded lanes of constant register k of the bank active when it fires, drops the tangents
with TDROP, and nothing else. -/
def Sys2Proof.Slice0.ConstantWrite : Prop :=
  ∀ (s : State) (o : OpMovk), SomeLane s o.h (laneCount o.ty.width) →
    let w := o.ty.width
    let a := readI s o.ty o.a
    let drops := ∃ j, j < laneCount w ∧ guardBit (s.myGuard o.h) j = true ∧ ∃ p ∈ planeNums s.myLane.width, laneOfV w (a.plane p) j ≠ 0
    ∃ t m tf, exec (.movk o) s = .next t ∧ OnlySends s t o.h [o.a] ∧
      Sends s t 1 (.const s.cur.unit s.myLane.act o.k m a.bits a.scaled) 0 tf ∧
      (∀ j, j < laneCount w → laneOfV w m j = if guardBit (s.myGuard o.h) j then 2 ^ w - 1 else 0) ∧
      (tf = tDROP ∧ drops ∨ tf = 0 ∧ ¬ drops)

/-- R208 to R212: moves of lanes, and the write of a constant register. -/
def Obligations.LaneMoves : Prop := Slice0.MovedLanes ∧ Slice0.ConstantWrite

/-- R213: the lane sum and the lane maximum go to every guarded lane, three counter cycles on. -/
def Obligations.LaneReductions : Prop :=
  ∀ (s : State) (o : OpI1),
    let n := laneCount o.ty.width
    let e := of1 .lsum o 3
    e.Computes s (fun _ => wrapTo o.ty.width (((List.range n).map (e.num s 0)).sum)) noFlags every ∧
    ∃ r : Int, (of1 .lmax o 3).Computes s (fun _ => wrapTo o.ty.width r) noFlags every ∧
      (∀ j, j < n → e.num s 0 j ≤ r) ∧ ∃ j, j < n ∧ e.num s 0 j = r

/-- R214: `tri5` unpacks trits 16g to 16g + 15 of its source, five to a byte; an illegal byte gives 0 and raises CODE.
The trits are given by their sum: byte b is the sum of (t_i + 1) 3^i. -/
def Sys2Proof.Slice0.TritLanes : Prop :=
  ∀ (s : State) (o : OpTri), o.g < 5 → SomeLane s o.h 16 →
    let a := readI s .i8 o.a
    let byte (j : Nat) : Nat := laneOfV 8 a.bits ((16 * o.g + j) / 5)
    ∃ (tr : Nat → Int) (t : State) (nf tf : Nat) (x : Land) (m b : V128) (ps : List (Nat × V128)),
      exec (.tri5 o) s = .next t ∧ OnlySends s t o.h [o.a] ∧
      Result s t 2 8 o.d (guardBit (s.myGuard o.h)) (fun j => wrapTo 8 (tr j)) a.scaled (fun _ _ => 0) nf tf x m b ps ∧
      UnionOf s o.h 16 nf (fun j => if 243 ≤ byte j then 0x40 else 0) ∧
      (∀ j, j < 16 → 243 ≤ byte j → tr j = 0) ∧
      (∀ j, j < 16 → byte j < 243 → ∃ ts : List Int, ts.length = 5 ∧ (∀ v ∈ ts, v = -1 ∨ v = 0 ∨ v = 1) ∧
        ts[(16 * o.g + j) % 5]? = some (tr j) ∧
        (byte j : Int) = (ts.getD 0 0 + 1) + 3 * (ts.getD 1 0 + 1) + 9 * (ts.getD 2 0 + 1) + 27 * (ts.getD 3 0 + 1) + 81 * (ts.getD 4 0 + 1))

/-- R215 to R217: `pack` puts 32 elements of A and B into the low lanes, clipped to the format with SAT, and zeros above
them; `unpk` gives each lane's element back. -/
def Sys2Proof.Slice0.PackedLanes : Prop :=
  (∀ (s : State) (o : OpPack), SomeLane s o.h 16 →
    let ty : ITy := if o.fmt = .nat4 then .n8 else .i8
    let bits : Nat := if o.fmt = .bin1 then 1 else if o.fmt = .int2 then 2 else 4
    let v (k j : Nat) : Int := valOf ty (laneOfV 8 (readI s ty (if k = 0 then o.a else o.b)).bits j)
    let elem (e : Nat) : Int := if e < 16 then v 0 e else v 1 (e - 16)
    let lo : Int := if o.fmt = .nat4 then 0 else -(2 ^ (bits - 1))
    let hi : Int := if o.fmt = .nat4 then 15 else 2 ^ (bits - 1) - 1
    let code (e : Nat) : Nat := if o.fmt = .bin1 then (if 0 ≤ elem e then 1 else 0) else wrapTo bits (max lo (min hi (elem e)))
    let clips (e : Nat) : Bool := if o.fmt = .bin1 then decide (elem e ≠ 1 ∧ elem e ≠ -1) else decide (elem e < lo ∨ hi < elem e)
    let per := 8 / bits
    ∃ t nf tf x m b ps r, exec (.pack o) s = .next t ∧ OnlySends s t o.h [o.a, o.b] ∧
      Result s t 2 8 o.d (guardBit (s.myGuard o.h)) r ((readI s ty o.a).scaled || (readI s ty o.b).scaled)
        (fun _ _ => 0) nf tf x m b ps ∧
      (∀ j, j < 16 → ∀ i, i < 8 → (r j).testBit i =
        if j * per + i / bits < 32 then (code (j * per + i / bits)).testBit (i % bits) else false) ∧
      UnionOf s o.h 16 nf (fun j => if ∃ k, k < per ∧ j * per + k < 32 ∧ clips (j * per + k) = true then 0x20 else 0)) ∧
  (∀ (s : State) (o : OpUnpk), SomeLane s o.h 16 →
    let ty : ITy := if o.fmt = .nat4 then .n8 else .i8
    let bits : Nat := if o.fmt = .bin1 then 1 else if o.fmt = .int2 then 2 else 4
    let a := readI s ty o.a
    let code (j : Nat) : BitVec bits := a.bits.extractLsb' (bits * j) bits
    let num (j : Nat) : Int :=
      if o.fmt = .bin1 then (if (code j).toNat = 1 then 1 else -1) else if o.fmt = .nat4 then (code j).toNat else (code j).toInt
    ∃ t tf x m b ps, exec (.unpk o) s = .next t ∧ OnlySends s t o.h [o.a] ∧
      Result s t 2 8 o.d (guardBit (s.myGuard o.h)) (fun j => wrapTo 8 (num j)) a.scaled (fun _ _ => 0) 0 tf x m b ps)

/-- R214 to R217: trits, and packed elements, unpacked and packed. -/
def Obligations.NarrowElements : Prop := Slice0.TritLanes ∧ Slice0.PackedLanes


/-! ## Class 01: floating point -/

namespace Sys2Proof.Slice0

/-- A fraction as a rational number. -/
def Q.rat (q : Q) : Rat := (q.num : Rat) / (q.den : Rat)

/-- The rational value of a finite extended real. -/
def ratOf (x : XR) : Rat := Q.rat x.val

def IsFin (x : XR) : Prop := x.isNan = false ∧ x.isInf = false

/-- `z` is the exact value `v`, a zero carrying the sign `zneg`. -/
def IsExact (z : XR) (v : Rat) (zneg : Bool) : Prop := IsFin z ∧ ratOf z = v ∧ (v = 0 → z.sign = zneg)

/-- Lane `j` of a source read under a floating-point type, as its exact value. -/
def farg (s : State) (ty : FTy) (a : Src) (j : Nat) : XR := ffDecode (ffOf ty) (laneOfV (ffOf ty).width (readF s ty a).bits j)

/-- Under SR every lane that executes has its draw in the entry's range (R238); the other modes draw nothing. -/
def DrawsOk (s : State) (rm : RMode) (h : Hdr) (n : Nat) (qs : Nat → List Nat) : Prop :=
  rm = .sr → ∃ seed first pidx off len, s.drawRange = some (seed, first, pidx, off, len) ∧
    ∀ j, j < n → guardBit (s.myGuard h) j = true → ∀ q ∈ qs j, s.drawIndex q < len * 2 ^ 16

/-- A floating-point entry that no Drone prefix changes runs: with a lane to execute, its tags and draws met and no
lane that its policy faults, it sends one result: lane `j` holds `(f j).1`, the flags are those the executing lanes
raise, and lanes from `n` up are written with zero (R222 to R224, R231). -/
def FloatSends (i : Instr) (s : State) (h : Hdr) (w n lat : Nat) (d : Dst) (srcs : List Src) (rtag : Bool)
    (f : Nat → Nat × Nat) : Prop :=
  ∃ t nf tf x m b ps pl, exec i s = .next t ∧ OnlySends s t h srcs ∧
    Result s t lat w d (fun j => if j < n then guardBit (s.myGuard h) j else true) (fun j => if j < n then (f j).1 % 2 ^ w else 0) rtag pl nf tf
      x m b ps ∧
    UnionOf s h n nf (fun j => (f j).2)

/-- The conditions on the state and operands under which an entry of one type runs. -/
def FloatReady (s : State) (h : Hdr) (n : Nat) (tag : TagExp) (vs : List Val) (rm : RMode) (qs : Nat → List Nat) : Prop :=
  SomeLane s h n ∧ TagsAgree tag vs ∧ drnFor s.myElem h = none ∧ DrawsOk s rm h n qs

/-- What a lane of an exact operation holds, by the cases of R54 and R223: `inv` an invalid operation, `nan` a NaN
among the operands, `inf` an infinite result and its sign, and otherwise the exact value `v` rounded once. -/
def LaneIs (f : FF) (rm : RMode) (u : Nat) (r : Nat × Nat) (inv nan : Prop) (inf : Bool → Prop) (v : Rat) (zneg : Bool) : Prop :=
  (inv → r = (f.canon, 0x10)) ∧
  (¬ inv → nan → r = (f.canon, 0)) ∧
  (¬ inv → ¬ nan → ∀ sg, inf sg → r = fRound f .rne 0 (.inf sg)) ∧
  (¬ inv → ¬ nan → ¬ inf true → ¬ inf false → ∃ z, IsExact z v zneg ∧ r = fRound f rm u z)

/-- A lane of the sum of the products `x k * y k` with signs, `x k * y k` being an infinity times zero where invalid. -/
def SumLane (f : FF) (rm : RMode) (u : Nat) (r : Nat × Nat) (ts : List (XR × XR)) : Prop :=
  let nan := ∃ p ∈ ts, p.1.isNan = true ∨ p.2.isNan = true
  let bad (p : XR × XR) : Prop := (p.1.isInf = true ∧ p.2.isZero = true) ∨ (p.1.isZero = true ∧ p.2.isInf = true)
  let isInf (sg : Bool) (p : XR × XR) : Prop :=
    (p.1.isInf = true ∨ p.2.isInf = true) ∧ p.1.isNan = false ∧ p.2.isNan = false ∧ ¬ bad p ∧ (p.1.sign != p.2.sign) = sg
  let inf (sg : Bool) : Prop := ∃ p ∈ ts, isInf sg p
  LaneIs f rm u r ((∃ p ∈ ts, bad p) ∨ (inf true ∧ inf false)) nan inf ((ts.map fun p => ratOf p.1 * ratOf p.2).sum)
    (rm == .rdn || ts.all fun p => p.1.sign != p.2.sign)

/-- The number one, the other factor of a term that is no product. -/
def one : XR := XR.ofInt 1

end Sys2Proof.Slice0

/-- R225, R226: sums and fused sums of products are exact and rounded once, with the special cases of R54; each lane
draws its own bits under SR. -/
def Sys2Proof.Slice0.FloatSums : Prop :=
  (∀ (s : State) (o : OpF2), FloatReady s o.h (fLanes o.ty) o.tag ([o.a, o.b].map (readF s o.ty)) o.rm (laneDraw o.rm) →
    let f := ffOf o.ty
    let x (k : Src) (j : Nat) : XR := farg s o.ty k j
    let rtag := ([o.a, o.b].map (readF s o.ty)).any (·.scaled)
    (∃ r, FloatSends (.fadd o) s o.h f.width (fLanes o.ty) 3 o.d [o.a, o.b] rtag r ∧
      ∀ j, SumLane f o.rm (uOf s o.rm j) (r j) [(x o.a j, one), (x o.b j, one)]) ∧
    (∃ r, FloatSends (.fsub o) s o.h f.width (fLanes o.ty) 3 o.d [o.a, o.b] rtag r ∧
      ∀ j, SumLane f o.rm (uOf s o.rm j) (r j) [(x o.a j, one), ((x o.b j).neg, one)])) ∧
  (∀ (s : State) (o : OpF3), FloatReady s o.h (fLanes o.ty) o.tag ([o.a, o.b, o.c].map (readF s o.ty)) o.rm (laneDraw o.rm) →
    let f := ffOf o.ty
    let x (k : Src) (j : Nat) : XR := farg s o.ty k j
    let rtag := ([o.a, o.b, o.c].map (readF s o.ty)).any (·.scaled)
    (∃ r, FloatSends (.fma o) s o.h f.width (fLanes o.ty) 3 o.d [o.a, o.b, o.c] rtag r ∧
      ∀ j, SumLane f o.rm (uOf s o.rm j) (r j) [(x o.a j, x o.b j), (x o.c j, one)]) ∧
    (∃ r, FloatSends (.fms o) s o.h f.width (fLanes o.ty) 3 o.d [o.a, o.b, o.c] rtag r ∧
      ∀ j, SumLane f o.rm (uOf s o.rm j) (r j) [(x o.a j, x o.b j), ((x o.c j).neg, one)]) ∧
    (∃ r, FloatSends (.fnma o) s o.h f.width (fLanes o.ty) 3 o.d [o.a, o.b, o.c] rtag r ∧
      ∀ j, SumLane f o.rm (uOf s o.rm j) (r j) [((x o.a j).neg, x o.b j), (x o.c j, one)]))

/-- R226: `fdot2` adds two products of half-width lanes to a lane of the destination's format, rounded once. -/
def Sys2Proof.Slice0.FloatPairedDot : Prop :=
  ∀ (s : State) (o : OpF3), (o.ty = .f16 ∨ o.ty = .bf16 ∨ o.ty = .f8e4 ∨ o.ty = .f8e5) →
    let dt : FTy := if o.ty = .f16 ∨ o.ty = .bf16 then .f32 else .f16
    let f := ffOf dt
    let vs := [readF s o.ty o.a, readF s o.ty o.b, readF s dt o.c]
    FloatReady s o.h (fLanes dt) o.tag vs o.rm (laneDraw o.rm) →
    ∃ r, FloatSends (.fdot2 o) s o.h f.width (fLanes dt) 3 o.d [o.a, o.b, o.c] (vs.any (·.scaled)) r ∧
      ∀ j, SumLane f o.rm (uOf s o.rm j) (r j)
        [(farg s dt o.c j, one), (farg s o.ty o.a (2 * j), farg s o.ty o.b (2 * j)),
         (farg s o.ty o.a (2 * j + 1), farg s o.ty o.b (2 * j + 1))]

/-- R225, R226: sums, fused sums of products and paired dot products, exact and rounded once. -/
def Obligations.FloatLaneSums : Prop := Slice0.FloatSums ∧ Slice0.FloatPairedDot

/-- R225, R235: products, and the scaling pair that multiplies and changes the tag: `scl` gives a scaled result and
`uscl` an unscaled one, two counter cycles on. -/
def Sys2Proof.Slice0.FloatProducts : Prop :=
  ∀ (s : State) (o : OpF2), FloatReady s o.h (fLanes o.ty) o.tag ([o.a, o.b].map (readF s o.ty)) o.rm (laneDraw o.rm) →
    let f := ffOf o.ty
    let prod (j : Nat) (r : Nat × Nat) : Prop :=
      let a := farg s o.ty o.a j
      let b := farg s o.ty o.b j
      LaneIs f o.rm (uOf s o.rm j) r ((a.isInf = true ∧ b.isZero = true) ∨ (a.isZero = true ∧ b.isInf = true))
        (a.isNan = true ∨ b.isNan = true) (fun sg => (a.isInf = true ∨ b.isInf = true) ∧ (a.sign != b.sign) = sg)
        (ratOf a * ratOf b) (a.sign != b.sign)
    (∃ r, FloatSends (.fmul o) s o.h f.width (fLanes o.ty) 3 o.d [o.a, o.b]
      (([o.a, o.b].map (readF s o.ty)).any (·.scaled)) r ∧ ∀ j, prod j (r j)) ∧
    (∃ r, FloatSends (.scl o) s o.h f.width (fLanes o.ty) 2 o.d [o.a, o.b] true r ∧ ∀ j, prod j (r j)) ∧
    (∃ r, FloatSends (.uscl o) s o.h f.width (fLanes o.ty) 2 o.d [o.a, o.b] false r ∧ ∀ j, prod j (r j))

/-- R225: rounding to an integral value, and scaling by a power of two between 2^−1024 and 2^1023; neither of them
changes a NaN or an infinity into anything else, and rounding raises no flag. -/
def Sys2Proof.Slice0.FloatRoundScale : Prop :=
  (∀ (s : State) (o : OpF1), FloatReady s o.h (fLanes o.ty) o.tag [readF s o.ty o.a] o.rm (laneDraw o.rm) →
    let f := ffOf o.ty
    ∃ r, FloatSends (.frnd o) s o.h f.width (fLanes o.ty) 2 o.d [o.a] (readF s o.ty o.a).scaled r ∧
      ∀ j, let x := farg s o.ty o.a j
        (x.isNan = true → r j = (f.canon, 0)) ∧ (∀ sg, x = .inf sg → r j = ((fRound f .rne 0 (.inf sg)).1, 0)) ∧
        (IsFin x → ∃ (k : Int) (z : XR), IsExact z k x.sign ∧ r j = ((fRound f .rne 0 z).1, 0) ∧
          (k : Rat) - ratOf x < 1 ∧ ratOf x - (k : Rat) < 1)) ∧
  (∀ (s : State) (o : OpF2), FloatReady s o.h (fLanes o.ty) o.tag ([o.a, o.b].map (readF s o.ty)) o.rm (laneDraw o.rm) →
    let f := ffOf o.ty
    ∃ r, FloatSends (.fscl o) s o.h f.width (fLanes o.ty) 3 o.d [o.a, o.b]
        (([o.a, o.b].map (readF s o.ty)).any (·.scaled)) r ∧
      ∀ j, let x := farg s o.ty o.a j
        let k : Int := max (-1024) (min 1023 (BitVec.ofNat f.width (laneOfV f.width (readF s o.ty o.b).bits j)).toInt)
        (x.isNan = true → r j = (f.canon, 0)) ∧ (∀ sg, x = .inf sg → r j = fRound f .rne 0 (.inf sg)) ∧
        (IsFin x → ∃ z, IsExact z (ratOf x * (2 : Rat) ^ k) x.sign ∧ r j = fRound f o.rm (uOf s o.rm j) z))

/-- R225, R235: products and scalings, and rounding to an integral value. -/
def Obligations.FloatLaneProducts : Prop := Slice0.FloatProducts ∧ Slice0.FloatRoundScale

/-- R228: minimum and maximum deliver one of the two lanes: the only one that is no NaN, or the lesser (greater), −0
counting below +0; two NaNs give the canonical NaN. R228 again: `fabs` and `fneg` change the sign bit of each lane and
nothing else, NaNs included. No flag is raised. -/
def Obligations.FloatMinMaxSign : Prop :=
  (∀ (s : State) (o : OpG2), FloatReady s o.h (fLanes o.ty) o.tag ([o.a, o.b].map (readF s o.ty)) .rne (laneDraw .rne) →
    let f := ffOf o.ty
    let below (a b : XR) : Prop := ratOf a < ratOf b ∨ (ratOf a = ratOf b ∧ a.sign = true ∧ b.sign = false)
    let lane (pickLess : Bool) (j : Nat) (r : Nat × Nat) : Prop :=
      let a := farg s o.ty o.a j
      let b := farg s o.ty o.b j
      (a.isNan = true → b.isNan = true → r = (f.canon, 0)) ∧
      (a.isNan = true → b.isNan = false → r = ((fRound f .rne 0 b).1, 0)) ∧
      (a.isNan = false → b.isNan = true → r = ((fRound f .rne 0 a).1, 0)) ∧
      (IsFin a → IsFin b → below a b → r = ((fRound f .rne 0 (if pickLess then a else b)).1, 0)) ∧
      (IsFin a → IsFin b → below b a → r = ((fRound f .rne 0 (if pickLess then b else a)).1, 0))
    let rtag := ([o.a, o.b].map (readF s o.ty)).any (·.scaled)
    (∃ r, FloatSends (.fmin o) s o.h f.width (fLanes o.ty) 1 o.d [o.a, o.b] rtag r ∧ ∀ j, lane true j (r j)) ∧
    (∃ r, FloatSends (.fmax o) s o.h f.width (fLanes o.ty) 1 o.d [o.a, o.b] rtag r ∧ ∀ j, lane false j (r j))) ∧
  (∀ (s : State) (o : OpG1), FloatReady s o.h (fLanes o.ty) o.tag [readF s o.ty o.a] .rne (laneDraw .rne) →
    let f := ffOf o.ty
    let w := f.width
    let a (j : Nat) : BitVec w := BitVec.ofNat w (laneOfV w (readF s o.ty o.a).bits j)
    (∃ r, FloatSends (.fabs o) s o.h w (fLanes o.ty) 1 o.d [o.a] (readF s o.ty o.a).scaled r ∧
      ∀ j, (r j).2 = 0 ∧ ∀ i, i < w → (r j).1.testBit i = if i = w - 1 then false else (a j).getLsbD i) ∧
    (∃ r, FloatSends (.fneg o) s o.h w (fLanes o.ty) 1 o.d [o.a] (readF s o.ty o.a).scaled r ∧
      ∀ j, (r j).2 = 0 ∧ ∀ i, i < w → (r j).1.testBit i = if i = w - 1 then !(a j).getLsbD i else (a j).getLsbD i))

/-- R229, R230: floating-point compares, which are false for every ordered relation with a NaN, and the class test. -/
def Obligations.FloatPredicates : Prop :=
  (∀ (s : State) (o : OpFcmp),
    let vs := [readF s o.ty o.a, readF s o.ty o.b]
    ∃ c : Nat → Bool, Compares (.fcmp o) s o.h (fLanes o.ty) o.p [o.a, o.b] o.tag vs c ∧
      ∀ j, let a := farg s o.ty o.a j; let b := farg s o.ty o.b j
        ((a.isNan = true ∨ b.isNan = true) → c j = decide (o.cc = .unordered)) ∧
        (IsFin a → IsFin b → (c j = true ↔
          (o.cc = .eq ∧ ratOf a = ratOf b) ∨ (o.cc = .ne ∧ ratOf a ≠ ratOf b) ∨ (o.cc = .lt ∧ ratOf a < ratOf b) ∨
          (o.cc = .le ∧ ratOf a ≤ ratOf b) ∨ (o.cc = .gt ∧ ratOf b < ratOf a) ∨ (o.cc = .ge ∧ ratOf b ≤ ratOf a) ∨
          o.cc = .ordered))) ∧
  (∀ (s : State) (o : OpFclass),
    ∃ c : Nat → Bool, Compares (.fclass o) s o.h (fLanes o.ty) o.p [o.a] .any [readF s o.ty o.a] c ∧
      ∀ j, let x := farg s o.ty o.a j
        let sub : Prop := IsFin x ∧ x.isZero = false ∧ ratOf x.abs < ratOf (.fin false (ffOf o.ty).minNormal)
        (c j = true ↔
          (o.mask.testBit 0 = true ∧ x.isNan = true) ∨ (o.mask.testBit 1 = true ∧ x = .inf true) ∨
          (o.mask.testBit 2 = true ∧ IsFin x ∧ x.isZero = false ∧ x.sign = true) ∨
          (o.mask.testBit 3 = true ∧ IsFin x ∧ x.isZero = true ∧ x.sign = true) ∨
          (o.mask.testBit 4 = true ∧ IsFin x ∧ x.isZero = true ∧ x.sign = false) ∨
          (o.mask.testBit 5 = true ∧ IsFin x ∧ x.isZero = false ∧ x.sign = false) ∨
          (o.mask.testBit 6 = true ∧ x = .inf false) ∨ (o.mask.testBit 7 = true ∧ sub)))

/-- R55, R227, R236, R237: lane sums by the pairwise tree, the largest magnitude, and block scales. The sum's value is
that of the tree whose nodes are rounded one by one; for two lanes it is the one rounded sum. -/
def Obligations.FloatLaneReductions : Prop :=
  (∀ (s : State) (o : OpF1), FloatReady s o.h (fLanes o.ty) o.tag [readF s o.ty o.a] o.rm
      (fun _ => if o.rm = .sr then List.range (fLanes o.ty - 1) else []) →
    let f := ffOf o.ty
    ∃ (v : Nat) (fl : Nat) (node : Nat → Nat → Nat), FloatSends (.lsumf o) s o.h f.width (fLanes o.ty) 3 o.d [o.a]
        (readF s o.ty o.a).scaled (fun _ => (v, fl)) ∧
      -- level 0 holds the lanes, level k + 1 the rounded sums of neighbours, and the root is the result
      (∀ j, j < fLanes o.ty → node 0 j = laneOfV f.width (readF s o.ty o.a).bits j) ∧
      (∀ k j, j < fLanes o.ty / 2 ^ (k + 1) → ∃ u r, SumLane f o.rm u r
        [(ffDecode f (node k (2 * j)), one), (ffDecode f (node k (2 * j + 1)), one)] ∧ node (k + 1) j = r.1) ∧
      v = node ((fLanes o.ty).log2) 0) ∧
  (∀ (s : State) (o : OpG1), FloatReady s o.h (fLanes o.ty) o.tag [readF s o.ty o.a] .rne (laneDraw .rne) →
    let f := ffOf o.ty
    ∃ v, FloatSends (.amax o) s o.h f.width (fLanes o.ty) 3 o.d [o.a] (readF s o.ty o.a).scaled (fun _ => (v, 0)) ∧
      ((∃ j, j < fLanes o.ty ∧ (farg s o.ty o.a j).isNan = true) → v = f.canon) ∧
      ((∀ j, j < fLanes o.ty → IsFin (farg s o.ty o.a j)) →
        ∃ z, IsFin z ∧ z.sign = false ∧ v = (fRound f .rne 0 z).1 ∧
          (∀ j, j < fLanes o.ty → ratOf (farg s o.ty o.a j).abs ≤ ratOf z) ∧
          ((∃ j, j < fLanes o.ty ∧ ratOf (farg s o.ty o.a j).abs = ratOf z)))) ∧
  (∀ (s : State) (o : OpMxsc), FloatReady s o.h (fLanes o.ty) .any [readF s o.ty o.a] .rne (laneDraw .rne) →
    let f := ffOf o.ty
    ∃ r, FloatSends (.mxsc o) s o.h f.width (fLanes o.ty) 3 o.d [o.a] false r ∧
      ∀ j, let x := farg s o.ty o.a j
        (r j).2 = 0 ∧ ((x.isNan = true ∨ x.isInf = true) → (r j).1 = 0xFF) ∧ (x.isZero = true → (r j).1 = 0) ∧
        (IsFin x → x.isZero = false → (r j).1 ≤ 0xFE ∧ ∃ e : Int, (2 : Rat) ^ e ≤ ratOf x.abs ∧ ratOf x.abs < (2 : Rat) ^ (e + 1) ∧
          ((r j).1 : Int) = max 0 (e - emax o.fmt + 127)))

namespace Sys2Proof.Slice0

/-- Every executing lane draws, in the entry's range (R238). -/
def Draws (s : State) (h : Hdr) (n : Nat) (qs : Nat → List Nat) : Prop :=
  ∃ seed first pidx off len, s.drawRange = some (seed, first, pidx, off, len) ∧
    ∀ j, j < n → guardBit (s.myGuard h) j = true → ∀ q ∈ qs j, s.drawIndex q < len * 2 ^ 16

/-- A draw lies outside the entry's range (R238), as every draw of an entry without one does. -/
def OutOfRange (s : State) (q : Nat) : Prop :=
  ∀ seed first pidx off len, s.drawRange = some (seed, first, pidx, off, len) → len * 2 ^ 16 ≤ s.drawIndex q

/-- `q` is the first draw of the executing lanes, in the order of the lanes, that lies outside the entry's range. -/
def FirstBadDraw (s : State) (h : Hdr) (n : Nat) (qs : Nat → List Nat) (q : Nat) : Prop :=
  ∃ before after, ((List.range n).filter (guardBit (s.myGuard h))).flatMap qs = before ++ q :: after ∧
    OutOfRange s q ∧ ∀ p ∈ before, ¬ OutOfRange s p

/-- What a conversion of the value `x` to a format gives under a policy byte (R48 to R50): NaN, infinity, zero, and a
finite value in range, rounded once. `top` is the largest finite code of a sign. -/
def ConvertsF (f : FF) (pol : Nat) (rm : RMode) (u : Nat) (x : XR) (r : Option (Nat × Nat)) : Prop :=
  (x.isNan = true →
    (polNan pol = .fault → r = none) ∧ (polNan pol = .zero → r = some (0, 0x10)) ∧
    (polNan pol = .prop → r = some (if f.hasNan then f.canon else 0, 0x10)) ∧
    (polNan pol = .sat → r = some (f.maxBits false, 0x30))) ∧
  (∀ sg, x = .inf sg →
    (polInf pol = .fault → r = none) ∧ (polInf pol = .zero → r = some (f.zeroBits sg, 0)) ∧
    (polInf pol = .sat → r = some (f.maxBits sg, 0x20)) ∧
    (polInf pol = .prop → r = some (if f.hasInf then (f.infBits sg, 0) else if f.hasNan then (f.canon, 0) else (f.maxBits sg, 0x20)))) ∧
  (IsFin x → x.isZero = true → r = some (f.zeroBits x.sign, 0)) ∧
  (IsFin x → x.isZero = false → ratOf x.abs ≤ Q.rat f.maxMag → Q.rat f.minNormal ≤ ratOf x.abs → r = some (fRound f rm u x))

end Sys2Proof.Slice0

/-- R45: an exact magnitude no larger than the format's greatest finite one is rounded to a value of the format: toward
zero to the greatest at or below it, away from it to the least at or above it, to nearest to one at least as near as any
other. The exactness is told by NX. -/
def Sys2Proof.Slice0.RoundingModes : Prop :=
  ∀ (f : FF) (neg : Bool) (u : Nat) (m : Q),
    f ∈ [ffFP32, ffFP19, ffBF16, ffFP16, ffFP8E4, ffFP8E5, ffFP6E3, ffFP6E2, ffFP4] →
    0 < m.num → 0 < m.den → Q.rat m ≤ Q.rat f.maxMag →
    let val (rm : RMode) : Rat := ratOf (ffDecode f (fRound f rm u (.fin neg m)).1).abs
    let sgn (rm : RMode) : Bool := (ffDecode f (fRound f rm u (.fin neg m)).1).sign
    (∀ rm, IsFin (ffDecode f (fRound f rm u (.fin neg m)).1) ∧ sgn rm = neg ∧
      ((fRound f rm u (.fin neg m)).2.testBit 0 = true ↔ val rm ≠ Q.rat m)) ∧
    (∀ c, IsFin (ffDecode f c) → let v := ratOf (ffDecode f c).abs
      (v ≤ Q.rat m → v ≤ val .rtz) ∧ (Q.rat m ≤ v → val (if neg then .rdn else .rup) ≤ v) ∧
      val .rtz ≤ Q.rat m ∧ Q.rat m ≤ val (if neg then .rdn else .rup) ∧
      (∀ rm, rm = .rne ∨ rm = .rna →
        max (val rm - Q.rat m) (Q.rat m - val rm) ≤ max (v - Q.rat m) (Q.rat m - v)))

/-- R48 to R50: the cases of a policy byte, for floating-point targets and for integer ranges. -/
def Sys2Proof.Slice0.ConversionPolicies : Prop :=
  (∀ (f : FF) (pol : Nat) (rm : RMode) (u : Nat) (x : XR),
    f ∈ [ffFP32, ffFP19, ffBF16, ffFP16, ffFP8E4, ffFP8E5, ffFP6E3, ffFP6E2, ffFP4] →
    (∀ sg m, x = .fin sg m → 0 ≤ m.num ∧ 0 < m.den) → ConvertsF f pol rm u x (convertF f pol rm u x)) ∧
  (∀ (lo hi : Int) (pol : Nat) (rm : RMode) (u : Nat), lo ≤ 0 → 0 ≤ hi →
    (polNan pol = .sat → convertI lo hi pol rm u .nan = some (hi, 0x30)) ∧
    (polNan pol = .zero ∨ polNan pol = .prop → convertI lo hi pol rm u .nan = some (0, 0x10)) ∧
    (polNan pol = .fault → convertI lo hi pol rm u .nan = none) ∧
    (∀ sg, (polInf pol = .sat ∨ polInf pol = .prop → convertI lo hi pol rm u (.inf sg) = some (if sg then lo else hi, 0x20)) ∧
      (polInf pol = .zero → convertI lo hi pol rm u (.inf sg) = some (0, 0)) ∧
      (polInf pol = .fault → convertI lo hi pol rm u (.inf sg) = none)) ∧
    (∀ n : Int, lo ≤ n → n ≤ hi → convertI lo hi pol rm u (XR.ofInt n) = some (n, 0)) ∧
    (∀ n : Int, (n < lo ∨ hi < n) →
      (polOvf pol = .sat ∨ polOvf pol = .prop → convertI lo hi pol rm u (XR.ofInt n) = some (if n < lo then lo else hi, 0x25)) ∧
      (polOvf pol = .zero → convertI lo hi pol rm u (XR.ofInt n) = some (0, 0x05)) ∧
      (polOvf pol = .fault → convertI lo hi pol rm u (XR.ofInt n) = none)))

/-- R45, R48 to R50: rounding, and what a policy byte makes of the values outside a format. -/
def Obligations.RoundingAndPolicies : Prop := Slice0.RoundingModes ∧ Slice0.ConversionPolicies

/-- R231, R232: `cvt` converts the lanes that both types have, under the policy of its constant register, and writes
zeros above them; `cvtsr` rounds
stochastically with random bits from each lane's share of C, at most 32 of them, as the top bits of the draw. Where an executing lane's
policy says FAULT, CONVERT is raised and nothing is written. -/
def Obligations.LaneConversions : Prop :=
  ∀ (s : State) (h : Hdr) (td ts : LTy) (d : Dst) (a c : Src) (k : Nat) (rm : RMode),
    let wide := max (lWidth td) (lWidth ts)
    let n := 128 / wide
    let v := readL s td a
    let pol := laneOfV 8 (tblGet {} s.myElem.consts (s.myLane.act * 16 + k)).bits 0
    let x (j : Nat) : XR := lDecode ts (laneOfV (lWidth ts) v.bits j)
    let cbits (j : Nat) : Nat := (readL s td c).bits.toNat / 2 ^ (wide * j) % 2 ^ (min wide 32) * 2 ^ (32 - min wide 32)
    let all (u : Nat → Nat) (rm : RMode) : Prop := ∀ j, j < n → guardBit (s.myGuard h) j = true → (convertL td pol rm (u j) (x j)).isSome = true
    let out (u : Nat → Nat) (rm : RMode) (j : Nat) : Nat × Nat := (convertL td pol rm (u j) (x j)).getD (0, 0)
    (FloatReady s h n .any [v] rm (laneDraw rm) →
      (all (uOf s rm) rm → FloatSends (.cvt ⟨h, td, ts, d, a, k, rm⟩) s h (lWidth td) n 2 d [a] v.scaled (out (uOf s rm) rm)) ∧
      (¬ all (uOf s rm) rm → exec (.cvt ⟨h, td, ts, d, a, k, rm⟩) s = .next (raise s .convert))) ∧
    (SomeLane s h n → drnFor s.myElem h = none →
      (all cbits .sr → FloatSends (.cvtsr ⟨h, td, ts, d, a, k, c⟩) s h (lWidth td) n 2 d [a, c]
        (v.scaled || (readL s td c).scaled) (out cbits .sr)) ∧
      (¬ all cbits .sr → exec (.cvtsr ⟨h, td, ts, d, a, k, c⟩) s = .next (raise s .convert)))

/-- R233, R234: `quant` packs the converted lanes into the low bits of the whole destination under bit 0 of the guard;
`dequ` converts the packed elements of its source to lanes, an illegal TRI5 byte raising CODE. -/
def Obligations.PackedConversions : Prop :=
  (∀ (s : State) (o : OpQuant), o.fmt.isQuant = true →
    let a := readF s o.ty o.a
    let m := fLanes o.ty
    let pol := laneOfV 8 (tblGet {} s.myElem.consts (s.myLane.act * 16 + o.k)).bits 0
    let conv (j : Nat) : Option (Nat × Nat) := convertElem o.fmt pol o.rm (uOf s o.rm j) (farg s o.ty o.a j)
    FloatReady s o.h 1 .any [a] o.rm (fun _ => if o.rm = .sr then List.range m else []) →
      ((∀ j, j < m → (conv j).isSome = true) →
        ∃ v fl, FloatSends (.quant o) s o.h 128 1 2 o.d [o.a] a.scaled (fun _ => (v, fl)) ∧
          (isTri o.fmt = false → ∀ j, j < m → v / 2 ^ (j * Machine.fmtBits o.fmt) % 2 ^ Machine.fmtBits o.fmt = ((conv j).getD (0, 0)).1 % 2 ^ Machine.fmtBits o.fmt) ∧
          (∀ b, fl.testBit b = true ↔ ∃ j, j < m ∧ ((conv j).getD (0, 0)).2.testBit b = true)) ∧
      (¬ (∀ j, j < m → (conv j).isSome = true) → exec (.quant o) s = .next (raise s .convert))) ∧
  (∀ (s : State) (o : OpQuant), o.fmt.isQuant = true →
    let a := readF s o.ty o.a
    let m := fLanes o.ty
    let pol := laneOfV 8 (tblGet {} s.myElem.consts (s.myLane.act * 16 + o.k)).bits 0
    let el (j : Nat) : XR := if isTri o.fmt then XR.ofInt (trit (laneOfV 8 a.bits (j / 5)) (j % 5))
      else elemVal o.fmt (a.bits.toNat / 2 ^ (j * Machine.fmtBits o.fmt) % 2 ^ Machine.fmtBits o.fmt)
    let bad (j : Nat) : Bool := isTri o.fmt && decide (243 ≤ laneOfV 8 a.bits (j / 5))
    let conv (j : Nat) : Option (Nat × Nat) := convertF (ffOf o.ty) pol o.rm (uOf s o.rm j) (el j)
    FloatReady s o.h m .any [a] o.rm (laneDraw o.rm) →
      ((∀ j, j < m → guardBit (s.myGuard o.h) j = true → (conv j).isSome = true) →
        FloatSends (.dequ o) s o.h (ffOf o.ty).width m 2 o.d [o.a] a.scaled
          (fun j => (((conv j).getD (0, 0)).1, ((conv j).getD (0, 0)).2 ||| if bad j = true then 0x40 else 0))) ∧
      (¬ (∀ j, j < m → guardBit (s.myGuard o.h) j = true → (conv j).isSome = true) →
        exec (.dequ o) s = .next (raise s .convert)))

/-- R238, R239: a draw is the keyed function of the seed at the entry's counter; `rnd` puts its low 32 bits into each
lane, and `rndn` the rounded sum of the draw's bits: with k one bits in the first draw and low half L of the second,
(k − 32 + (L + 1/2) 2^−32 − 1/2) / 4. The first draw outside the entry's range, or of an entry without a range, raises
RNG_REUSE with its local index; an entry with no lane to execute draws nothing. -/
def Obligations.RandomLanes : Prop :=
  (∀ (s : State) (o : OpRnd), SomeLane s o.h 4 → drnFor s.myElem o.h = none → Draws s o.h 4 (fun j => [j]) →
    ∃ seed first pidx off len, s.drawRange = some (seed, first, pidx, off, len) ∧
      FloatSends (.rnd o) s o.h 32 4 2 o.d [] false
        (fun j => (kh seed (pidx * 2 ^ 40 + (first + off * 2 ^ 16 +
          (((s.myLane.blockInt * 64 + elemIndex s.myLane s.cur.unit) * 256 + s.cur.idx) * 32 + j))) % 2 ^ 32, 0))) ∧
  (∀ (s : State) (o : OpRndn), SomeLane s o.h (fLanes o.ty) → drnFor s.myElem o.h = none →
    Draws s o.h (fLanes o.ty) (fun j => [2 * j, 2 * j + 1]) →
    ∃ r, FloatSends (.rndn o) s o.h (ffOf o.ty).width (fLanes o.ty) 2 o.d [] false r ∧
      ∀ j, ∃ (ones : Nat) (z : XR), ones = ((List.range 64).filter fun i => (s.draw (2 * j)).testBit i).length ∧
        IsExact z ((((ones : Rat) - 32) + (((s.draw (2 * j + 1) % 2 ^ 32 : Nat) : Rat) + 1 / 2) / 4294967296 - 1 / 2) / 4) false ∧
        r j = ((fRound (ffOf o.ty) o.rm 0 z).1, 0)) ∧
  (∀ (s : State) (o : OpRnd) (q : Nat), FirstBadDraw s o.h 4 (fun j => [j]) q →
    exec (.rnd o) s = .next (raise s .rngReuse (s.drawIndex q))) ∧
  (∀ (s : State) (o : OpRndn) (q : Nat), FirstBadDraw s o.h (fLanes o.ty) (fun j => [2 * j, 2 * j + 1]) q →
    exec (.rndn o) s = .next (raise s .rngReuse (s.drawIndex q))) ∧
  (∀ (s : State) (o : OpRnd), NoLane s o.h 4 → drnFor s.myElem o.h = none → DoesNothing (.rnd o) s o.h []) ∧
  (∀ (s : State) (o : OpRndn), NoLane s o.h (fLanes o.ty) → drnFor s.myElem o.h = none → DoesNothing (.rndn o) s o.h [])

/-- R240, R243, R244: the functions of a NaN, of the infinities and of zeros, with DZ at their poles and NV outside
their domains; and a reciprocal in the narrow types is the exact quotient rounded once. -/
def Obligations.FunctionLanes : Prop :=
  ∀ (s : State) (o : OpF1), FloatReady s o.h (fLanes o.ty) o.tag [readF s o.ty o.a] o.rm (laneDraw o.rm) →
    let f := ffOf o.ty
    let x (j : Nat) : XR := farg s o.ty o.a j
    let runs (i : Instr) (spec : Nat → Nat × Nat → Prop) : Prop :=
      ∃ r, FloatSends i s o.h f.width (fLanes o.ty) 4 o.d [o.a] (readF s o.ty o.a).scaled r ∧
        ∀ j, spec j (r j) ∧ ((x j).isNan = true → r j = (f.canon, 0))
    let is (z : XR) (fl : Nat) (r : Nat × Nat) : Prop := r = ((fRound f .rne 0 z).1, (fRound f .rne 0 z).2 ||| fl)
    let zero (sg : Bool) : XR := .fin sg (Q.ofInt 0)
    let negative (v : XR) : Prop := v = .inf true ∨ (IsFin v ∧ v.isZero = false ∧ v.sign = true)
    runs (.fnExp2 o) (fun j r => (x j = .inf false → is (.inf false) 0 r) ∧ (x j = .inf true → is (zero false) 0 r) ∧
      ((x j).isZero = true → is one 0 r)) ∧
    runs (.fnLog2 o) (fun j r => (x j = .inf false → is (.inf false) 0 r) ∧ (negative (x j) → is .nan 0x10 r) ∧
      ((x j).isZero = true → is (.inf true) 0x08 r)) ∧
    runs (.fnRcp o) (fun j r => (∀ sg, x j = .inf sg → is (zero sg) 0 r) ∧
      ((x j).isZero = true → is (.inf (x j).sign) 0x08 r) ∧
      (o.ty ≠ .f32 → o.ty ≠ .f19 → IsFin (x j) → (x j).isZero = false →
        ∃ z, IsExact z (1 / ratOf (x j)) false ∧ r = fRound f o.rm (uOf s o.rm j) z)) ∧
    runs (.fnRsq o) (fun j r => (x j = .inf false → is (zero false) 0 r) ∧ (negative (x j) → is .nan 0x10 r) ∧
      ((x j).isZero = true → is (.inf (x j).sign) 0x08 r)) ∧
    runs (.fnSin o) (fun j r => (∀ sg, x j = .inf sg → is .nan 0x10 r) ∧ ((x j).isZero = true → is (zero (x j).sign) 0 r)) ∧
    runs (.fnTanh o) (fun j r => (x j = .inf false → is one 0 r) ∧ (x j = .inf true → is one.neg 0 r) ∧
      ((x j).isZero = true → is (zero (x j).sign) 0 r)) ∧
    runs (.fnSig o) (fun j r => (x j = .inf false → is one 0 r) ∧ (x j = .inf true → is (zero false) 0 r) ∧
      ((x j).isZero = true → is (XR.ofQ ⟨1, 2⟩) 0 r)) ∧
    runs (.fnGelu o) (fun j r => (x j = .inf false → is (.inf false) 0 r) ∧ (x j = .inf true → is (zero true) 0 r) ∧
      ((x j).isZero = true → is (zero (x j).sign) 0 r))

/-! ## The Drone instructions -/

/-- R254, R256: a Drone prefix writes nothing but its capture: for the target that stands one cycle later, the kind of
rule and, for `drn.lin`, the primals of its three sources. -/
def Sys2Proof.Slice0.DronePrefixes : Prop :=
  (∀ (s : State) (o : OpCut), ∃ t, exec (.drnCut o) s = .next t ∧
    t = { s with cores := t.cores } ∧ (∀ c, c ≠ core0 s → t.core c = s.core c) ∧
    t.core (core0 s) = (s.core (core0 s)).setElem s.cur.unit
      { s.myElem with drn := some { lin := false, stamp := o.h.stamp, a := 0, b := 0, c := 0 } }) ∧
  (∀ (s : State) (o : OpLin), ∃ t, exec (.drnLin o) s = .next t ∧
    t = { s with cores := t.cores } ∧ (∀ c, c ≠ core0 s → t.core c = s.core c) ∧
    t.core (core0 s) = (s.core (core0 s)).setElem s.cur.unit
      { s.myElem with drn := some { lin := true, stamp := o.h.stamp, a := (readF s o.ty o.a).bits, b := (readF s o.ty o.b).bits,
                                    c := (readF s o.ty o.c).bits } })

/-- R256: under a `drn.cut` one cycle before it, an addition's tangents are zero in every plane, with TCUT where one was
read that is not, and its primal lanes are the rounded sums as ever; under no prefix they are the rounded sums of the
operands' tangents (R251). The prefix is used up. -/
def Obligations.TangentRules : Prop :=
  ∀ (s : State) (o : OpF2), SomeLane s o.h (fLanes o.ty) → TagsAgree o.tag ([o.a, o.b].map (readF s o.ty)) → o.rm ≠ .sr →
    let f := ffOf o.ty
    let w := f.width
    let tan (k : Src) (p j : Nat) : XR := ffDecode f (laneOfV w ((readF s o.ty k).plane p) j)
    let planes := planeNums s.myLane.width
    ∃ (t : State) (nf tf : Nat) (x : Land) (m b : V128) (ps : List (Nat × V128)) (pl : Nat → Nat → Nat) (r : Nat → Nat × Nat),
      exec (.fadd o) s = .next t ∧
      Result s t 3 w o.d (guardBit (s.myGuard o.h)) (fun j => (r j).1 % 2 ^ w) ((readF s o.ty o.a).scaled || (readF s o.ty o.b).scaled)
        pl nf tf x m b ps ∧
      (∀ j, SumLane f o.rm 0 (r j) [(farg s o.ty o.a j, one), (farg s o.ty o.b j, one)]) ∧
      (∀ c, drnFor s.myElem o.h = some c → (t.core (core0 s)).elem s.cur.unit = { s.myElem with drn := none }) ∧
      (drnFor s.myElem o.h = none → (t.core (core0 s)).elem s.cur.unit = s.myElem) ∧
      (∀ c, drnFor s.myElem o.h = some c → c.lin = false → (∀ p j, p ∈ planes → j < fLanes o.ty → guardBit (s.myGuard o.h) j = true → pl p j = 0) ∧
        (tf.testBit 6 = true ↔ ∃ p ∈ planes, ∃ j, j < fLanes o.ty ∧ guardBit (s.myGuard o.h) j = true ∧
          ((tan o.a p j).isZero = false ∨ (tan o.b p j).isZero = false))) ∧
      (drnFor s.myElem o.h = none → ∀ p ∈ planes, ∀ j, j < fLanes o.ty → guardBit (s.myGuard o.h) j = true →
        IsFin (tan o.a p j) → IsFin (tan o.b p j) →
        ∃ z, IsFin z ∧ ratOf z = ratOf (tan o.a p j) + ratOf (tan o.b p j) ∧ pl p j = (fRound f .rne 0 z).1)

/-- R255: the instructions on tangent planes. `dseed` writes A into plane n and zero into the others, `dput` plane n
alone, `dzero` zero into all, and none of them touches the primal or the tag; `dget` delivers a plane as a primal,
zero where the drone width has no such plane. -/
def Sys2Proof.Slice0.DronePlanes : Prop :=
  (∀ (s : State) (o : OpNum), SomeLane s o.h (laneCount o.ty.width) →
    let w := s.myLane.width
    let a := readI s o.ty o.a
    let sends (i : Instr) (ps : List (Nat × V128)) : Prop :=
      ∃ t m, exec i s = .next t ∧ OnlySends s t o.h [o.a] ∧
        Sends s t 1 (.elem s.cur.unit (dstOf s.myLane.base o.d).1 (dstOf s.myLane.base o.d).2 m none none ps) 0 0 ∧
        ∀ j, j < laneCount o.ty.width → laneOfV o.ty.width m j = if guardBit (s.myGuard o.h) j then 2 ^ o.ty.width - 1 else 0
    sends (.dseed o) ((planeNums w).map fun p => (p, if p = o.n then a.bits else 0)) ∧
    sends (.dput o) (if o.n ≤ w then [(o.n, a.bits)] else []) ∧
    ∃ t x m b ps, exec (.dget o) s = .next t ∧ OnlySends s t o.h [o.a] ∧
      Result s t 1 o.ty.width o.d (guardBit (s.myGuard o.h))
        (fun j => if o.n ≤ w then laneOfV o.ty.width (a.plane o.n) j else 0) a.scaled (fun _ _ => 0) 0 0 x m b ps) ∧
  (∀ (s : State) (o : OpD), SomeLane s o.h (laneCount o.ty.width) →
    ∃ t m, exec (.dzero o) s = .next t ∧ OnlySends s t o.h [] ∧
      Sends s t 1 (.elem s.cur.unit (dstOf s.myLane.base o.d).1 (dstOf s.myLane.base o.d).2 m none none
        ((planeNums s.myLane.width).map fun p => (p, 0))) 0 0 ∧
      ∀ j, j < laneCount o.ty.width → laneOfV o.ty.width m j = if guardBit (s.myGuard o.h) j then 2 ^ o.ty.width - 1 else 0)

/-- R254 to R256: the Drone prefixes and the instructions on tangent planes. -/
def Obligations.DroneEntries : Prop := Slice0.DronePrefixes ∧ Slice0.DronePlanes


/-! ## Faults, landings, tokens, barriers and fences -/

namespace Sys2Proof.Slice0

/-- `t` differs from `s` only in the results in flight of the lane under way, of which it has one more. -/
def SendsOnly (s t : State) (lat : Nat) (x : Land) (nf tf : Nat) : Prop :=
  OnlySends s t { stamp := 0, hold := false, pred := 7, pneg := false } [] ∧ Sends s t lat x nf tf

/-- The fault event that an entry or step of the lane under way raises now (R369). -/
def IsFault (s : State) (e : FaultEv) (unit entry : Nat) (c : Code) (info : Nat) (step : Bool) : Prop :=
  e.id = s.nextId ∧ e.lane = lane0 s ∧ e.unit = unit ∧ e.entry = entry ∧ e.code = c.num ∧ e.info = info ∧ e.time = s.now ∧
    e.intv = (s.lane (lane0 s)).intdone ∧ e.precise = true ∧ e.step = step ∧ e.decideAt = s.now + 8

/-- `t` is `s` with a fault raised: an event recorded, its decision due 8 cycles on (R375), and the lane changed by
`f`; no memory, element, accumulator or register changes. -/
def Raised (s t : State) (unit entry : Nat) (c : Code) (info : Nat) (step : Bool) (f : Lane → Lane) : Prop :=
  ∃ e, IsFault s e unit entry c info step ∧ t.faults = s.faults ++ [e] ∧
    (s.now + 8, Instr.faultDecision e.id) ∈ t.evq ∧ (∀ x ∈ s.evq, x ∈ t.evq) ∧
    t = { s with lanes := t.lanes, faults := t.faults, evq := t.evq, nextId := t.nextId } ∧
    (∀ a, memGet t.mem a = memGet s.mem a) ∧ t.lane (lane0 s) = f (s.lane (lane0 s)) ∧
    ∀ l, l ≠ lane0 s → t.lane l = s.lane l

/-- No precise fault of an entry of the lane stands in this cycle already. -/
def FirstFault (s : State) : Prop :=
  ∀ e ∈ s.faults, ¬ (e.lane = lane0 s ∧ e.time = s.now ∧ e.precise = true ∧ e.step = false)

end Sys2Proof.Slice0

/-- R368, R369, R375: taking a precise fault of an entry: the event records lane, unit, entry, code, INFO, the interval
and the cycle, the region freezes, the decision is due 8 cycles later, and no other state changes. A fault of a step
stops its context instead. -/
def Obligations.TakingAFault : Prop :=
  ∀ (s : State) (c : Code) (info : Nat),
    (FirstFault s → Raised s (raise s c info) s.cur.unit s.cur.idx c info false fun l => { l with faultHold := true }) ∧
    Raised s (raiseStep s c info) 255 (s.lane (lane0 s)).sp c info true fun l => { l with seq := .faulted }

/-- R65, R368: an entry that reads a value whose tag it does not expect raises DOMAIN_TAG and sends nothing. -/
def Sys2Proof.Slice0.TagFaults : Prop :=
  (∀ (s : State) (o : OpI2), SomeLane s o.h (laneCount o.ty.width) → FirstFault s →
    ¬ TagsAgree o.tag [readI s o.ty o.a, readI s o.ty o.b] →
    ∀ k ∈ [Instr.add, .sub, .adds, .subs, .min, .max, .avg, .mul, .mulh, .and, .or, .xor, .andn, .shl, .shr, .sha, .rot],
      ∃ t, exec (k o) s = .next t ∧ Raised s t s.cur.unit s.cur.idx .domainTag 0 false fun l => { l with faultHold := true }) ∧
  (∀ (s : State) (o : OpF2), SomeLane s o.h (fLanes o.ty) → FirstFault s →
    ¬ TagsAgree o.tag ([o.a, o.b].map (readF s o.ty)) →
    ∀ k ∈ [Instr.fadd, .fsub, .fmul, .scl, .uscl],
      ∃ t, exec (k o) s = .next t ∧ Raised s t s.cur.unit s.cur.idx .domainTag 0 false fun l => { l with faultHold := true })

/-- R59, R183, R188: an entry none of whose lanes executes sends nothing and changes nothing but the FRESH bits of the
edges it names under HOLD; the forms of one, two and three sources, and those without. -/
def Sys2Proof.Slice0.NullifiedEntries : Prop :=
  (∀ (s : State) (o : OpI2), NoLane s o.h (laneCount o.ty.width) →
    ∀ k ∈ [Instr.add, .sub, .adds, .subs, .min, .max, .avg, .mul, .mulh, .and, .or, .xor, .andn, .shl, .shr, .sha, .rot],
      DoesNothing (k o) s o.h [o.a, o.b]) ∧
  (∀ (s : State) (o : OpI1), NoLane s o.h (laneCount o.ty.width) →
    ∀ k ∈ [Instr.neg, .abs, .not, .clz, .pop, .brev, .lsum, .lmax], DoesNothing (k o) s o.h [o.a]) ∧
  (∀ (s : State) (o : OpI3), NoLane s o.h (laneCount o.ty.width) →
    ∀ k ∈ [Instr.clamp, .mad, .sad, .bfx, .bfi], DoesNothing (k o) s o.h [o.a, o.b, o.c]) ∧
  (∀ (s : State) (o : OpMov), NoLane s o.h (laneCount o.ty.width) → DoesNothing (.mov o) s o.h [o.a]) ∧
  (∀ (s : State) (o : OpLi), NoLane s o.h (laneCount o.ty.width) → DoesNothing (.li o) s o.h []) ∧
  (∀ (s : State) (h : Hdr), DoesNothing (.nop h) s h [])

/-- R59, R65, R183, R188, R368: what an element entry does that does not run: nullified, or stopped by a tag. -/
def Obligations.EntriesNotRun : Prop := Slice0.NullifiedEntries ∧ Slice0.TagFaults

namespace Sys2Proof.Slice0

/-- The lane's block is neither being saved nor restored (R383, R387). -/
def Settled (l : Lane) : Prop := (∀ u w, l.stop ≠ .saving u w) ∧ ∀ u, l.stop ≠ .restoring u

end Sys2Proof.Slice0

/-- R184, R187: when the only result of a lane whose time has come lands, an element's destination takes its bits under
the mask and, where that writes any bit, its tag, the flags it carries are added to the sticky ones, and it is in flight
no more; predicates likewise; a token goes to every listener; nothing else in the core changes, and no memory does. -/
def Obligations.ResultsLand : Prop :=
  ∀ (s : State) (lane : Nat) (f : Flight), (s.lane lane).flights = [f] → f.due ≤ (s.lane lane).pos → Settled (s.lane lane) →
    let c := s.core (coreOf lane)
    let landed (t : State) (c' : Core) : Prop :=
      t = { s with lanes := t.lanes, cores := t.cores } ∧ (∀ a, memGet t.mem a = memGet s.mem a) ∧
      t.lane lane = { s.lane lane with flights := [], nflags := (s.lane lane).nflags ||| f.nflags, tflags := (s.lane lane).tflags ||| f.tflags } ∧
      (∀ l, l ≠ lane → t.lane l = s.lane l) ∧ (∀ k, k ≠ coreOf lane → t.core k = s.core k) ∧ t.core (coreOf lane) = c'
    (∀ u k latch mask bits tag planes, f.land = .elem u (some k) latch mask (some bits) (some tag) planes →
      ∃ t e, exec (.resultLand lane) s = .next t ∧ landed t (c.setElem u e) ∧
        (∀ i, i < 128 → (tblGet {} e.file k).bits.getLsbD i = if mask.getLsbD i then bits.getLsbD i else (tblGet {} (c.elem u).file k).bits.getLsbD i) ∧
        (mask ≠ 0 → (tblGet {} e.file k).scaled = tag) ∧ (∀ n, n ≠ k → tblGet {} e.file n = tblGet {} (c.elem u).file n) ∧
        (latch = false → e.latch = (c.elem u).latch) ∧
        (latch = true → (mask ≠ 0 → e.latch.scaled = tag) ∧
          ∀ i, i < 128 → e.latch.bits.getLsbD i = if mask.getLsbD i then bits.getLsbD i else (c.elem u).latch.bits.getLsbD i) ∧
        e.preds = (c.elem u).preds ∧ e.consts = (c.elem u).consts ∧ e.tokens = (c.elem u).tokens ∧ e.recs = (c.elem u).recs) ∧
    (∀ u p mask bits, f.land = .pred u p mask bits →
      ∃ t e, exec (.resultLand lane) s = .next t ∧ landed t (c.setElem u e) ∧
        (∀ i, i < 16 → (tblGet 0 e.preds p).getLsbD i = if mask.getLsbD i then bits.getLsbD i else (tblGet 0 (c.elem u).preds p).getLsbD i) ∧
        (∀ n, n ≠ p → tblGet 0 e.preds n = tblGet 0 (c.elem u).preds n) ∧ e = { c.elem u with preds := e.preds }) ∧
    (∀ ch, f.land = .token ch →
      ∃ t c', exec (.resultLand lane) s = .next t ∧ landed t c' ∧ c' = { c with elems := c'.elems } ∧
        ∀ u, u < 64 →
          (u ∈ listeners c (s.lane lane) (slotOf lane) ch → c'.elem u = { c.elem u with tokens := (c'.elem u).tokens } ∧
            ∀ n, tblGet 0 (c'.elem u).tokens n = tblGet 0 (c.elem u).tokens n + if n = ch then 1 else 0) ∧
          (u ∉ listeners c (s.lane lane) (slotOf lane) ch → c'.elem u = c.elem u))

/-- R218 to R221: `nop` does nothing; a `tokw` that fires takes one token of its channel; a `toke` emits one, one counter
cycle on, unless a listener's count could pass 255, which raises BARRIER; the generators' token entries emit once a
sequence, `tokgo` before its end and `tokend` at it, and raise the same fault, the sequence then as it was. -/
def Obligations.TokenEntries : Prop :=
  (∀ (s : State) (h : Hdr), exec (.nop h) s = .next s) ∧
  (∀ (s : State) (o : OpN),
    let c := s.core (core0 s)
    let e := c.elem s.cur.unit
    let room := ∀ u ∈ listeners c (s.lane (lane0 s)) (slotOf (lane0 s)) o.n,
      tblGet 0 (c.elem u).tokens o.n + tokensInFlight (s.lane (lane0 s)) o.n + 1 ≤ 255
    (guardBit (s.myGuard o.h) 0 = true →
      (∃ t e', exec (.tokw o) s = .next t ∧ t = { s with cores := t.cores } ∧ (∀ k, k ≠ core0 s → t.core k = s.core k) ∧
        t.core (core0 s) = c.setElem s.cur.unit e' ∧ e' = { e with tokens := e'.tokens } ∧
        ∀ n, tblGet 0 e'.tokens n = if n = o.n then tblGet 0 e.tokens n - 1 else tblGet 0 e.tokens n) ∧
      (room → ∃ t, exec (.toke o) s = .next t ∧ SendsOnly s t 1 (.token o.n) 0 0) ∧
      (¬ room → FirstFault s → ∃ t, exec (.toke o) s = .next t ∧
        Raised s t s.cur.unit s.cur.idx .barrier 0 false fun l => { l with faultHold := true })) ∧
    (guardBit (s.myGuard o.h) 0 = false → exec (.tokw o) s = .next s ∧ exec (.toke o) s = .next s)) ∧
  (∀ (s : State) (o : OpN),
    let c := s.core (core0 s)
    let row := s.cur.unit - 72
    let g := c.gen row
    let room := ∀ u ∈ listeners c (s.lane (lane0 s)) (slotOf (lane0 s)) o.n,
      tblGet 0 (c.elem u).tokens o.n + tokensInFlight (s.lane (lane0 s)) o.n + 1 ≤ 255
    let emits (i : Instr) (g' : GenTile) : Prop :=
      ∃ t, exec i s = .next t ∧ Sends s t 1 (.token o.n) 0 0 ∧ (t.core (core0 s)).gen row = g' ∧
        (∀ k, k ≠ row → (t.core (core0 s)).gen k = c.gen k) ∧ t = { s with lanes := t.lanes, cores := t.cores, nextId := t.nextId } ∧
        ∀ u, (t.core (core0 s)).elem u = c.elem u
    let faults (i : Instr) : Prop := ∃ t, exec i s = .next t ∧
      Raised s t s.cur.unit s.cur.idx .barrier 0 false fun l => { l with faultHold := true }
    (genGuard s o.h = false → exec (.tokgo o) s = .next s ∧ exec (.tokend o) s = .next s) ∧
    (genGuard s o.h = true →
      (g.st ≠ .ended → g.goSent = false → (room → emits (.tokgo o) { g with goSent := true }) ∧ (¬ room → FirstFault s → faults (.tokgo o))) ∧
      (g.st = .ended → g.endSent = false → (room → emits (.tokend o) { g with endSent := true }) ∧ (¬ room → FirstFault s → faults (.tokend o))) ∧
      ((g.st = .ended ∨ g.goSent = true) → exec (.tokgo o) s = .next s) ∧
      ((g.st ≠ .ended ∨ g.endSent = true) → exec (.tokend o) s = .next s)))

/-- R354 to R356: an arrival at a barrier that the entry's slot owns is sent, landing one counter cycle on; an entry of
another slot raises BARRIER; a wait that fires clears its arrival record and nothing else; a fence that fires leaves the
state as it is, a sequentially consistent one also forgetting the writes it waited for; nullified entries do nothing. A
fence with HOLD stands while it waits for what it orders; a `bar.aw` arrives once, where it first stands, and then stands
until the phase it waits for is over. -/
def Obligations.BarrierEntries : Prop :=
  ∀ (s : State) (o : OpN) (b : OpFence),
    let c := s.core (core0 s)
    let owned := (c.bar o.n).init = true ∧ (c.bar o.n).owner = slotOf (lane0 s)
    let forgets (i : Instr) : Prop := ∃ t e, exec i s = .next t ∧ t = { s with cores := t.cores } ∧
      (∀ k, k ≠ core0 s → t.core k = s.core k) ∧ t.core (core0 s) = c.setElem s.cur.unit e ∧
      e = { c.elem s.cur.unit with recs := e.recs } ∧
      ∀ n, tblGet {} e.recs n = if n = o.n then {} else tblGet {} (c.elem s.cur.unit).recs n
    (guardBit (s.myGuard o.h) 0 = true →
      (owned → ∃ t, exec (.barArrive o) s = .next t ∧ SendsOnly s t 1 (.arrive s.cur.unit o.n) 0 0) ∧
      (¬ owned → FirstFault s → ∃ t, exec (.barArrive o) s = .next t ∧
        Raised s t s.cur.unit s.cur.idx .barrier 0 false fun l => { l with faultHold := true }) ∧
      (s.cur.unit < 256 → forgets (.barWait o) ∧ forgets (.barAw o))) ∧
    (guardBit (s.myGuard o.h) 0 = false →
      exec (.barArrive o) s = .next s ∧ exec (.barWait o) s = .next s ∧ exec (.barAw o) s = .next s) ∧
    exec (.fence b) s = .next s ∧
    (guardBit (s.myGuard b.h) 0 = false → exec (.fenceSc b) s = .next s) ∧
    (guardBit (s.myGuard b.h) 0 = true →
      ∃ t, exec (.fenceSc b) s = .next t ∧ t = { s with lanes := t.lanes } ∧ (∀ l, l ≠ lane0 s → t.lane l = s.lane l) ∧
        t.lane (lane0 s) = { s.lane (lane0 s) with fwdWrites := [] }) ∧
    -- where they stand, before they fire: their holds, and the one arrival of a `bar.aw`
    (∀ (lane unit idx : Nat),
      let on (h : Hdr) : Prop := guardBit (guardOf h ((s.core (coreOf lane)).elem unit)) 0 = true
      let rec_ := recOf s lane unit o.n
      ((entryHold s lane unit idx (.fence b)).2 = true ↔ b.h.hold = true ∧ on b.h ∧ fenceWaits s lane b.scope.code s.nextId false = true) ∧
      ((entryHold s lane unit idx (.fenceSc b)).2 = true ↔ b.h.hold = true ∧ on b.h ∧ fenceWaits s lane b.scope.code s.nextId true = true) ∧
      (entryHold s lane unit idx (.fence b)).1 = s ∧ (entryHold s lane unit idx (.fenceSc b)).1 = s ∧
      (on o.h → unit < 256 → rec_.arrived = false → barOwned s lane o.n = true →
        ∃ t, (entryHold s lane unit idx (.barAw o)).1 = t ∧ (entryHold s lane unit idx (.barAw o)).2 = !barMet t lane unit o.n ∧
          (recOf t lane unit o.n).arrived = true ∧
          (t.core (coreOf lane)).arrivals = (s.core (coreOf lane)).arrivals ++ [{ id := s.nextId, lane, key := unit, bar := o.n, entry := idx }]) ∧
      (on o.h → unit < 256 → rec_.arrived = true → rec_.stood ≠ none →
        (entryHold s lane unit idx (.barAw o)).1 = s ∧ (entryHold s lane unit idx (.barAw o)).2 = !barMet s lane unit o.n))

/-! ## Generators and ports -/

namespace Sys2Proof.Slice0

/-- The tile after `m` takes, while the sequence lasts. -/
def takes : Nat → GenTile → Option GenTile
  | 0, g => some g
  | m + 1, g => (takes m g).bind fun g => (genTake g).map Prod.snd

/-- A port access that goes ahead: the guard holds for a lane, the generator gives an offset, the binding exists, and
every byte is aligned, within the face and translated (R300 to R305). `s1` is the state that translating leaves, and
`ps` the runs of bytes, each with its address. -/
structure PortGoes (s : State) (o : OpPort) (indexed : Bool) (acc : Acc3) (x : Bnd) (off : Int) (g' : GenTile) (s1 : State)
    (ps : List Piece) : Prop where
  lane : ∃ j, j < portLanes o ∧ guardBit (guardOf o.h (portElem s)) j = true
  take : genTake (s.myCore.gen (s.myLane.org.1 + o.agen)) = some (off, g')
  bound : s.portBnd (lane0 s) (s.cur.unit - 64) o.bsel = some x
  ready : portPrep s (lane0 s) (s.cur.unit - 64) o indexed acc x off ((List.range (portLanes o)).filter (guardBit (guardOf o.h (portElem s))))
    (portElem s).latch.bits = .ok s1 ps

/-- What every port access that goes ahead leaves as translating left it: memory, and in the core the elements, operand
memory, ring and barriers; its generator has taken one offset, the others none. -/
structure PortFrame (s t s1 : State) (o : OpPort) (g' : GenTile) : Prop where
  bytes : ∀ a, memGet t.mem a = memGet s1.mem a
  elems : ∀ u, (t.core (core0 s)).elem u = (s1.core (core0 s)).elem u
  opm : (t.core (core0 s)).opm = (s1.core (core0 s)).opm
  ring : (t.core (core0 s)).ring = (s1.core (core0 s)).ring
  bars : (t.core (core0 s)).bars = (s1.core (core0 s)).bars
  taken : (t.core (core0 s)).gen (s.myLane.org.1 + o.agen) = g'
  gens : ∀ r, r ≠ s.myLane.org.1 + o.agen → (t.core (core0 s)).gen r = (s1.core (core0 s)).gen r
  regs : (t.lane (lane0 s)).q = (s1.lane (lane0 s)).q ∧ (t.lane (lane0 s)).sp = (s1.lane (lane0 s)).sp
  others : ∀ k, k ≠ core0 s → t.core k = s1.core k

/-- A queue entry apart from whether and when it was sent. -/
def unsent (e : WEnt) : WEnt := { e with sent := none, tag := none }

/-- One more entry stands at the back of the port's queue; the others stay, but that the head may be sent (R310). -/
def Queued (s t s1 : State) (x : Bnd) (k : WKind) (o : OpPort) (ps : List Piece) (e : WEnt) : Prop :=
  (∃ q, ((t.core (core0 s)).port (s.cur.unit - 64)).queue = q ++ [e] ∧
    q.map unsent = (((s1.core (core0 s)).port (s.cur.unit - 64)).queue).map unsent) ∧
    e.kind = k ∧ e.lane = lane0 s ∧ e.bind = x.idx ∧ e.ty = o.ty ∧ e.size = o.size ∧ e.entry = s.cur.idx ∧ e.pieces = ps

/-- A piece, and a request, apart from when their bytes are to have come (R134, R184). -/
def undueP (p : Piece) : Piece := { p with due := none }
def undue (r : Req) : Req := { r with pieces := r.pieces.map undueP }

/-- One request more is out in the core, for these runs of bytes. -/
def Asks (u t : Core) (r : Req) (ps : List Piece) : Prop :=
  t.reqs.map undue = u.reqs.map undue ++ [undue r] ∧ r ∈ t.reqs ∧ r.pieces.map undueP = ps.map undueP

/-- The least latency of an access (R184, R395): 4 counter cycles in the scratchpad, 24 elsewhere. -/
def portLat (s : State) (ps : List Piece) : Nat :=
  if (ps.all fun p => match s.homeOf p.pa with | .spad _ => true | _ => false) = true then 4 else 24

end Sys2Proof.Slice0

/-- R305: a sequence of a generator whose counts are at least one: take m gives the sum of the strides, each times its
digit of m in the mixed radix of the counts, counter 0 least; after the product of the counts it has ended, and a take
of an ended sequence gives nothing. -/
def Sys2Proof.Slice0.GeneratorOffsets : Prop :=
  ∀ (g : GenTile),
    let g0 := genRun g
    let n (k : Nat) : Nat := (genCtr g0 k).n
    let st (k : Nat) : Int := (genCtr g0 k).s
    let below (k : Nat) : Nat := if k = 0 then 1 else if k = 1 then n 0 else if k = 2 then n 0 * n 1 else n 0 * n 1 * n 2
    (∀ k, k < 4 → 1 ≤ n k) →
    (∀ m, m < n 0 * n 1 * n 2 * n 3 → ∃ gm off gn, takes m g0 = some gm ∧ genTake gm = some (off, gn) ∧
      let d (k : Nat) : Int := ((m / below k % n k : Nat) : Int) * st k
      off = d 0 + d 1 + d 2 + d 3) ∧
    (∃ ge, takes (n 0 * n 1 * n 2 * n 3) g0 = some ge ∧ ge.st = .ended ∧ genTake ge = none)

/-- R304, R306: `cnt` and `step` send their value to a counter of their tile, one counter cycle on, under bit 0 of the
guard in the element of column 7 of their row; a value that lands while the sequence runs waits for its end, and one
that lands otherwise takes effect with all indices zero. -/
def Sys2Proof.Slice0.GeneratorSettings : Prop :=
  (∀ (s : State) (o : OpGen),
    let row := s.cur.unit - 72
    let runs : Bool := decide (((s.core (core0 s)).gen row).st = .run)
    (genGuard s o.h = true →
      (∃ t, exec (.cnt o) s = .next t ∧ SendsOnly s t 1 (.gen row o.ctr false runs o.imm) 0 0) ∧
      (∃ t, exec (.step o) s = .next t ∧ SendsOnly s t 1 (.gen row o.ctr true runs o.imm) 0 0)) ∧
    (genGuard s o.h = false → exec (.cnt o) s = .next s ∧ exec (.step o) s = .next s)) ∧
  (∀ (g : GenTile) (k : Nat) (v : Int), k < 4 →
    (∀ j, genCtr (genLand g k true true v) j = if j = k then { genCtr g k with ps := some v } else genCtr g j) ∧
    (∀ j, genCtr (genLand g k false true v) j = if j = k then { genCtr g k with pn := some v.toNat } else genCtr g j) ∧
    (∀ j, j < 4 → genCtr (genLand g k true false v) j = { genCtr g j with i := 0, s := if j = k then v else (genCtr g j).s }) ∧
    (∀ j, j < 4 → genCtr (genLand g k false false v) j = { genCtr g j with i := 0, n := if j = k then v.toNat else (genCtr g j).n }) ∧
    ((genLand g k false false v).st = .ended ↔ ∃ j, j < 4 ∧ (genCtr (genLand g k false false v) j).n = 0) ∧
    (genLand g k false false v).st ≠ .run)

/-- R304 to R306: the offsets of a generator, and its settings. -/
def Obligations.Generators : Prop := Slice0.GeneratorOffsets ∧ Slice0.GeneratorSettings

/-- R184, R300, R308: a load that goes ahead makes one request for the bytes its lanes name, with its reply due on the
port tile's latch, writes no memory, and takes one offset of its generator; nullified, or with its sequence ended, it
does nothing; where its bytes are not aligned, leave the face, or do not translate, it raises that fault. -/
def Obligations.PortLoads : Prop :=
  ∀ (s : State) (o : OpPort) (i : Instr) (indexed : Bool), ((i = .ld o ∧ indexed = false) ∨ (i = .ldg o ∧ indexed = true)) →
    (∀ x off g' s1 ps, PortGoes s o indexed .read x off g' s1 ps →
      ∃ t r f, exec i s = .next t ∧ PortFrame s t s1 o g' ∧
        Asks (s1.core (core0 s)) (t.core (core0 s)) r ps ∧ r.unit = s.cur.unit - 64 ∧ r.lane = lane0 s ∧
        r.ty = o.ty ∧ r.atomic = false ∧ r.store = false ∧ r.ready = false ∧
        (t.lane (lane0 s)).flights = (s1.lane (lane0 s)).flights ++ [f] ∧ f.land = .port (s.cur.unit - 64) r.id ∧
        f.due = (s1.lane (lane0 s)).pos + portLat s ps) ∧
    ((∀ j, j < portLanes o → guardBit (guardOf o.h (portElem s)) j = false) → exec i s = .next s) ∧
    (genTake (s.myCore.gen (s.myLane.org.1 + o.agen)) = none → exec i s = .next s) ∧
    (∀ x off g' s1 c n, (∃ j, j < portLanes o ∧ guardBit (guardOf o.h (portElem s)) j = true) →
      genTake (s.myCore.gen (s.myLane.org.1 + o.agen)) = some (off, g') →
      s.portBnd (lane0 s) (s.cur.unit - 64) o.bsel = some x →
      portPrep s (lane0 s) (s.cur.unit - 64) o indexed .read x off ((List.range (portLanes o)).filter (guardBit (guardOf o.h (portElem s))))
        (portElem s).latch.bits = .bad s1 c n → exec i s = .next (raise s1 c n))

/-- R308, R310: a store that goes ahead puts one entry at the back of its port's write queue, whose bytes are its lanes'
bits converted to the stored format; memory changes only when that entry performs. A lane that its policy faults raises
CONVERT, and then nothing is queued. -/
def Obligations.PortStores : Prop :=
  ∀ (s : State) (o : OpPort) (i : Instr) (indexed : Bool), ((i = .st o ∧ indexed = false) ∨ (i = .stg o ∧ indexed = true)) →
    ∀ x off g' s1 ps, PortGoes s o indexed .write x off g' s1 ps →
      let v := (portElem s).latch
      let data (p : Piece) : List Byte := leBytes p.n ((storeBits o p v).getD (0, 0, 0)).1
      ((∀ p ∈ ps, (storeBits o p v).isSome = true) →
        ∃ t e, exec i s = .next t ∧ PortFrame s t s1 o g' ∧
          Queued s t s1 x .store o (ps.map fun p => { p with data := data p }) e ∧ e.req = none) ∧
      (¬ (∀ p ∈ ps, (storeBits o p v).isSome = true) → exec i s = .next (raise s .convert))

/-- R309, R357: an atomic that goes ahead puts one entry of its kind at the back of the write queue and makes the
request that its old value answers, on the port tile's latch; a stored format other than the lane's raises
RESERVED_COMBO. -/
def Sys2Proof.Slice0.PortAtomics : Prop :=
  ∀ (s : State) (o : OpPort) (i : Instr) (k : WKind),
    ((i, k) ∈ [(Instr.aadd o, WKind.aadd), (.amin o, .amin), (.atomicMax o, .amax), (.aand o, .aand), (.aor o, .aor), (.axor o, .axor),
      (.axch o, .axch), (.acas o, .acas)]) →
    ∀ x off g' s1 ps, PortGoes s o false .atomic x off g' s1 ps →
      ((∀ p ∈ ps, pairFmt o.ty p.fmt = .raw) →
        ∃ t e r f, exec i s = .next t ∧ PortFrame s t s1 o g' ∧
          Queued s t s1 x k o (operandPieces o (portElem s).latch (k == .acas) ps) e ∧ e.req = some r.id ∧ e.scope = o.scope.code ∧
          Asks (s1.core (core0 s)) (t.core (core0 s)) r ps ∧ r.atomic = true ∧ r.unit = s.cur.unit - 64 ∧
          (t.lane (lane0 s)).flights = (s1.lane (lane0 s)).flights ++ [f] ∧ f.land = .port (s.cur.unit - 64) r.id) ∧
      (¬ (∀ p ∈ ps, pairFmt o.ty p.fmt = .raw) → exec i s = .next (raise s .reservedCombo))

/-- R309: what an atomic or reduction leaves of an old value and an operand, for the integer types, modulo 2^w. -/
def Sys2Proof.Slice0.AtomicResults : Prop :=
  ∀ (t : ITy) (old v cmp : Nat), old < 2 ^ t.width → v < 2 ^ t.width →
    let f (k : WKind) : Nat := atomicNew k (.int t) old v cmp
    f .aadd = wrapTo t.width (valOf t old + valOf t v) ∧ f .radd = f .aadd ∧
    valOf t (f .amin) = min (valOf t old) (valOf t v) ∧ f .rmin = f .amin ∧
    valOf t (f .amax) = max (valOf t old) (valOf t v) ∧ f .rmax = f .amax ∧
    (∀ i, (f .aand).testBit i = (old.testBit i && v.testBit i)) ∧ (∀ i, (f .aor).testBit i = (old.testBit i || v.testBit i)) ∧
    (∀ i, (f .axor).testBit i = (old.testBit i != v.testBit i)) ∧ f .axch = v ∧
    (old = cmp → f .acas = v) ∧ (old ≠ cmp → f .acas = old)

/-- R309, R357: the atomics of a port, and what an atomic leaves. -/
def Obligations.Atomics : Prop := Slice0.PortAtomics ∧ Slice0.AtomicResults

/-- R358, R360, R361: a reduction sends no reply. A floating-point `radd` adds its lanes to the slot's reduction buffer in
counter order, unless that would need more than 64 lines, which raises BARRIER; every other reduction joins the youngest
waiting entry of its kind and line, or takes an entry of its own. -/
def Obligations.PortReductions : Prop :=
  ∀ (s : State) (o : OpPort), ∀ x off g' s1 ps, PortGoes s o false .atomic x off g' s1 ps → (∀ p ∈ ps, pairFmt o.ty p.fmt = .raw) →
    let ops := operandPieces o (portElem s).latch false ps
    let queue := ((s1.core (core0 s)).port (s.cur.unit - 64)).queue
    (∀ i k, ((i, k) = (Instr.rmin o, WKind.rmin) ∨ (i, k) = (.rmax o, .rmax) ∨ ((i, k) = (.radd o, .radd) ∧ o.ty.isInt = true)) →
      (∀ e, queue.getLast? = some e → mergesWith e k o x.idx ops = true →
        ∃ t, exec i s = .next t ∧ PortFrame s t s1 o g' ∧
          ((t.core (core0 s)).port (s.cur.unit - 64)).queue = queue.dropLast ++ [{ e with pieces := mergePieces k o.ty e.pieces ops }]) ∧
      ((∀ e, queue.getLast? = some e → mergesWith e k o x.idx ops = false) →
        ∃ t e, exec i s = .next t ∧ PortFrame s t s1 o g' ∧ Queued s t s1 x k o ops e ∧ e.req = none)) ∧
    (∀ ty, o.ty = .flt ty → ∃ add : List Partial, add.length = ps.length ∧
      add.map (·.pa) = ps.map (·.pa) ∧ add.map (·.bits) = ops.map (fun p => leNat p.data) ∧
      let all := (s1.lane (lane0 s)).partials ++ add
      ((all.map fun p => p.pa / 64).eraseDups.length ≤ 64 →
        ∃ t, exec (.radd o) s = .next t ∧ PortFrame s t s1 o g' ∧ (t.lane (lane0 s)).partials = all ∧
          ((t.core (core0 s)).port (s.cur.unit - 64)).queue = queue) ∧
      (64 < (all.map fun p => p.pa / 64).eraseDups.length → exec (.radd o) s = .next (raise s .barrier)))

/-! ## Memory, and the agents around the compute dies -/

/-- R317 to R319: after a write, each byte written reads back under the same key as it was written, but that DRAM without
its supply keeps nothing (R102; log 140); every other byte reads under that key as before, and outside DRAM every other
byte of memory is as it was; nothing but memory, its line tags and keys, the slot count and the marks of late data
changes. -/
def Obligations.BytesWritten : Prop :=
  ∀ (s : State) (key : Nat) (ful : Bool) (pa : Nat) (bs : List Byte),
    let t := s.writeBytes key ful pa bs
    t = { s with mem := t.mem, tags := t.tags, lineKeys := t.lineKeys, dramSlots := t.dramSlots, lateData := t.lateData } ∧
    (s.memOff = false ∨ (∀ d, s.homeOf pa ≠ .dram d) → ∀ k, k < bs.length → some (t.readByte key (pa + k)) = bs[k]?) ∧
    (∀ d, s.homeOf pa = .dram d → s.memOff = true → t.mem = s.mem) ∧
    (∀ a, (a < pa ∨ pa + bs.length ≤ a) → t.readByte key a = s.readByte key a) ∧
    ((∀ d, s.homeOf pa ≠ .dram d) → t.tags = s.tags ∧ t.lineKeys = s.lineKeys ∧
      ∀ a, (a < pa ∨ pa + bs.length ≤ a) → memGet t.mem a = memGet s.mem a)

namespace Sys2Proof.Slice0

/-- `t` differs from `s` in function `fn` and in the count of free values alone. -/
def FnOnly (s t : State) (fn : Nat) : Prop :=
  t = { s with fns := t.fns, freeCtr := t.freeCtr } ∧ ∀ n, n ≠ fn → t.fn n = s.fn n

/-- A function that is up (R98) answers a request that stands in order, its state then `after` with a reply added that
begins with `body`; it answers one out of order with an error alone; one that is not up does nothing. -/
def Replies (s : State) (fn : Nat) (i : Instr) (inOrder : Prop) (after : HostFn) (body : List Byte) : Prop :=
  let x := s.fn fn
  (fnUp s fn = true → inOrder → ∃ t tail, exec i s = .next t ∧ FnOnly s t fn ∧
    t.fn fn = { after with replies := x.replies ++ [body ++ tail], transcript := (t.fn fn).transcript }) ∧
  (fnUp s fn = true → ¬ inOrder → ∃ t err, exec i s = .next t ∧ FnOnly s t fn ∧ t.fn fn = { x with replies := x.replies ++ [err] }) ∧
  (fnUp s fn = false → exec i s = .next s)

end Sys2Proof.Slice0

/-- R97, R98: what each request of a function's responder does to its session, and that an IDE_KM message and a move of
the TDI take effect over a finished session alone; what needs the attestation keys is in error once they are erased
(R90). Which order SPDM asks, and what error replies hold, is the model's
reading (the log's row on attestation). -/
def Obligations.AttestationRequests : Prop :=
  ∀ (s : State) (fn : Nat),
    let x := s.fn fn
    Replies s fn (.getVersion fn) True { x with version := true, caps := false, algs := false, session := none, finished := false } [] ∧
    Replies s fn (.getCapabilities fn) (x.version = true) { x with caps := true } [] ∧
    (∀ algs, Replies s fn (.negotiateAlgorithms fn algs) (x.caps = true ∧ ∀ k, k < 4 → k ∈ algs) { x with algs := true } []) ∧
    Replies s fn (.getDigests fn) (x.algs = true) x (sha512 (Config.certChain fn)) ∧
    Replies s fn (.getCertificate fn) (x.algs = true) x (Config.certChain fn) ∧
    (∀ nonce, Replies s fn (.challenge fn nonce) (x.algs = true ∧ s.crown.attest = true) x (signedEd s (leBytes 32 nonce))) ∧
    (∀ nonce, Replies s fn (.getMeasurements fn nonce) (x.algs = true ∧ s.crown.attest = true) x (evidence s nonce) ∧
      (evidence s nonce).take 8 = [0x42, 0x59, 0x52, 0x41, 0x4C, 0x45, 0x56, 0x31] ∧
      ((evidence s nonce).drop 8).take 32 = leBytes 32 nonce) ∧
    (∀ pub, ∃ key, Replies s fn (.keyExchange fn pub) (x.algs = true ∧ s.crown.attest = true) { x with session := some key, finished := false, keyPub := pub }
      (signedEd s (leBytes 8 x.transcript))) ∧
    (∀ mac, Replies s fn (.finish fn mac) (x.finished = false ∧ ∃ k, x.session = some k ∧ mac = Config.finishMac k x.transcript)
      { x with finished := true } []) ∧
    Replies s fn (.endSession fn) (x.session ≠ none) { x with session := none, finished := false } [] ∧
    (∀ req, Replies s fn (.vendorDefinedRequest fn req) (x.algs = true) x []) ∧
    (∀ stream key, (fnUp s fn = true → x.finished = true → stream < 5 →
        ∃ t, exec (.ideKm fn stream key) s = .next t ∧ FnOnly s t fn ∧ t.fn fn = { x with ide := (t.fn fn).ide } ∧
          ∀ n, tblGet 0 (t.fn fn).ide n = if n = stream then key else tblGet 0 x.ide n) ∧
      (¬ (fnUp s fn = true ∧ x.finished = true ∧ stream < 5) → exec (.ideKm fn stream key) s = .next s)) ∧
    (∀ goal,
      let legal := (x.tdi = .configUnlocked ∧ goal = .configLocked) ∨ (x.tdi = .configLocked ∧ goal = .run) ∨ goal = .configUnlocked
      (fnUp s fn = true → x.finished = true → legal →
        ∃ t, exec (.tdispRequest fn goal) s = .next t ∧ FnOnly s t fn ∧ t.fn fn = { x with tdi := goal }) ∧
      (¬ (fnUp s fn = true ∧ x.finished = true ∧ legal) → exec (.tdispRequest fn goal) s = .next s))

/-- R108, R109: the port of the best Announce is chosen; the first accepted Sync sets the epoch, which no later one
moves; a later one removes its phase error by the rate alone, within ±50,000; LOCKED comes after eight in a row within
50 ns, HOLDOVER after 3 s with none, and the next returns to LOCKING; FAR and GMCHG are sticky and each notifies the
Reed cores when set. Package time itself never moves by them. -/
def Obligations.PackageTime : Prop :=
  (∀ (s : State) (m : AnnMsg),
    (m.domain = 0 → m.port < 4 → ∃ t b v, exec (.announce m) s = .next t ∧ t = { s with ptime := t.ptime } ∧
      t.ptime = { s.ptime with prios := t.ptime.prios, port := some b } ∧ (m.port, (m.prio, m.gm)) ∈ t.ptime.prios ∧
      (∀ p, p ≠ m.port → tblGet (0, 0) t.ptime.prios p = tblGet (0, 0) s.ptime.prios p) ∧
      (b, v) ∈ t.ptime.prios ∧ ∀ y ∈ t.ptime.prios, v.1 ≤ y.2.1) ∧
    (m.domain ≠ 0 → exec (.announce m) s = .next s)) ∧
  (∀ (s : State) (port delay : Nat), port < 4 → ∃ t, exec (.peerDelay port delay) s = .next t ∧ t = { s with ptime := t.ptime } ∧
    t.ptime = { s.ptime with delays := t.ptime.delays } ∧ ∀ p, tblGet 0 t.ptime.delays p = if p = port then delay else tblGet 0 s.ptime.delays p) ∧
  (∀ (s : State) (m : SyncMsg),
    let p := s.ptime
    let accepted := m.domain = 0 ∧ -5 ≤ m.logInt ∧ m.logInt ≤ 0 ∧ p.port = some m.port
    let g := m.gptp + tblGet 0 p.delays m.port
    (¬ accepted → exec (.sync m) s = .next s) ∧
    (accepted → p.synced = false → ∃ t, exec (.sync m) s = .next t ∧ t = { s with ptime := t.ptime, evq := t.evq } ∧
      (s.now + 3600000000, Instr.holdover) ∈ t.evq ∧
      t.ptime = { p with epoch := (BitVec.ofInt 64 ((g : Int) - stampNs s)).toNat, st := 1, synced := true, gm := m.gm, good := 0, lastSync := s.now }) ∧
    (accepted → p.synced = true →
      let err : Int := (BitVec.ofInt 64 ((g : Int) - p.epoch - stampNs s)).toInt
      let near := -50 ≤ err ∧ err ≤ 50
      let far := (p.st = 2 ∨ p.st = 3) ∧ (err < -1000000 ∨ 1000000 < err)
      ∃ t, exec (.sync m) s = .next t ∧ t = { s with ptime := t.ptime, evq := t.evq, crown := t.crown, freeCtr := t.freeCtr } ∧
        (s.now + 3600000000, Instr.holdover) ∈ t.evq ∧ t.crown = { s.crown with notices := t.crown.notices } ∧
        t.ptime = { p with st := t.ptime.st, good := t.ptime.good, rate := t.ptime.rate, far := t.ptime.far, gmchg := t.ptime.gmchg, gm := m.gm, lastSync := s.now } ∧
        -50000 ≤ t.ptime.rate ∧ t.ptime.rate ≤ 50000 ∧
        (p.st = 3 → t.ptime.st = 1) ∧ (p.st = 2 → t.ptime.st = 2) ∧ (p.st = 1 → (near ∧ 7 ≤ p.good → t.ptime.st = 2) ∧ (¬ (near ∧ 7 ≤ p.good) → t.ptime.st = 1)) ∧
        (near → t.ptime.good = if p.st = 3 then 1 else p.good + 1) ∧ (¬ near → t.ptime.good = 0) ∧
        (t.ptime.far = true ↔ p.far = true ∨ far) ∧ (t.ptime.gmchg = true ↔ p.gmchg = true ∨ m.gm ≠ p.gm) ∧
        (Notice.far ∈ t.crown.notices ↔ Notice.far ∈ s.crown.notices ∨ (far ∧ p.far = false)) ∧
        (Notice.gmchg ∈ t.crown.notices ↔ Notice.gmchg ∈ s.crown.notices ∨ (m.gm ≠ p.gm ∧ p.gmchg = false)))) ∧
  (∀ s : State,
    let due := s.ptime.synced = true ∧ (s.ptime.st = 1 ∨ s.ptime.st = 2) ∧ s.ptime.lastSync + 3600000000 ≤ s.now
    (due → exec .holdover s = .next { s with ptime := { s.ptime with st := 3 } }) ∧ (¬ due → exec .holdover s = .next s))

namespace Sys2Proof.Slice0

/-- What an agent's store does at `pa` (R29, R102, R139, R396): the store itself, its wait for a sleeping die, or the
refusal that its agent is told. -/
def Stores (s : State) (i : Instr) (slot pa : Nat) (bytes : List Byte) : Prop :=
  (storable s pa bytes.length = true → s.asleep pa = false →
    ∃ u : State, u = { s with drams := u.drams } ∧ exec i s = .next (u.writeBytes 0 false pa bytes)) ∧
  (storable s pa bytes.length = true → s.asleep pa = true → exec i s = .next { s with heldStores := s.heldStores ++ [(pa, bytes)] }) ∧
  (storable s pa bytes.length = false → exec i s = .next { s with answers := s.answers ++ [(slot, .permission)] })

/-- What an agent's load does: its bytes are answered, now or when a sleeping die runs, or it is told PERMISSION. -/
def LoadsBytes (s : State) (i : Instr) (slot pa n : Nat) : Prop :=
  (agentReach s pa n = true → s.asleep pa = false → ∃ t, exec i s = .next t ∧
    t = { s with drams := t.drams, dramSlots := t.dramSlots, answers := s.answers ++ [(slot, .bytes (s.readBytes 0 pa n))] }) ∧
  (agentReach s pa n = true → s.asleep pa = true → exec i s = .next { s with sleeping := s.sleeping ++ [(slot, pa, n)] }) ∧
  (agentReach s pa n = false → exec i s = .next { s with answers := s.answers ++ [(slot, .permission)] })

/-- A register read gives its little-endian bytes (R14, R130, R401, R403). -/
def ReadsReg (s : State) (i : RegRead → Instr) (slot : Nat) : Prop :=
  let gives (r : RegRead) (bs : List Byte) : Prop := exec (i r) s = .next { s with answers := s.answers ++ [(slot, .bytes bs)] }
  (∀ lane n, (s.crown.live.testBit (dieOf lane) = true → gives (.sys lane n) (leBytes 8 (sysRead s lane n))) ∧
    (s.crown.live.testBit (dieOf lane) = false →
      exec (i (.sys lane n)) s = .next { s with answers := s.answers ++ [(slot, .permission)] })) ∧
  (∀ off n, gives (.manifest off n) (((manifest s).drop off).take n) ∧ gives (.reloc off n) (((relocTable s).drop off).take n)) ∧
  (∀ q, gives (.queue q 0) (leBytes 8 (s.queue q).base) ∧ gives (.queue q 1) (leBytes 8 (s.queue q).size) ∧
    gives (.queue q 2) (leBytes 8 (s.queue q).head) ∧ gives (.queue q 3) (leBytes 8 (s.queue q).tail) ∧
    gives (.queue q 4) (leBytes 8 (s.queue q).lost)) ∧
  ∀ n, gives (.busy n) (leBytes 8 (if (tblGet {} s.mail n).busy = true then 1 else 0))

/-- A command posted in slot `n` (R92, R403): ignored while the slot is busy; else it waits for the map-out, or is
accepted into the I/O stream, to act at its decision tick; an operation that is reserved only completes there. -/
def Posts (s : State) (i : Instr) (n tag : Nat) (c : Cmd) : Prop :=
  let d := max (s.tick + 16) s.ioLast
  let noted (t : State) : Prop := ∀ k, tblGet {} t.mail k = if k = n then { busy := true, tag, cmd := some c } else tblGet {} s.mail k
  let waits := waitsMap c = true ∧ s.crown.mapped = false
  ((tblGet {} s.mail n).busy = true → exec i s = .next s) ∧
  ((tblGet {} s.mail n).busy = false → waits → ∃ t, exec i s = .next t ∧ t = { s with mail := t.mail } ∧ noted t) ∧
  ((tblGet {} s.mail n).busy = false → ¬ waits → ∀ j, cmdEvent n tag c = some j →
    ∃ t, exec i s = .next t ∧
      t = { s with mail := t.mail, evq := t.evq, nextId := t.nextId, trains := t.trains, ioLast := d } ∧
      ((∀ x, c ≠ .resync x) → t.trains = s.trains) ∧ (tickStart d, j) ∈ t.evq ∧ (∀ x ∈ s.evq, x ∈ t.evq) ∧ noted t) ∧
  ((tblGet {} s.mail n).busy = false → ∀ op, c = .reserved op →
    ∃ t p, exec i s = .next t ∧ t = { s with mail := t.mail, evq := t.evq, nextId := t.nextId, pends := s.pends ++ [p], ioLast := d } ∧
      p.slot = n ∧ p.tag = tag ∧ p.cmd = c ∧ p.status = 5 ∧ (tickStart d, Instr.commandCompletion p.id) ∈ t.evq ∧ noted t)

end Sys2Proof.Slice0

/-- R14, R29, R102, R139, R347, R396, R403, R407: a Reed core, the host and a DMA engine load and store memory under data
key 0, RAW, where they may, and are told PERMISSION elsewhere; a core and the host read registers and post commands in
their own slots alone; launch packets go to PD0; a write of HEAD moves it; who is not up does nothing. How a refusal is
told is the model's reading (log 146). -/
def Obligations.OutsideAgents : Prop :=
  (∀ (s : State) (core fn : Nat) (op : ReedOp),
    (reedUp s = false → exec (.reedCoreAccess core op) s = .next s) ∧ (fnUp s fn = false → exec (.hostAccess fn op) s = .next s)) ∧
  (∀ (s : State) (core fn pa : Nat) (bytes : List Byte), (∀ d off, s.homeOf pa ≠ .sys d off) →
    (reedUp s = true → Stores s (.reedCoreAccess core (.mem (.store pa bytes))) core pa bytes) ∧
    (fnUp s fn = true → Stores s (.hostAccess fn (.mem (.store pa bytes))) (16 + fn) pa bytes)) ∧
  (∀ (s : State) (core fn pa n : Nat),
    (reedUp s = true → LoadsBytes s (.reedCoreAccess core (.mem (.load pa n))) core pa n) ∧
    (fnUp s fn = true → LoadsBytes s (.hostAccess fn (.mem (.load pa n))) (16 + fn) pa n)) ∧
  (∀ (s : State) (core fn : Nat),
    (reedUp s = true → ReadsReg s (fun r => .reedCoreAccess core (.read r)) core) ∧
    (fnUp s fn = true → ReadsReg s (fun r => .hostAccess fn (.read r)) (16 + fn))) ∧
  (∀ (s : State) (d off fn core pa : Nat) (bytes : List Byte), s.homeOf pa = .sys d off → core < 16 →
    (reedUp s = true → s.crown.live.testBit d = true → off = 0x1000 →
      ∃ t, exec (.reedCoreAccess core (.mem (.store pa bytes))) s = .next t ∧ t = { s with evq := t.evq } ∧
        (s.now + 1, Instr.hotThreshWrite d (BitVec.ofNat 64 (leNat (bytes.take 8)))) ∈ t.evq) ∧
    (reedUp s = true → s.crown.live.testBit d = true → off ≠ 0x1000 →
      ∃ v, exec (.reedCoreAccess core (.mem (.store pa bytes))) s = .next { s with agenda := s.agenda ++ [.event (.registerWrite off v)] }) ∧
    (reedUp s = true → s.crown.live.testBit d = false →
      exec (.reedCoreAccess core (.mem (.store pa bytes))) s = .next { s with answers := s.answers ++ [(core, .permission)] }) ∧
    (fnUp s fn = true → exec (.hostAccess fn (.mem (.store pa bytes))) s = .next s)) ∧
  (∀ (s : State) (n fn tag : Nat) (c : Cmd),
    (reedUp s = true → Posts s (.reedCoreAccess n (.post n tag c)) n tag c ∧
      ∀ m, m ≠ n → exec (.reedCoreAccess n (.post m tag c)) s = .next { s with answers := s.answers ++ [(n, .permission)] }) ∧
    (fnUp s fn = true → Posts s (.hostAccess fn (.post (16 + fn) tag c)) (16 + fn) tag c ∧
      ∀ m, m ≠ 16 + fn → exec (.hostAccess fn (.post m tag c)) s = .next { s with answers := s.answers ++ [(16 + fn, .permission)] })) ∧
  (∀ (s : State) (core fn q v : Nat) (bytes : List Byte),
    (reedUp s = true →
      (bytes.length = 576 → s.crown.mapped = true →
        exec (.reedCoreAccess core (.launch bytes)) s = .next { s with agenda := s.agenda ++ [.event (.launchPacket bytes)] }) ∧
      (bytes.length = 576 → s.crown.mapped = false →
        exec (.reedCoreAccess core (.launch bytes)) s = .next { s with lnchBuf := s.lnchBuf ++ [bytes] }) ∧
      (bytes.length ≠ 576 → exec (.reedCoreAccess core (.launch bytes)) s = .next s) ∧
      (q < 3 → ∃ t, exec (.reedCoreAccess core (.queueHead q v)) s = .next t ∧ t = { s with fq := t.fq, nq := t.nq, rq := t.rq, agenda := t.agenda } ∧
        ∀ k, k < 3 → t.queue k = if k = q then { s.queue q with head := v % 2 ^ 32 } else s.queue k)) ∧
    exec (.hostAccess fn (.launch bytes)) s = .next s ∧ exec (.hostAccess fn (.queueHead q v)) s = .next s) ∧
  (∀ (s : State) (engine src dst n : Nat),
    let made (refused : Bool) : List Dma := s.dmas ++ [{ engine := engine, src := src, dst := dst, n := n, refused := refused }]
    let ok := storable s dst n = true ∧ agentReach s src n = true
    let got := s.readBytes 0 src n
    (¬ ok → exec (.dmaWrite engine src dst n) s = .next { s with dmas := made true }) ∧
    (ok → s.asleep src = true → ∃ t, exec (.dmaWrite engine src dst n) s = .next t ∧ t = { s with evq := t.evq } ∧
      (s.now + 1, Instr.dmaWrite engine src dst n) ∈ t.evq) ∧
    (ok → s.asleep src = false →
      ∃ u : State, u = { s with dmas := made false, drams := u.drams, dramSlots := u.dramSlots } ∧
        (s.asleep dst = false → exec (.dmaWrite engine src dst n) s = .next (u.writeBytes 0 false dst got)) ∧
        (s.asleep dst = true → exec (.dmaWrite engine src dst n) s = .next { u with heldStores := s.heldStores ++ [(dst, got)] })))

/-! ## The Crown -/

namespace Sys2Proof.Slice0

/-- R90, R106: tampering takes the package to QUARANTINE: every compute die off with its domain, every key and session
gone, recovery verified by PD1's Crown. Fuses and recovery images. -/
def QuarantineAndImages : Prop :=
  (∀ s : State, ∃ t, exec .tamper s = .next t ∧ t.crown.tamper = true ∧ t.crown.sec = 3 ∧ t.crown.crownDebug = 0 ∧ t.crown.attest = false ∧
    t.crown.d2Pending = [] ∧ s.keyGens < t.keyGens ∧ t.memOff = true ∧ (∀ a, a < 2 ^ 37 → memGet t.mem a = 0) ∧
    (∀ d, d < 4 → (t.die d).power = .off ∧ (t.die d).debug = 0 ∧ (t.fn d).session = none ∧ (t.fn d).ide = []) ∧
    (t.crown.up = true ↔ s.crown.pd1Ok = true ∧ ∃ v, imageOk 2 0 s.crown.recovery = some v) ∧ t.now = s.now ∧ t.ptime = s.ptime) ∧
  (∀ s : State, exec .lifecycleFuseBlow s = .next { s with crown := { s.crown with lifecycleBlown := true } }) ∧
  (∀ (s : State) (kind : Nat) (bytes : List Byte),
    let takes (svn : Nat) := s.crown.sec = 3 ∧ s.crown.up = true ∧ (kind = 1 ∨ kind = 3) ∧ imageOk kind 0 bytes = some svn
    (∀ svn, takes svn → exec (.recoveryImage kind bytes) s = .next { s with crown := { s.crown with
      slotA := if kind = 1 then bytes else s.crown.slotA, firmware := if kind = 3 then bytes else s.crown.firmware, rebootAsked := true,
      log := if kind = 3 then s.crown.log ++ [.imageSvn kind svn] else s.crown.log } }) ∧
    ((∀ svn, ¬ takes svn) → exec (.recoveryImage kind bytes) s = .next s))

/-- R100, R103, R105: a token is refused with its reason, or raises the level of each die it names that its cell admits,
which a parked die of DEVELOPMENT leaves for HOLD; in FIELD a D2 grant waits for a mode-change point, or restarts at once
where no table set is active; a D3 token opens the Crowns it names. -/
def Tokens : Prop :=
  ∀ (s : State) (bytes : List Byte),
    let b : Bytes := fun (o : Nat) => (bytes[o]?).getD 0
    let level := rd b 8 1
    let mask := rd b 0x0A 1
    let bound := rd b 0x0B 1 = 1
    let fits := mask < 64 ∧ 1 ≤ level ∧ level ≤ 3 ∧ rd b 9 1 = s.crown.sec ∧ (2 ≤ level → bound) ∧
      (bound → rd b 0x50 32 = (Config.bootNonce s.crown.bootCount).toNat) ∧ (rd b 0x0B 1 = 0 → rd b 0x50 32 = 0)
    let logged (r : Nat) : State := { s with crown := { s.crown with log := s.crown.log ++ [.tokenRefused r] } }
    (¬ (tokenSigned s.crown.sec bytes = true ∧ fits) → ∃ r, exec (.debugToken bytes) s = .next (logged r)) ∧
    (tokenSigned s.crown.sec bytes = true → fits →
      (∀ d, d < 4 → mask = 2 ^ d →
        let p := if s.crown.mapped = true ∧ s.crown.live.testBit d = false then Power.off else (s.die d).power
        let ok := cellOk s.crown.sec level p = true
        let wakes := (s.die d).power = .park ∧ s.crown.sec = 2
        let x : Die := if wakes then { s.die d with power := .hold } else s.die d
        let waits : Crown := { s.crown with d2Pending := s.crown.d2Pending ++ [(d, s.now)] }
        (¬ ok → exec (.debugToken bytes) s = .next (logged 5)) ∧
        (ok → s.crown.sec = 0 → level = 2 →
          (s.tset ≠ none → exec (.debugToken bytes) s = .next { s with crown := waits }) ∧
          (s.tset = none → exec (.debugToken bytes) s = .next { s with crown := waits, agenda := s.agenda ++ [.event (.d2FieldRestart d)] })) ∧
        (ok → ¬ (s.crown.sec = 0 ∧ level = 2) → ∃ t, exec (.debugToken bytes) s = .next t ∧
          t = { s with dies := t.dies, selfRefresh := t.selfRefresh, crown := { s.crown with dbgHi := max s.crown.dbgHi level } } ∧
          (∀ k, k ≠ d → t.die k = s.die k) ∧ (¬ wakes → t.selfRefresh = s.selfRefresh) ∧ (wakes → d ∈ s.live → t.selfRefresh = false) ∧
          t.die d = if p = .off ∧ s.crown.sec = 2 then x else { x with debug := max x.debug level, d1 := x.d1 || decide (level = 1) })) ∧
      (∀ k, 1 ≤ k → k ≤ 3 → mask = 16 * k → level = 3 → s.crown.sec = 2 →
        exec (.debugToken bytes) s = .next { s with crown := { s.crown with crownDebug := s.crown.crownDebug ||| k, dbgHi := max s.crown.dbgHi 3 } }))

/-- R99, R103, R390: a granted session observes, reads, halts, steps and writes what its cell admits, and what it reads
changes nothing but its answers; a request wakes a parked die of DEVELOPMENT first; a resume ends a halt. -/
def DebugSessions : Prop :=
  (∀ (s : State) (die lane q pa n : Nat) (r : DebugReg) (v : W64) (v128 : V128) (bytes : List Byte),
    ¬ ((s.die die).power = .park ∧ s.crown.sec = 2 ∧ 1 ≤ (s.die die).debug) →
    let d := s.die die
    let runs := d.power = .run ∨ d.power = .hold
    let sees := 1 ≤ d.debug ∧ (runs ∨ d.power = .park ∨ (s.crown.sec = 3 ∧ d.power = .off))
    let reads := 2 ≤ d.debug ∧ runs
    let may := dieOf lane = die ∧ reads ∧ (s.crown.sec = 0 → s.isFirm lane = false)
    let told (x : DebugReply) : Res := .next { s with crown := { s.crown with debugOut := s.crown.debugOut ++ [x] } }
    let gives (ok : Prop) (op : DebugOp) (x : DebugReply) : Prop :=
      (ok → exec (.debugRequest die op) s = told x) ∧ (¬ ok → exec (.debugRequest die op) s = told (.refused die))
    gives sees .observe (if s.crown.sec = 3 then .log s.crown.log else .trace die d.trace ((List.range 64).map fun k => (s.lane (die * 64 + k)).ovtot)) ∧
    gives (dieOf lane = die ∧ reads) (.readQ lane q) (.value (((s.lane lane).getQ q).setWidth 128)) ∧
    gives (dieOf lane = die ∧ reads) (.readReg lane r) (.value (debugRead s lane r)) ∧
    gives reads (.readMem pa n) (.bytes (s.readBytes 0 pa n)) ∧
    (¬ may → ∀ op ∈ [DebugOp.halt lane, .stepOne lane, .stepRegion lane, .writeQ lane q v, .writeReg lane r v128, .writeMem lane pa bytes],
      exec (.debugRequest die op) s = .next { s with crown := { s.crown with log := s.crown.log ++ [.haltRefused lane] } }) ∧
    (may →
      let lets (op : DebugOp) (x : Lane) : Prop := ∃ t, exec (.debugRequest die op) s = .next t ∧ t = { s with lanes := t.lanes } ∧
        t.lane lane = x ∧ ∀ l, l ≠ lane → t.lane l = s.lane l
      lets (.halt lane) { s.lane lane with halted := true } ∧
      ((s.lane lane).halted = true →
        exec (.debugRequest die (.stepOne lane)) s = .next { s with agenda := s.agenda ++ [.issue lane] } ∧
        lets (.stepRegion lane) { s.lane lane with nudge := true }) ∧
      ((s.lane lane).halted = false →
        exec (.debugRequest die (.stepOne lane)) s = .next s ∧ exec (.debugRequest die (.stepRegion lane)) s = .next s) ∧
      (∃ q', lets (.writeQ lane q v) { s.lane lane with q := q' } ∧
        ∀ k, k < 16 → q < 16 → ({ s.lane lane with q := q' } : Lane).getQ k = if k = q then v else (s.lane lane).getQ k) ∧
      (∃ t, exec (.debugRequest die (.writeReg lane r v128)) s = .next t ∧ t = { s with lanes := t.lanes, cores := t.cores } ∧
        (∀ x, x ≠ r → debugRead t lane x = debugRead s lane x) ∧
        debugRead t lane r = (match r with | .sp => BitVec.ofNat 128 (v128.toNat % 1024) | .pred _ _ => (v128.setWidth 16).setWidth 128 | _ => v128)) ∧
      exec (.debugRequest die (.writeMem lane pa bytes)) s = .next (s.writeBytes 0 false pa bytes))) ∧
  (∀ (s : State) (die : Nat), (s.die die).power = .park → s.crown.sec = 2 → 1 ≤ (s.die die).debug →
    ∃ u : State, u = { s with dies := u.dies, selfRefresh := u.selfRefresh } ∧ u.die die = { s.die die with power := .hold } ∧
      (∀ k, k ≠ die → u.die k = s.die k) ∧ ∀ op, exec (.debugRequest die op) s = exec (.debugRequest die op) u) ∧
  (∀ (s : State) (lane : Nat),
    ((s.lane lane).halted = true → ∃ t, exec (.brkResume lane) s = .next t ∧ t = { s with lanes := t.lanes } ∧
      t.lane lane = { s.lane lane with halted := false } ∧ ∀ l, l ≠ lane → t.lane l = s.lane l) ∧
    ((s.lane lane).halted = false → ∃ t, exec (.brkResume lane) s = .next t ∧ t = { s with elastics := t.elastics } ∧
      t.elastics.length = s.elastics.length ∧
      ∀ (k : Nat) (x : ERel), s.elastics[k]? = some x → ∃ y : ERel, t.elastics[k]? = some y ∧ (x.entry.lane ≠ lane → y = x) ∧
        y = { x with saved := y.saved } ∧ ∀ w, y.saved = some w → x.entry.lane = lane → w.lane.halted = false))

/-- R105: a D2 grant in FIELD redraws the data keys and starts the table set again, as at launch. -/
def FieldRestart : Prop :=
  ∀ (s : State) (die : Nat), ∃ t, exec (.d2FieldRestart die) s = .next t ∧ t.crown.intervened = true ∧ 2 ≤ t.crown.dbgHi ∧
    (∀ y ∈ t.crown.d2Pending, y.1 ≠ die) ∧ 2 ≤ (t.die die).debug ∧ t.keyGens = s.keyGens + 1 ∧
    (s.tset = none → t = { s with crown := t.crown, dies := t.dies, keyGens := t.keyGens }) ∧
    ∀ x, s.tset = some x → ∃ y, t.tset = some y ∧ y.a = s.tick ∧ y.keyGen = t.keyGens ∧ t.modeReqs = [] ∧ t.flips = [] ∧ t.groups = []

end Sys2Proof.Slice0

/-- R87, R90, R99, R100, R103, R105, R106, R390: tampering and recovery, tokens, what a granted session may do, and the
restart that a D2 grant in FIELD brings. What judges a recovery image is the model's choice (log 122). -/
def Obligations.CrownSecurity : Prop := Slice0.QuarantineAndImages ∧ Slice0.Tokens ∧ Slice0.DebugSessions ∧ Slice0.FieldRestart

namespace Sys2Proof.Slice0

/-- R9, R87, R89, R91, R92: a start clears everything but memory, flash and fuses, and sets the security state and the
first stage used; without PD0 it does not happen, and an image that fails takes the package to QUARANTINE. -/
def Starting : Prop :=
  (∀ s : State,
    let sec := if s.crown.lifecycleBlown = true then 0 else 2
    let first := bootSlot sec s.crown
    let sec' := if s.crown.lifecycleBlown = true ∧ serviceOk s.crown.token = true then 1 else sec
    let firmwareOk := s.crown.firmware = [] ∨ ∃ v, imageOk 3 sec' s.crown.firmware = some v
    (s.rails = false → exec .pwrgood s = .next { s with powered := false, crown := { s.crown with log := s.crown.log ++ [.supplyFault] } }) ∧
    (s.rails = true → s.crown.pd0Ok = false → ∃ t, exec .pwrgood s = .next t ∧ t.crown.up = false ∧ t.evq = [] ∧ t.mem = s.mem ∧
      t.crown.log = s.crown.log ++ [.pd0Failed]) ∧
    (s.rails = true → s.crown.pd0Ok = true → ∀ slot svn, first = some (slot, svn) →
      (firmwareOk → ∃ t, exec .pwrgood s = .next t ∧ t.mem = s.mem ∧ t.tags = [] ∧ t.now = 0 ∧
        t.evq = [(tickStart 10000, .thermalRead []), (tickStart 1800000, .mapOut)] ∧
        t.lanes = [] ∧ t.cores = [] ∧ t.works = [] ∧ t.conts = [] ∧ t.tset = none ∧ t.bufs = [] ∧ t.elastics = [] ∧ t.faults = [] ∧ t.flits = [] ∧
        t.trains = [] ∧ t.fq = {} ∧ t.nq = {} ∧ t.rq = {} ∧ t.ptime = {} ∧ t.generation = 0 ∧ t.fns = [] ∧
        t.crown.up = true ∧ t.crown.mapped = false ∧ t.crown.fssvn = svn ∧ t.crown.usedSlot = slot ∧ t.crown.bootCount = s.crown.bootCount + 1 ∧
        t.crown.tamper = false ∧ t.crown.intervened = false ∧ t.crown.dbgHi = 0 ∧ t.crown.attest = true ∧
        t.crown.stage = imageDigest (if slot = 0 then s.crown.slotA else s.crown.slotB) ∧ t.crown.sec = sec') ∧
      (¬ firmwareOk → ∃ t, exec .pwrgood s = .next t ∧ t.crown.sec = 3 ∧ LogEv.imageFailed 3 ∈ t.crown.log)) ∧
    (s.rails = true → s.crown.pd0Ok = true → first = none → ∃ t, exec .pwrgood s = .next t ∧ t.crown.sec = 3 ∧
      LogEv.slotFailed 0 ∈ t.crown.log ∧ LogEv.slotFailed 1 ∈ t.crown.log ∧ (∀ d, d < 4 → (t.die d).power = .off) ∧
      (t.crown.up = true ↔ s.crown.pd1Ok = true ∧ ∃ v, imageOk 2 0 s.crown.recovery = some v))) ∧
  (∀ s : State, exec .pwrgoodFall s = .next { s with powered := false, evq := [], agenda := [], crown := { s.crown with up := false } })

/-- R91, R92, R133: the map-out fixes the live dies, for good; what waited for it is accepted. -/
def MappingOut : Prop :=
  ∀ s : State,
    let due := s.crown.pd0Ok = true ∧ s.crown.mapped = false ∧ s.crown.up = true ∧ s.crown.sec ≠ 3
    let trained := s.crown.training = [] ∨ ∃ v, imageOk 4 s.crown.sec s.crown.training = some v
    let good (d : Nat) : Prop := (s.die d).bist = true ∧ (s.die d).dramTrain = true ∧ d ∉ linkOut s
    (s.crown.pd0Ok = false → exec .mapOut s = .next { s with crown := { s.crown with up := false, log := s.crown.log ++ [.pd0Failed] } }) ∧
    (s.crown.pd0Ok = true → ¬ due → exec .mapOut s = .next s) ∧
    (due → ¬ trained → ∃ t, exec .mapOut s = .next t ∧ t.crown.sec = 3 ∧ t.crown.mapped = false ∧ LogEv.imageFailed 4 ∈ t.crown.log) ∧
    (due → trained → ∃ t, exec .mapOut s = .next t ∧
      t = { s with crown := t.crown, fns := t.fns, evq := t.evq, nextId := t.nextId, ioLast := t.ioLast, pends := t.pends, trains := t.trains,
                   lnchBuf := [], agenda := s.agenda ++ s.lnchBuf.map fun bs => .event (.launchPacket bs) } ∧
      t.crown.mapped = true ∧ t.crown.sec = s.crown.sec ∧ t.crown.portLive = (if s.crown.pd1Ok = true ∧ 5 ∉ linkOut s then 3 else 1) ∧
      (∀ d, t.crown.live.testBit d = true ↔ d < 4 ∧ good d) ∧ (∀ d, d < 4 → ((t.fn d).responds = true ↔ good d)) ∧
      (∀ d, d < 4 → ¬ good d → LogEv.mapOut d ∈ t.crown.log) ∧
      ∀ d g, d < 4 → g < 8 → good d → (s.now + tickStart (50 * g), Instr.weightStoreRefresh d g) ∈ t.evq)

/-- R101, R102, R104: a power state is requested, of one die or, for OFF, of all together (die 4); takes effect, a die on
its way to RUN staying in its state; and is reached, what was held for the die performing then. -/
def PowerStates : Prop :=
  (∀ (s : State) (slot die : Nat) (p : Power),
    let goes : List Nat := if die = 4 then s.live.filter fun d => (s.die d).power != .off else [die]
    let gone (d : Nat) : Prop := (s.die d).power = .off ∨ (s.die d).power = .reset ∨ s.crown.live.testBit d = false
    let others := die ≠ 4 ∧ ∃ x ∈ s.live, x ≠ die ∧ (s.die x).power ≠ .off
    let fits := s.tset = none ∨ ∃ m, m < 32 ∧ modeInstalled s m = true ∧ ∀ d ∈ goes, emptyMode s m d = true
    let refused := goes = [] ∨ (∃ d ∈ goes, gone d) ∨ p = .reset ∨ (die = 4 ∧ p ≠ .off) ∨ (p = .off ∧ others) ∨ ¬ fits ∨ s.crown.sec = 3
    (refused → exec (.powerStateRequest slot die p) s = .next s) ∧
    (¬ refused → ∃ t, exec (.powerStateRequest slot die p) s = .next t ∧ t = { s with dies := t.dies, evq := t.evq } ∧
      (∀ k, t.die k = if k ∈ goes then { s.die k with powerReq := some p, reqAt := s.now } else s.die k) ∧
      (s.tset = none → ∀ d ∈ goes, (tickStart (s.tick + 1), Instr.powerStateChange d) ∈ t.evq) ∧ (s.tset ≠ none → t.evq = s.evq))) ∧
  (∀ (s : State) (die : Nat),
    let d := s.die die
    (d.powerReq = none → exec (.powerStateChange die) s = .next s) ∧
    (∀ p, d.powerReq = some p → ∃ t u, exec (.powerStateChange die) s = .next t ∧ (u, Instr.powerStateReached die) ∈ t.evq ∧
      s.now < u ∧ u ≤ s.now + 120 * powerTicks d.power p ∧ (∀ k, k ≠ die → t.die k = s.die k) ∧
      (p = .run → t.die die = { d with powerReq := none, waking := true, reachAt := u }) ∧
      (p = .hold → t.die die = { d with powerReq := none, power := .hold, waking := false, reachAt := u }) ∧
      (p = .park → ∃ level : Nat, t.die die = { d with powerReq := none, power := .park, waking := false, reachAt := u, debug := level } ∧
        level = if 2 ≤ d.debug then (if d.d1 = true then 1 else 0) else d.debug) ∧
      (p = .off → (t.die die).power = .off ∧ (t.die die).powerReq = none ∧ (t.die die).reachAt = u ∧ (t.die die).debug = 0 ∧
        (t.fn die).session = none ∧ (t.fn die).ide = [] ∧ ((∀ x ∈ s.live, x = die ∨ (s.die x).power = .off) → t.memOff = true)))) ∧
  (∀ (s : State) (die : Nat),
    let d := s.die die
    let wakes := d.waking = true ∧ d.reachAt = s.now ∧ d.power ≠ .off ∧ d.power ≠ .reset
    ∃ t, exec (.powerStateReached die) s = .next t ∧ t.die die = (if wakes then { d with power := .run, waking := false } else d) ∧
    (∀ k, k ≠ die → t.die k = s.die k) ∧ (∀ y, y ∈ t.heldStores ↔ y ∈ s.heldStores ∧ t.asleep y.1 = true) ∧
    (t.selfRefresh = true ↔ t.live ≠ [] ∧ ∀ x ∈ t.live, (t.die x).power = .park ∧ (t.die x).reachAt ≤ t.now) ∧ t.live = s.live)

/-- R12, R408: temperatures come to stand at a die's sensors; the reading warns at 105 °C and turns a compute die off at
115; a function-level reset acts in the tick after it is received. -/
def HeatAndResets : Prop :=
  (∀ (s : State) (temps : List (List Int)), temps ≠ [] → ∃ t, exec (.thermalRead temps) s = .next t ∧ t = { s with dies := t.dies } ∧
    ∀ (d : Nat), t.die d = match temps[d]? with | some x => { s.die d with temps := x.take 4 } | none => s.die d) ∧
  (∀ s : State, ∃ t, exec (.thermalRead []) s = .next t ∧ (s.now + tickStart 10000, Instr.thermalRead []) ∈ t.evq ∧
    ∀ d, d < 6 → isLive s d = true → (s.die d).power ≠ .off →
      let x := (s.die d).temps
      ((∃ v ∈ x, 115 ≤ v) → d < 4 → (t.die d).power = .off) ∧ (((∀ v ∈ x, v < 115) ∨ 4 ≤ d) → (t.die d).power = (s.die d).power) ∧
      ((∃ v ∈ x, 105 ≤ v) → (t.die d).thermalWarn = true ∧ Notice.thermal d ∈ t.crown.notices) ∧
      ((∀ v ∈ x, v < 105) → (t.die d).thermalWarn = (s.die d).thermalWarn)) ∧
  (∀ (s : State) (fn : Nat),
    (s.crown.live.testBit fn = false → exec (.functionLevelReset fn) s = .next s) ∧
    (s.crown.live.testBit fn = true →
    ((s.die fn).flrReset = false → ∃ t, exec (.functionLevelReset fn) s = .next t ∧ t = { s with dies := t.dies, evq := t.evq } ∧
      t.die fn = { s.die fn with flrReset := true } ∧ (tickStart (s.tick + 1), Instr.functionLevelReset fn) ∈ t.evq) ∧
    ((s.die fn).flrReset = true → ∃ t, exec (.functionLevelReset fn) s = .next t ∧
      (t.die fn).power = (if (s.die fn).power = .off then .off else .reset) ∧ ((s.die fn).power ≠ .off → (t.die fn).lost = true) ∧
      (t.fn fn).session = none ∧ (t.fn fn).ide = [] ∧ (t.fn fn).tdi = .error ∧ t.now = s.now)))

end Sys2Proof.Slice0

/-- R9, R12, R87, R89, R91, R92, R101, R102, R104, R133, R408: a start, the map-out, power states, temperatures and
function-level resets. A flash without firmware or training results has nothing to verify, the model's choice (log 124). -/
def Obligations.PowerAndStart : Prop := Slice0.Starting ∧ Slice0.MappingOut ∧ Slice0.PowerStates ∧ Slice0.HeatAndResets

/-! ## Commands, registers and queues -/

namespace Sys2Proof.Slice0

/-- A command completes (R142, R161, R165, R403): from the state `u` of its effect, its slot is free again and one
record of this kind, status, VA and heat is posted to the notification queue; nothing else changes. -/
def Completes (u t : State) (slot kind : Nat) (workid : Option Nat) (status va heat : Nat) : Prop :=
  t = { u with mail := t.mail, nq := { u.nq with soon := t.nq.soon }, freeCtr := t.freeCtr } ∧
  tblGet {} t.mail slot = { tblGet {} u.mail slot with busy := false } ∧ (∀ k, k ≠ slot → tblGet {} t.mail k = tblGet {} u.mail k) ∧
  ∃ core tile work r, r.bytes = noteRec kind 0xFF core tile work status va heat 0 u.tick ∧ (∀ w, workid = some w → work = w) ∧
    (kind = 0x25 → core = slot) ∧ ∀ x, x ∈ t.nq.soon ↔ x = r ∨ x ∈ u.nq.soon

/-- CMDDONE of R403. -/
def CmdDone (u t : State) (slot tag op : Nat) (workid : Option Nat) (result status : Nat) : Prop :=
  Completes u t slot 0x25 workid status result (op * 2 ^ 16 + tag)

/-- INVDONE of R142. -/
def InvDone (u t : State) (slot workid va status : Nat) : Prop := Completes u t slot 0x22 (some workid) status va 0

/-- IMGDONE of R165. -/
def ImgDone (u t : State) (slot cont img status : Nat) : Prop := Completes u t slot 0x24 none status (cont * 2 ^ 16 + img) 0

/-- A command whose effect is in `u` is to complete later, within `bound` cycles where there is one. -/
def Pends (u t : State) (slot tag : Nat) (c : Cmd) (bound : Option Nat) (result status : Nat) : Prop :=
  ∃ p, t.pends = u.pends ++ [p] ∧ p.slot = slot ∧ p.tag = tag ∧ p.cmd = c ∧ p.result = result ∧ p.status = status ∧
    u.now < p.when_ ∧ (∀ b, bound = some b → p.when_ ≤ u.now + b) ∧ (p.when_, Instr.commandCompletion p.id) ∈ t.evq ∧
    t = { u with pends := t.pends, evq := t.evq, freeCtr := t.freeCtr, nextId := t.nextId }

/-- The TLB of a die names no page twice. -/
def TlbOnce (s : State) (d : Nat) : Prop := ((s.die d).tlb.map fun e => (e.workid, e.va)).Nodup

end Sys2Proof.Slice0

/-- R142, R155, R159, R401, R403: what the address commands of a Reed slot do at their decision tick: ASET sets the
space or is refused, PIN locks every page on every live die or none, UNPIN releases, INVAL drops the unlocked
translations and completes later; a host slot is denied each. -/
def Obligations.AddressCommands : Prop :=
  ∀ (s : State) (slot tag w va size root : Nat) (wins : List Win) (b c : Bool),
    (16 ≤ slot →
      (∃ t, exec (.aset slot tag w root wins) s = .next t ∧ CmdDone s t slot tag 0x10 none 0 5) ∧
      (∃ t, exec (.pin slot tag w va size b) s = .next t ∧ CmdDone s t slot tag 0x11 none 0 5) ∧
      (∃ t, exec (.unpin slot tag w va size b) s = .next t ∧ CmdDone s t slot tag 0x12 none 0 5) ∧
      (∃ t, exec (.inval slot tag w va size b c) s = .next t ∧ CmdDone s t slot tag 0x13 none 0 5)) ∧
    (slot < 16 →
      (let placed := root % 8192 = 0 ∧ ∃ d, s.homeOf root = .dram d
       let good := ∀ x ∈ wins, Win.valid x = true → winOk s none x = true
       (¬ placed → ∃ t, exec (.aset slot tag w root wins) s = .next t ∧ InvDone s t slot w 0 3) ∧
       (placed → ¬ good → ∃ t, exec (.aset slot tag w root wins) s = .next t ∧ InvDone s t slot w 0 4) ∧
       (placed → good → ∃ u t, exec (.aset slot tag w root wins) s = .next t ∧ InvDone u t slot w 0 0 ∧ u = { s with spaces := u.spaces } ∧
          ∀ k, tblGet {} u.spaces k = if k = w then { root, wins } else tblGet {} s.spaces k)) ∧
      ((pinPages s w va size b = none → ∃ t, exec (.pin slot tag w va size b) s = .next t ∧ InvDone s t slot w va 2) ∧
       (∀ pages, pinPages s w va size b = some pages →
          let fits := ∀ d ∈ s.live, lockedCount s d + (pages.filter fun p => !isLocked s d w p.ent.va).length ≤ 6144
          (¬ fits → ∃ t, exec (.pin slot tag w va size b) s = .next t ∧ InvDone s t slot w va 8) ∧
          (fits → (∀ d ∈ s.live, TlbOnce s d) → ∃ u t, exec (.pin slot tag w va size b) s = .next t ∧ InvDone u t slot w va 0 ∧
            ∀ d ∈ s.live, ∀ p ∈ pages, isLocked u d p.ent.workid p.ent.va = true))) ∧
      (∃ u t, exec (.unpin slot tag w va size b) s = .next t ∧ InvDone u t slot w va 0 ∧ u = { s with dies := u.dies } ∧
        ∀ d ∈ s.live, (u.die d).tlb = (s.die d).tlb.map fun (e : TlbEnt) =>
          if e.workid = w ∧ e.va < va + size ∧ va < e.va + e.size then { e with pins := 0 } else e) ∧
      (∃ u t, exec (.inval slot tag w va size b c) s = .next t ∧ u = { s with dies := u.dies, cores := u.cores } ∧
        Pends u t slot tag (.inval w va size b c) none 0 (if ∃ d ∈ s.live, ∃ e ∈ (s.die d).tlb, inRange e w va size = true ∧ e.locked = true then 1 else 0) ∧
        ∀ d ∈ s.live,
          (∀ e ∈ (s.die d).tlb, e.locked = true → e ∈ (u.die d).tlb) ∧ (∀ e ∈ (u.die d).tlb, e ∈ (s.die d).tlb) ∧
          (∀ e ∈ (u.die d).tlb, inRange e w va size = true → e.locked = true ∨
            ∃ h ∈ (s.die d).tlb, h.locked = true ∧ h.workid = e.workid ∧ h.va ≤ e.va ∧ e.va < h.va + h.size) ∧
          ∀ k, k < 16 → ∀ e ∈ (u.core (d * 16 + k)).tlb, inRange e w va size = true → e.locked = true ∨
            ∃ h ∈ (s.die d).tlb, h.locked = true ∧ h.workid = e.workid ∧ h.va ≤ e.va ∧ e.va < h.va + h.size))

/-- R164, R165, R403 to R406: what the residence, mode, work, RESYNC and counter commands do at their decision tick;
RESIDE copies the image into the image partition of every live die and changes no other byte; ENDWORK marks the work;
RESYNC adds one to the generation; a host slot has RESYNC and CTRREAD alone. -/
def Obligations.OtherCommands : Prop :=
  ∀ (s : State) (slot tag n img m w dest die core ls entry : Nat) (wake : Bool),
    let found := counted s (laneOf (die * 16 + core) ls) m entry
    let g := (s.generation + 1) % 2 ^ 64
    let high := dest % 4096 = 0 ∧ ((∃ d, s.homeOf dest = .dram d) ∨ s.homeOf dest = .host)
    (16 ≤ slot →
      (∃ t, exec (.reside slot tag n img wake) s = .next t ∧ CmdDone s t slot tag 0x20 none 0 5) ∧
      (∃ t, exec (.evict slot tag n img) s = .next t ∧ CmdDone s t slot tag 0x21 none 0 5) ∧
      (∃ t, exec (.modereq slot tag m) s = .next t ∧ CmdDone s t slot tag 0x30 none 0 5) ∧
      (∃ t, exec (.endwork slot tag w) s = .next t ∧ CmdDone s t slot tag 0x31 none 0 5) ∧
      (∃ t, exec (.ctrclr slot tag die core ls m entry) s = .next t ∧ CmdDone s t slot tag 0x42 none 0 5)) ∧
    (slot < 16 →
      (∀ k i, s.conts[n]? = some k → k.reject = none → k.images[img]? = some i →
        (isResident s n img = true → ∃ t, exec (.reside slot tag n img wake) s = .next t ∧ Pends s t slot tag (.reside n img wake) none 0 0) ∧
        (isResident s n img = false → imageOffset s i.size = none →
          ∃ t, exec (.reside slot tag n img wake) s = .next t ∧ Pends s t slot tag (.reside n img wake) none 0 2) ∧
        (isResident s n img = false → ∀ off, imageOffset s i.size = some off →
          ∃ u t, exec (.reside slot tag n img wake) s = .next t ∧ Pends u t slot tag (.reside n img wake) none 0 0 ∧
            u = { s with mem := u.mem, resident := s.resident ++ [{ cont := n, img, offset := off, size := i.size }] } ∧
            (∀ d ∈ s.live, ∀ j, j < i.size → memGet u.mem (bufBase d + 15 * 0x400000 + off + j) = s.readByte 0 (k.addr + i.offset + j)) ∧
            ∀ a, (∀ d ∈ s.live, a < bufBase d + 15 * 0x400000 + off ∨ bufBase d + 15 * 0x400000 + off + i.size ≤ a) → memGet u.mem a = memGet s.mem a)) ∧
      ((∀ k, s.conts[n]? = some k → k.reject.isSome = true ∨ k.images[img]? = none) →
        ∃ t, exec (.reside slot tag n img wake) s = .next t ∧ Pends s t slot tag (.reside n img wake) none 0 3) ∧
      (∀ k i, s.conts[n]? = some k → k.images[img]? = some i →
        (imagePinned s n img = true → ∃ t, exec (.evict slot tag n img) s = .next t ∧ ImgDone s t slot n img 1) ∧
        (imagePinned s n img = false → ∃ t, exec (.evict slot tag n img) s = .next t ∧
          ImgDone { s with resident := s.resident.filter fun r => !(r.cont == n && r.img == img) } t slot n img 0)) ∧
      (let ok := modeInstalled s m = true ∧ ∀ x, s.tset = some x → x.mode ≠ m
       (¬ ok → ∃ t, exec (.modereq slot tag m) s = .next t ∧ CmdDone s t slot tag 0x30 none 0 6) ∧
       (ok → s.tset ≠ none → ∃ t, exec (.modereq slot tag m) s = .next t ∧
          ∃ u : State, CmdDone u t slot tag 0x30 none 0 0 ∧
            u = { s with trains := u.trains, nextId := u.nextId,
                         modeReqs := s.modeReqs ++ [{ mode := m, src := 3, tick := s.tick, die := 0xFF, core := 0, order := slot, workid := 0xFFFF }] }) ∧
       (ok → s.tset = none → ∃ t, exec (.modereq slot tag m) s = .next t ∧ CmdDone s t slot tag 0x30 none 0 0)) ∧
      (s.workById w = none → ∃ t, exec (.endwork slot tag w) s = .next t ∧ CmdDone s t slot tag 0x31 (some w) 0 6) ∧
      (s.workById w ≠ none → ∃ t p, exec (.endwork slot tag w) s = .next t ∧ t = { s with works := t.works, pends := s.pends ++ [p], nextId := t.nextId } ∧
        p.slot = slot ∧ p.tag = tag ∧ p.cmd = .endwork w ∧
        t.works = s.works.map fun x => { x with ending := x.ending || decide (x.workid = w) }) ∧
      (∀ e, found = some e → ∃ u t, exec (.ctrclr slot tag die core ls m entry) s = .next t ∧ CmdDone u t slot tag 0x42 none 0 0 ∧
        u = { s with works := u.works } ∧ ∃ e', counted u (laneOf (die * 16 + core) ls) m entry = some e' ∧ e' = { e with ovr := 0 }) ∧
      (found = none → ∃ t, exec (.ctrclr slot tag die core ls m entry) s = .next t ∧ CmdDone s t slot tag 0x42 none 0 6)) ∧
    (∀ e, found = some e → ∃ t, exec (.ctrread slot tag die core ls m entry) s = .next t ∧ CmdDone s t slot tag 0x41 none e.ovr 0) ∧
    (found = none → ∃ t, exec (.ctrread slot tag die core ls m entry) s = .next t ∧ CmdDone s t slot tag 0x41 none 0 6) ∧
    (¬ high → ∃ t, exec (.resync slot tag dest) s = .next t ∧ CmdDone { s with generation := g } t slot tag 0x40 none g 7) ∧
    (high → ∃ t, exec (.resync slot tag dest) s = .next t ∧
      Pends (({ s with generation := g } : State).writeBytes 0 false dest (resyncRec { s with generation := g } g)) t slot tag (.resync dest) (some 240000) g 0)

/-- R14, R28, R159, R160, R163, R165, R401, R402, R403: a command that took time completes, an INVAL only when every
access under what it removed has performed; HOT.THRESH takes any value but zero and the other registers ignore writes; a
queue takes a base and a size only while empty; a staged record is written when there is room; a container that fails to
verify is only logged, with the check that failed, and one that verifies is kept, in place of the same one where no work
runs it. -/
def Obligations.CompletionsAndRegisters : Prop :=
  (∀ (s : State) (p : Pend), s.pends.find? (fun q => q.id == p.id) = some p →
    let gone := { s with pends := s.pends.filter fun q => q.id != p.id }
    (∀ d, p.cmd = .resync d → ∃ t, exec (.commandCompletion p.id) s = .next t ∧ CmdDone gone t p.slot p.tag 0x40 none p.result p.status) ∧
    (∀ w, p.cmd = .endwork w → ∃ t, exec (.commandCompletion p.id) s = .next t ∧ CmdDone gone t p.slot p.tag 0x31 (some w) 0 p.status) ∧
    (∀ op, p.cmd = .reserved op → ∃ t, exec (.commandCompletion p.id) s = .next t ∧ CmdDone gone t p.slot p.tag op none p.result p.status) ∧
    (∀ c i wake, p.cmd = .reside c i wake → (wake = false ∨ p.status ≠ 0) →
      ∃ t, exec (.commandCompletion p.id) s = .next t ∧ ImgDone gone t p.slot c i p.status) ∧
    (∀ c i, p.cmd = .reside c i true → p.status = 0 →
      ∃ u t, exec (.commandCompletion p.id) s = .next t ∧ ImgDone u t p.slot c i 0 ∧ ∀ x ∈ u.elastics, x.image ≠ some (c, i)) ∧
    (∀ w va n wake replay, p.cmd = .inval w va n wake replay →
      (stillOut s p.id w va n = true → ∃ t, exec (.commandCompletion p.id) s = .next t ∧ t = { s with evq := t.evq } ∧
        (s.now + 1, Instr.commandCompletion p.id) ∈ t.evq) ∧
      (stillOut s p.id w va n = false → wake = false → replay = false →
        ∃ t, exec (.commandCompletion p.id) s = .next t ∧ InvDone gone t p.slot w va p.status))) ∧
  (∀ (s : State) (die : Nat) (v : W64), ∃ t, exec (.hotThreshWrite die v) s = .next t ∧ t = { s with dies := t.dies } ∧
    (∀ k, k ≠ die → t.die k = s.die k) ∧
    t.die die = if v.toNat % 2 ^ 16 = 0 then s.die die else { s.die die with hotThresh := v.toNat % 2 ^ 16 }) ∧
  (∀ (s : State) (r : Nat) (v : W64), exec (.registerWrite r v) s = .next s) ∧
  (∀ (s : State) (q v : Nat), q < 3 →
    let empty := (s.queue q).tail = (s.queue q).head
    let legal := v = 0 ∨ ∃ k, k ≤ 10 ∧ v = 2 ^ (6 + k)
    let placed := v % 4096 = 0 ∧ ((∃ d, s.homeOf v = .dram d) ∨ s.homeOf v = .host)
    let sets (t : State) (x : Queue) : Prop := t = { s with fq := t.fq, nq := t.nq, rq := t.rq, agenda := t.agenda } ∧
      ∀ k, k < 3 → t.queue k = if k = q then x else s.queue k
    (empty → legal → ∃ t, exec (.queueConfigWrite q true v) s = .next t ∧ sets t { s.queue q with size := v }) ∧
    (empty → placed → ∃ t, exec (.queueConfigWrite q false v) s = .next t ∧ sets t { s.queue q with base := v }) ∧
    (¬ (empty ∧ legal) → exec (.queueConfigWrite q true v) s = .next s) ∧ (¬ (empty ∧ placed) → exec (.queueConfigWrite q false v) s = .next s) ∧
    (∀ bs rest, (s.queue q).staged = bs :: rest →
      ((s.queue q).room = true → ∃ t, exec (.queueStagedWrite q) s = .next t ∧
        (t.queue q).staged = rest ∧ (t.queue q).tail = ((s.queue q).tail + 1) % 2 ^ 32 ∧ (t.queue q).head = (s.queue q).head ∧
        t.mem = (s.writeBytes 0 false ((s.queue q).base + (s.queue q).tail % (s.queue q).size * recBytes q) bs).mem) ∧
      ((s.queue q).room = false → exec (.queueStagedWrite q) s = .next s)) ∧
    ((s.queue q).staged = [] → exec (.queueStagedWrite q) s = .next s)) ∧
  (∀ (s : State) (addr size : Nat),
    let b : Bytes := fun (o : Nat) => s.readByte 0 (addr + o)
    let sig := rd b 0x18 8
    let block := size - 4096
    let sum := sha512 (bytesAt b 0 sig)
    let digest := leNat sum
    let fits := 4096 ≤ size ∧ sig ≤ size ∧ bytesAt b (block + 0x20) 64 = sum
    let fail := sigFail Config.imageKeys s.crown.sec b (block + 8) (block + 0x60) (asciiBytes "BYRAL-PHIRATH-C4" ++ sum)
    let logs (t : State) (e : LogEv) : Prop := t = { s with crown := { s.crown with log := s.crown.log ++ [e] } }
    let keeps (t : State) (conts : List Container) : Prop := t = { s with conts, crown := { s.crown with log := t.crown.log } } ∧
      ∃ more, t.crown.log = s.crown.log ++ more
    (¬ fits → ∃ t, exec (.containerVerify addr size) s = .next t ∧ logs t (.contFailed (rd b 0x20 8) 1)) ∧
    (fits → fail ≠ 0 → ∃ t, exec (.containerVerify addr size) s = .next t ∧ logs t (.contFailed (rd b 0x20 8) fail)) ∧
    (fits → fail = 0 →
      ((∀ k ∈ s.conts, k.digest ≠ digest) → ∃ t c, exec (.containerVerify addr size) s = .next t ∧
        keeps t (s.conts ++ [c]) ∧ c.digest = digest ∧ c.addr = addr ∧
        ∀ v, c.reject = some v → LogEv.contRejected (rd b 0x20 8) v ∈ t.crown.log) ∧
      (∀ k, (List.range s.conts.length).find? (fun k => ((s.conts[k]?).map (·.digest)) == some digest) = some k →
        ((∃ w ∈ s.works, w.cont = k) → ∃ t, exec (.containerVerify addr size) s = .next t ∧ keeps t s.conts) ∧
        ((∀ w ∈ s.works, w.cont ≠ k) → ∃ t c, exec (.containerVerify addr size) s = .next t ∧ keeps t (s.conts.set k c) ∧
          c.digest = digest ∧ c.addr = addr))))

/-! ## Sequencer steps -/

namespace Sys2Proof.Slice0

/-- `t` differs from `s` in the lane under way alone, which is now `l`. -/
def OneLane (s t : State) (l : Lane) : Prop :=
  t = { s with lanes := t.lanes } ∧ t.lane (lane0 s) = l ∧ ∀ k, k ≠ lane0 s → t.lane k = s.lane k

/-- `t` differs from `s` in the lane and the core under way alone. -/
def LaneAndCore (s t : State) (l : Lane) (c : Core) : Prop :=
  t = { s with lanes := t.lanes, cores := t.cores } ∧ t.lane (lane0 s) = l ∧ (∀ k, k ≠ lane0 s → t.lane k = s.lane k) ∧
    t.core (core0 s) = c ∧ ∀ k, k ≠ core0 s → t.core k = s.core k

/-- The step waits, since its first issue. -/
def waiting (s : State) (l : Lane) : Lane := { l with seq := match l.seq with | .wait u => .wait u | _ => .wait s.now }

/-- The step stops its context with a fault (R368). -/
def StepRaises (s : State) (i : Instr) (c : Code) (info : Nat) : Prop :=
  ∃ t, exec i s = .next t ∧ Raised s t 255 (s.lane (lane0 s)).sp c info true fun l => { l with seq := .faulted }

/-- The step completes now, having changed nothing but the lane to `l`. -/
def StepDoes (s : State) (i : Instr) (l : Lane) : Prop := ∃ t, exec i s = .next t ∧ OneLane s t l.stepDone

def StepWaits (s : State) (i : Instr) : Prop := ∃ t, exec i s = .next t ∧ OneLane s t (waiting s (s.lane (lane0 s)))

/-- The step completes now, having written one q register. -/
def StepSets (s : State) (i : Instr) (d : Nat) (v : W64) : Prop :=
  ∃ q, StepDoes s i { s.lane (lane0 s) with q } ∧ ∀ r, tblGet 0 q r = if r = d then v else (s.lane (lane0 s)).getQ r

end Sys2Proof.Slice0

/-- R177, R178: a completed step runs the end test outside arms: the innermost loop that ends there repeats while its
count lasts, and is popped otherwise; a `brs` enters its taken arm, popping every loop its target lies outside of, or
its fall arm; a `loop` of count zero idles for its body, any other is pushed once. -/
def Obligations.StepFlow : Prop :=
  (∀ l : Lane, l.arm = none →
    ((∀ e r, l.loops = e :: r → e.last ≠ l.sp) → l.stepDone = { l with sp := l.sp + 1, seq := .run }) ∧
    (∀ e r, l.loops = e :: r → e.last = l.sp → 1 < e.n → l.stepDone = { l with loops := { e with n := e.n - 1 } :: r, sp := e.start, seq := .run }) ∧
    (∀ e r, l.loops = e :: r → e.last = l.sp → e.n ≤ 1 → l.stepDone = { l with loops := r }.stepDone)) ∧
  (∀ (l : Lane) (a z : Nat), l.arm = some (a, z) →
    (l.sp ≠ z → l.stepDone = { l with sp := l.sp + 1, seq := .run }) ∧ (l.sp = z → l.stepDone = { l with arm := none }.stepDone)) ∧
  (∀ (s : State) (qa tgt len : Nat) (c : BCond),
    let l := s.lane (lane0 s)
    let v := l.getQ qa
    let holds := (c = .z ∧ v = 0) ∨ (c = .nz ∧ v ≠ 0) ∨ (c = .neg ∧ v.toInt < 0) ∨ (c = .nneg ∧ 0 ≤ v.toInt)
    (holds → ∃ t gone kept, exec (.brs qa c tgt len) s = .next t ∧
      OneLane s t { l with sp := tgt, seq := .run, arm := some (tgt, tgt + len - 1), loops := kept } ∧
      l.loops = gone ++ kept ∧ (∀ e ∈ kept, e.start ≤ tgt ∧ tgt ≤ e.last) ∧ ∀ e, gone.getLast? = some e → ¬ (e.start ≤ tgt ∧ tgt ≤ e.last)) ∧
    (¬ holds → ∃ t, exec (.brs qa c tgt len) s = .next t ∧ OneLane s t { l with sp := l.sp + 1, seq := .run, arm := some (l.sp + 1, l.sp + len) })) ∧
  (∀ (s : State) (qc last_ : Nat),
    let l := s.lane (lane0 s)
    let n := (l.getQ qc).toNat
    let e : LoopEnt := ⟨l.sp, l.sp + 1, last_, n⟩
    (n = 0 → ∃ t, exec (.loop qc last_) s = .next t ∧ OneLane s t { l with seq := .skip (last_ - l.sp) last_ }) ∧
    (n ≠ 0 → (∀ x ∈ l.loops, x.src ≠ l.sp) → ∃ t, exec (.loop qc last_) s = .next t ∧ OneLane s t { l with loops := e :: l.loops, sp := l.sp + 1, seq := .run }) ∧
    (n ≠ 0 → (∃ x ∈ l.loops, x.src = l.sp) → ∃ t, exec (.loop qc last_) s = .next t ∧
      OneLane s t { l with loops := l.loops.map fun x => if x.src = l.sp then e else x, sp := l.sp + 1, seq := .run }))

/-- R174, R179: what the register steps leave in q, modulo 2^64, with nothing else changed; what the system registers
read as; and which writes of one take effect, which raise a fault, and that every other is ignored. -/
def Obligations.RegisterSteps : Prop :=
  (∀ (s : State) (d a b : Nat) (imm : Int) (c : QCond),
    let l := s.lane (lane0 s)
    let x := l.getQ a
    let y := l.getQ b
    let holds := (c = .eq ∧ x = y) ∨ (c = .ne ∧ x ≠ y) ∨ (c = .lt ∧ x.toInt < y.toInt) ∨ (c = .ge ∧ y.toInt ≤ x.toInt) ∨
      (c = .ltu ∧ x.toNat < y.toNat) ∨ (c = .geu ∧ y.toNat ≤ x.toNat)
    StepDoes s .stepNop l ∧ StepSets s (.setq d imm) d (BitVec.ofInt 64 imm) ∧
    StepSets s (.addq d a b) d (x + y) ∧ StepSets s (.addqImm d a imm) d (x + BitVec.ofInt 64 imm) ∧
    (holds → StepSets s (.cmpq c d a b) d 1) ∧ (¬ holds → StepSets s (.cmpq c d a b) d 0) ∧
    StepSets s (.tick d) d (BitVec.ofNat 64 s.tick)) ∧
  (∀ (s : State) (d n : Nat), StepSets s (.sysr d n) d (BitVec.ofNat 64 (sysRead s (lane0 s) n))) ∧
  (∀ (s : State) (n : Nat),
    let l := s.lane (lane0 s)
    let is (v : Nat) : Prop := sysRead s (lane0 s) n = v
    (n = 0x10 → is s.ns) ∧ (n = 0x12 → is s.tick) ∧ (n = 0x13 → is s.ptime.epoch) ∧ (n = 0x21 → is (lane0 s)) ∧
    (n = 0x30 → is (l.org.1 * 8 + l.org.2)) ∧ (n = 0x31 → is l.nflags) ∧ (n = 0x200 → is (s.die (dieOf (lane0 s))).hotThresh) ∧
    (n = 0x400 → is l.tflags) ∧ (n = 0x450 → is (l.barLink.1 * 2 ^ 8 + l.barLink.2)) ∧
    (∀ i, i < 64 → ∀ w, l.hwin[i]? = some w → (n = 0x100 + 4 * i → is w.base) ∧ (n = 0x101 + 4 * i → is w.limit) ∧
      (n = 0x102 + 4 * i → is w.offset) ∧ (n = 0x103 + 4 * i → is (w.attr &&& winAttrBits))) ∧
    ((0x33 ≤ n ∧ n < 0x100 ∨ 0x201 ≤ n ∧ n < 0x400 ∨ 0x600 ≤ n) → is 0)) ∧
  (∀ (s : State) (qa : Nat),
    let l := s.lane (lane0 s)
    let v := (l.getQ qa).toNat
    let write (n : Nat) : Instr := .sysw qa n
    let empty := (l.bank 0).st = .empty ∧ (l.bank 1).st = .empty
    let link := 2 ≤ v % 8 ∧ v % 8 ≤ 5 ∧ 1 ≤ v / 256 % 128 ∧ v / 256 % 128 ≤ 64
    (empty → StepDoes s (write 0x30) { l with org := (v / 8 % 8, v % 8) }) ∧ (¬ empty → StepRaises s (write 0x30) .overlap 0) ∧
    (link → StepDoes s (write 0x450) { l with barLink := (v / 256 % 128, v % 8) }) ∧ (¬ link → StepRaises s (write 0x450) .barrier 0) ∧
    (∀ i f w, i < 64 → f < 3 → l.hwin[i]? = some w →
      (Win.valid w = false → ∃ x : Win, StepDoes s (write (0x100 + 4 * i + f)) { l with hwin := l.hwin.set i x } ∧
        x = { base := if f = 0 then v else w.base, limit := if f = 1 then v else w.limit, offset := if f = 2 then v else w.offset,
              attr := w.attr &&& winAttrBits }) ∧
      (Win.valid w = true → StepRaises s (write (0x100 + 4 * i + f)) .window 0)) ∧
    (∀ i w, i < 64 → l.hwin[i]? = some w →
      let ok := Win.valid { w with attr := v } = true → winOk s (some (core0 s)) { w with attr := v } = true
      (ok → StepDoes s (write (0x103 + 4 * i)) { l with hwin := l.hwin.set i { w with attr := v &&& winAttrBits } }) ∧ (¬ ok → StepRaises s (write (0x103 + 4 * i)) .window 0)) ∧
    (∀ n, n ≠ 0x30 → n ≠ 0x450 → (n < 0x100 ∨ 0x200 ≤ n) → StepDoes s (write n) l))

namespace Sys2Proof.Slice0

/-- An image in a bank as a load begun now leaves it (R170): every unit of the records loaded is owned by the slot and
holds its pattern, the bank is LOADING under the image's header, and its READY is posted for the cycle after the load,
24 and, for each record, 4 + COUNT × WORDS + 2 × its constants cycles on. -/
def Loads (s t : State) (lane bank img : Nat) (c : Container) (i : Image) (only : Option Nat) : Prop :=
  let l := s.lane lane
  let recs := loadRects i only
  let ready := s.now + 1 + (24 + (recs.map fun x => 4 + (patOf i x.2).entries.length * (patOf i x.2).words + 2 * (constsOf c img x.1).length).sum)
  let b := (t.lane lane).bank bank
  t = { s with lanes := t.lanes, cores := t.cores, evq := t.evq } ∧ (∀ a, memGet t.mem a = memGet s.mem a) ∧
    (∀ k, k ≠ lane → t.lane k = s.lane k) ∧ (∀ k, k ≠ coreOf lane → t.core k = s.core k) ∧
    b.st = .loading ∧ b.rows = i.rows ∧ b.cols = i.cols ∧ b.ii = i.ii ∧ b.frameInt = i.frameInt ∧ b.afgar = i.afgar ∧ b.img = img ∧
    (t.lane lane).bank (1 - bank) = l.bank (1 - bank) ∧
    ((l.bank 0).st ≠ .loading → (l.bank 1).st ≠ .loading → (ready, Instr.bankReady lane bank) ∈ t.evq) ∧
    ((recs.flatMap fun x => rectUnits l.org x.2).Nodup → ∀ x ∈ recs, ∀ u ∈ rectUnits l.org x.2,
      ((t.core (coreOf lane)).list u bank) = (patOf i x.2).entries ∧ (t.core (coreOf lane)).ownedBy u (slotOf lane) = true)

/-- The firm entry that a prefetch on a lane is for (R172): its container, and the bank and image its step 0 names. -/
def Prefetches (s : State) (lane entry k bank img : Nat) (c : Container) (i : Image) : Prop :=
  ∃ w e b word rs rest, (s.works.findSome? fun w => (w.entries.find? fun e => e.lane == lane && entryKey e == entry && !e.elastic).map fun e => (w, e)) = some (w, e) ∧
    w.cont = k ∧ s.conts[k]? = some c ∧ c.block e.block = some b ∧ c.progs[b.seq]? = some (word :: rest) ∧
    decodeStep word = .ok (.cfg rs bank img) ∧ c.images[img]? = some i

end Sys2Proof.Slice0

/-- R169 to R174: when the configuration, bank and run steps wait, what they raise, and what they do when they
proceed: a load fills the bank of every unit its records name and the bank turns READY when it is over; a swap flips the
active bank or is armed; a run starts the region 4 cycles on; a freeze stops its counter and a thaw lets it go on. -/
def Obligations.ConfigSteps : Prop :=
  (∀ (s : State) (rs bank img : Nat) (only : Option Nat) (j : Instr), bank < 2 → (j = .cfg rs bank img ∧ only = none ∨ ∃ k, j = .cfgx rs bank img k ∧ only = some k) →
    let l := s.lane (lane0 s)
    let waits := (l.run = true ∧ bank = l.act) ∨ (l.armed = true ∧ bank ≠ l.act) ∨ (l.bank bank).st = .loading
    let found (k : Nat) (c : Container) (i : Image) : Prop := ∃ w, s.workRec (lane0 s) = some w ∧ w.cont = k ∧ s.conts[k]? = some c ∧ c.images[img]? = some i
    let overlaps (i : Image) : Prop := outOfArray l.org i = true ∨ (∃ x ∈ loadRects i only, ∃ u ∈ rectUnits l.org x.2, unitTaken s (lane0 s) u = true) ∨
      (only ≠ none ∧ (l.bank bank).st ≠ .empty ∧ ((l.bank bank).rows ≠ i.rows ∨ (l.bank bank).cols ≠ i.cols))
    (l.prefetched ≠ none → StepDoes s j { l with prefetched := none }) ∧
    (l.prefetched = none →
    (waits → StepWaits s j) ∧
    (¬ waits → (∀ k c i, ¬ found k c i) → StepRaises s j .imageAbsent img) ∧
    (¬ waits → ∀ k c i, found k c i → (s.isFirm (lane0 s) = true ∨ isResident s k img = true) →
      (overlaps i → StepRaises s j .overlap 0) ∧
      (¬ overlaps i → ∃ u t, exec j s = .next t ∧ Loads s u (lane0 s) bank img c i only ∧ OneLane u t (u.lane (lane0 s)).stepDone)))) ∧
  (∀ (s : State) (lane entry k bank img : Nat) (c : Container) (i : Image), bank < 2 → Prefetches s lane entry k bank img c i →
    let l := { s.lane lane with org := (0, 0), prefetched := some entry }
    ((s.lane lane).rel = none ∨ (s.lane lane).retired = true) → (s.lane lane).stop = .none → (l.bank bank).st = .empty → isResident s k img = true →
    outOfArray (0, 0) i = false →
    (∀ x ∈ loadRects i none, ∀ u ∈ rectUnits (0, 0) x.2, tblGet 0 (s.core (coreOf lane)).owner u = 0 ∧ unitTaken s lane u = false) →
    ∃ t, exec (.configPrefetch lane entry) s = .next t ∧ Loads (s.setLane lane l) t lane bank img c i none) ∧
  (∀ (s : State) (rs q : Nat),
    let l := s.lane (lane0 s)
    let other := (l.bank (1 - l.act)).st
    let n := (l.getQ q).toNat % 2 ^ 32
    ((other = .loading ∨ l.armed = true) → StepWaits s (.swap rs)) ∧
    (other = .empty → l.armed = false → StepRaises s (.swap rs) .imageAbsent 0) ∧
    (other = .ready → l.armed = false → l.run = true → StepDoes s (.swap rs) { l with armed := true }) ∧
    (other = .ready → l.armed = false → l.run = false → StepDoes s (.swap rs) { l with act := 1 - l.act }) ∧
    ((l.run = true ∨ l.hdr.st = .loading) → StepWaits s (.run rs q)) ∧
    (l.run = false → l.hdr.st = .empty → StepRaises s (.run rs q) .imageAbsent 0) ∧
    (l.run = false → l.hdr.st = .ready → n = 0 → StepDoes s (.run rs q) l) ∧
    (l.run = false → l.hdr.st = .ready → n ≠ 0 → s.isFirm (lane0 s) = true → (windowsBad l.hwin = true ∨ runCombo s (lane0 s) = true) →
      StepRaises s (.run rs q) .reservedCombo 0) ∧
    (l.run = false → l.hdr.st = .ready → n ≠ 0 → ¬ (s.isFirm (lane0 s) = true ∧ (windowsBad l.hwin = true ∨ runCombo s (lane0 s) = true)) →
      ∃ (t : State) (l' : Lane), exec (.run rs q) s = .next t ∧ t = { s with lanes := t.lanes, cores := t.cores } ∧ t.lane (lane0 s) = l'.stepDone ∧
        (∀ k, k ≠ lane0 s → t.lane k = s.lane k) ∧ (∀ k, k ≠ core0 s → t.core k = s.core k) ∧ (∀ a, memGet t.mem a = memGet s.mem a) ∧
        l'.run = true ∧ l'.startAt = s.now + 4 ∧ l'.trips = n ∧ l'.intdone = 0 ∧ l'.ccyc = 0 ∧ l'.cwin = l.hwin ∧ l'.q = l.q ∧ l'.sp = l.sp ∧ l'.act = l.act) ∧
    (l.run = true → StepWaits s (.waitRegion rs)) ∧ (l.run = false → StepDoes s (.waitRegion rs) l) ∧
    StepDoes s (.freeze rs) (if l.run = true then { l with frozen := true } else l) ∧ StepDoes s (.thaw rs) { l with frozen := false })

/-- R335, R338, R351, R353 to R356: the steps that order agents: a frame wait stands until an event after its issue,
`frame` arrives first; `bar.init` sets a barrier its slot may set; an arrival is under way until earlier accesses have
performed; a wait ends when the phase it waits for is over; a fence waits for what it orders; a `pub` fixes its publish
point, or raises PUBLISH while the last one is pending. -/
def Obligations.OrderingSteps : Prop :=
  (∀ (s : State) (g : Nat),
    let l := s.lane (lane0 s)
    let x := s.group (s.workOf (lane0 s)) g
    let stands := ∃ u, l.seq = .wait u
    let seen := l.waitGen < x.count ∧ x.evAt < s.now
    (¬ stands → ∃ t, exec (.waitFrame g) s = .next t ∧ OneLane s t { l with waitGen := x.count, seq := .wait s.now }) ∧
    (¬ stands → ∃ t, exec (.frame g) s = .next t ∧ t = { s with lanes := t.lanes, groups := t.groups, evq := t.evq } ∧
      t.lane (lane0 s) = { l with waitGen := x.count, seq := .wait s.now } ∧ (∀ k, k ≠ lane0 s → t.lane k = s.lane k) ∧
      (t.group (s.workOf (lane0 s)) g).steps = x.steps ++ [lane0 s] ∧ (t.group (s.workOf (lane0 s)) g).made = true) ∧
    (stands → seen → StepDoes s (.waitFrame g) l ∧ StepDoes s (.frame g) l) ∧
    (stands → ¬ seen → StepWaits s (.waitFrame g) ∧ StepWaits s (.frame g))) ∧
  (∀ (s : State) (b n : Nat),
    let l := s.lane (lane0 s)
    let c := s.core (core0 s)
    let x := c.bar b
    let mine := x.init = false ∨ (x.owner = slotOf (lane0 s) ∧ x.pend = x.cnt ∧ x.waitg = false)
    let fits := (l.barLink.2 = 2 → l.barLink.1 = 1) ∧ l.barLink.1 ≤ scopeCores s l.barLink.2
    let owned := x.init = true ∧ x.owner = slotOf (lane0 s)
    (mine → fits → ∃ t c', exec (.barInit b n) s = .next t ∧ LaneAndCore s t l.stepDone c' ∧ c' = { c with bars := c'.bars } ∧
      ∀ k, c'.bar k = if k = b then { x with init := true, owner := slotOf (lane0 s), cnt := n, pend := n, scope := l.barLink.2, pcnt := l.barLink.1, waitg := false } else c.bar k) ∧
    (¬ (mine ∧ fits) → StepRaises s (.barInit b n) .barrier 0) ∧
    (¬ owned → StepRaises s (.stepBarArrive b) .barrier 0) ∧
    (owned → ∃ t, exec (.stepBarArrive b) s = .next t ∧ LaneAndCore { s with nextId := s.nextId + 1 } t l.stepDone
      { c with arrivals := c.arrivals ++ [{ id := s.nextId, lane := lane0 s, key := 256, bar := b, entry := l.sp }] })) ∧
  (∀ (s : State) (b : Nat) (i : Instr), (i = .stepBarWait b ∨ i = .waitBarrier b) →
    let l := s.lane (lane0 s)
    let x := (s.core (core0 s)).bar b
    let r := tblGet {} l.recs b
    let met := (r.arr = true ∧ x.phv ≠ r.ap) ∨ (r.arr = false ∧ ∃ n, r.stood = some n ∧ n < x.rels)
    (met → ∃ recs, StepDoes s i { l with recs } ∧ ∀ k, tblGet {} recs k = if k = b then {} else tblGet {} l.recs k) ∧
    (¬ met → ∃ t recs, exec i s = .next t ∧ OneLane s t (waiting s { l with recs }) ∧
      ∀ k, tblGet {} recs k = if k = b then { r with stood := some (r.stood.getD x.rels) } else tblGet {} l.recs k)) ∧
  (∀ (s : State) (sc : Scope) (i : Instr) (seqcst : Bool), (i = .stepFence sc ∧ seqcst = false ∨ i = .stepFenceSc sc ∧ seqcst = true) →
    let l := s.lane (lane0 s)
    let before := l.fenceAt.getD s.nextId
    (fenceWaits s (lane0 s) sc.code before seqcst = true → ∃ t, exec i s = .next t ∧ OneLane s t (waiting s { l with fenceAt := some before })) ∧
    (fenceWaits s (lane0 s) sc.code before seqcst = false → StepDoes s i { l with fenceAt := none, fwdWrites := if seqcst = true then [] else l.fwdWrites })) ∧
  (∀ (s : State) (buf : Nat),
    let l := s.lane (lane0 s)
    let ends (x : Bnd) (r : Release) : Prop := ∃ t f, exec (.pub buf) s = .next t ∧ t.flips = s.flips ++ [f] ∧ f.buf = x.f.id ∧ f.workid = r.entry.workid ∧
      f.lane = lane0 s ∧ f.done = s.now ∧ (t.bufSt r.entry.workid x.f.id).pending = true ∧
      (f.when_ = if l.run = true then none else some (tickStart (s.tick + 1))) ∧
      (l.run = false → (tickStart (s.tick + 1), Instr.faceFlip (dieOf (lane0 s)) f.id) ∈ t.evq) ∧
      (x.f.mode = 0 → ∀ a, memGet t.mem a = memGet s.mem a) ∧ ∃ l' : Lane, t.lane (lane0 s) = l'.stepDone ∧ l'.q = l.q ∧ l'.sp = l.sp
    (pubBnd s (lane0 s) buf = none → StepDoes s (.pub buf) l) ∧
    (∀ x, pubBnd s (lane0 s) buf = some x →
      (x.f.mode = 2 → StepDoes s (.pub buf) l) ∧
      (x.f.mode ≠ 2 → l.pubSt = none → (s.bufSt (s.workOf (lane0 s)) buf).pending = true → StepRaises s (.pub buf) .publish 0) ∧
      (x.f.mode = 0 → l.pubSt = none → (s.bufSt (s.workOf (lane0 s)) buf).pending = false → pubWaits s (lane0 s) x.f s.nextId = false →
        ∀ r, l.rel = some r → ends x r) ∧
      (∀ n u, x.f.mode ≠ 2 → l.pubSt = some (n, some u) → u ≤ s.now → ∀ r, l.rel = some r → ends x r) ∧
      (∀ n u, x.f.mode ≠ 2 → l.pubSt = some (n, some u) → s.now < u → StepWaits s (.pub buf))))

/-- R175, R176: an `ldq`, `stq` or `spawn` whose address is misaligned raises PERMISSION; else it makes one request for
its translated bytes, an `stq` also for the zeros of their companions, and waits, a store that a blocked page holds for
its REPLAY (R163, R259); a fault of translation is its own; once that has come, an `ldq` writes the q register, an `stq` goes on, and a `spawn`
that has its 576 bytes posts the packet with its work in PARENT. -/
def Obligations.MemorySteps : Prop :=
  (∀ (s : State) (d a : Nat) (off : Int),
    let l := s.lane (lane0 s)
    let ea := (l.getQ a + BitVec.ofInt 64 off).toNat
    let sa := (l.getQ a).toNat
    (ea % 8 ≠ 0 → StepRaises s (.ldq d a off) .permission ea ∧ StepRaises s (.stq d a off) .permission ea) ∧
    (sa % 64 ≠ 0 → StepRaises s (.spawn a) .permission sa) ∧
    (∀ s' pa at_ f page added, l.heldReq = none → ea % 8 = 0 →
      s.translate (lane0 s) .seq l.hwin 0xFF ea 8 .read false = (s', .ok pa at_ f page added) →
      ∃ t r, exec (.ldq d a off) s = .next t ∧ (t.core (core0 s)).reqs.map undue = (s'.core (core0 s)).reqs.map undue ++ [undue r] ∧
        r.pieces.map (fun p => (p.va, p.pa, p.n, p.key)) = [(ea, pa, 8, at_.key)] ∧ r.store = false ∧ r.lane = lane0 s ∧
        (t.lane (lane0 s)).heldReq = some r.id ∧ (∃ u, (t.lane (lane0 s)).seq = .wait u) ∧ ∀ a, memGet t.mem a = memGet s'.mem a) ∧
    (l.heldReq = none → ea % 8 = 0 → l.blockedVa ≠ none → StepWaits s (.stq d a off)) ∧
    (∀ s' c info, l.heldReq = none →
      (ea % 8 = 0 → s.translate (lane0 s) .seq l.hwin 0xFF ea 8 .read false = (s', .fault c info) → exec (.ldq d a off) s = .next (raiseStep s' c info)) ∧
      (ea % 8 = 0 → l.blockedVa = none → s.translate (lane0 s) .seq l.hwin 0xFF ea 8 .write false = (s', .fault c info) →
        exec (.stq d a off) s = .next (raiseStep s' c info)) ∧
      (sa % 64 = 0 → s.translate (lane0 s) .seq l.hwin 0xFF (sa + l.spawnBuf.length) 64 .read false = (s', .fault c info) →
        exec (.spawn a) s = .next (raiseStep s' c info))) ∧
    (∀ s' pa at_ f page added, l.heldReq = none → l.blockedVa = none → ea % 8 = 0 →
      s.translate (lane0 s) .seq l.hwin 0xFF ea 8 .write false = (s', .ok pa at_ f page added) →
      -- the zeros that go into the companions of its bytes (R259)
      ∀ s'' comps, companionPieces s' (lane0 s) 8 (companionVas s' (lane0 s) ea 8) = (s'', .inl comps) →
      let fields (p : Piece) := (p.va, p.pa, p.n, p.key, p.data)
      let main := (ea, pa, 8, at_.key, leBytes 8 (l.getQ d).toNat)
      let blocked := at_.wblk = true ∨ ∃ p ∈ comps, p.wblk = true
      ((∃ x g, s''.homeOf pa = .ws x g) → ∃ t e, exec (.stq d a off) s = .next t ∧ e ∈ t.faults ∧ e.code = Code.permission.num ∧ e.info = ea) ∧
      ((∀ x g, s''.homeOf pa ≠ .ws x g) → blocked → ∃ t, exec (.stq d a off) s = .next t ∧
        OneLane s'' t (waiting s'' { s''.lane (lane0 s) with blockedVa := some ea })) ∧
      ((∀ x g, s''.homeOf pa ≠ .ws x g) → ¬ blocked →
        ∃ t r, exec (.stq d a off) s = .next t ∧ (t.core (core0 s)).reqs.map undue = (s''.core (core0 s)).reqs.map undue ++ [undue r] ∧
          r.pieces.map fields = main :: comps.map fields ∧ r.store = true ∧
          ((∀ c, s''.homeOf pa ≠ .spad c) → ∃ p, fields p = main ∧ t.flits.map (·.pieces) = s''.flits.map (·.pieces) ++ [p :: comps]) ∧
          (t.lane (lane0 s)).heldReq = some r.id ∧ (∃ u, (t.lane (lane0 s)).seq = .wait u) ∧ ∀ a, memGet t.mem a = memGet s''.mem a)) ∧
    (∀ s' pa at_ f page added, l.heldReq = none → sa % 64 = 0 →
      s.translate (lane0 s) .seq l.hwin 0xFF (sa + l.spawnBuf.length) 64 .read false = (s', .ok pa at_ f page added) →
      ∃ t r, exec (.spawn a) s = .next t ∧ (t.core (core0 s)).reqs.map undue = (s'.core (core0 s)).reqs.map undue ++ [undue r] ∧
        r.pieces.map (fun p => (p.pa, p.n)) = [(pa, 64)] ∧ (t.lane (lane0 s)).heldReq = some r.id ∧ ∃ u, (t.lane (lane0 s)).seq = .wait u)) ∧
  (∀ (s : State) (d a : Nat) (off : Int) (r : Req),
    let l := s.lane (lane0 s)
    let c := s.core (core0 s)
    let ea := (l.getQ a + BitVec.ofInt 64 off).toNat
    let got := r.pieces.flatMap (·.got)
    let l' : Lane := { l with heldReq := none }
    let c' : Core := { c with reqs := c.reqs.filter fun x => x.id != r.id }
    l.heldReq = some r.id → c.reqs.find? (fun x => x.id == r.id) = some r → r.ready = true → r.readyAt < s.now → r.ecc = false → r.late = false →
    (ea % 8 = 0 → (∃ t q, exec (.ldq d a off) s = .next t ∧ LaneAndCore s t { l' with q }.stepDone c' ∧
        ∀ k, tblGet 0 q k = if k = d then BitVec.ofNat 64 (leNat got) else l.getQ k) ∧
      ∃ t, exec (.stq d a off) s = .next t ∧ LaneAndCore s t l'.stepDone c') ∧
    ((l.getQ a).toNat % 64 = 0 → 576 ≤ l.spawnBuf.length + got.length →
      ∃ t, exec (.spawn a) s = .next t ∧ t.agenda = s.agenda ++ [.event (.launchPacket (withParent (s.workOf (lane0 s)) (l.spawnBuf ++ got)))] ∧
        LaneAndCore { s with agenda := t.agenda } t { l' with spawnBuf := [] }.stepDone c'))

/-- R117, R118, R267, R389, R390, R399, R400: a mode request is posted unless it names the mode in force; an elastic
block yields, a firm one goes on; operand slots are claimed and freed, or SLOT_CLAIM is raised; a trap stops its context
with its code; a breakpoint, as a step or an entry, halts, traces or does nothing, as its die's cell says; a retirement
waits for the region, raises RING or PUBLISH where work is left, and else posts its record and frees the slot. -/
def Obligations.BlockSteps : Prop :=
  (∀ (s : State) (m code k n : Nat),
    let l := s.lane (lane0 s)
    let c := s.core (core0 s)
    let slots := (List.range n).map fun (j : Nat) => k + j
    let m_ := slotLimit l.width
    let busy := (c.rows.filter (·.active)).flatMap (readingSet c m_)
    let limit := (engsOf s (lane0 s)).foldl (fun a e => max a e.slots) 0
    let mayClaim := k + n ≤ m_ ∧ (∀ j ∈ slots, (c.slot j).st = .free) ∧ heldSlots c + n ≤ limit
    let mayFree := k + n ≤ m_ ∧ ∀ j ∈ slots, (c.slot j).st ≠ .free ∧ (c.slot j).st ≠ .filling ∧ j ∉ busy
    let moves (i : Instr) (st : SlotSt) : Prop := ∃ t c', exec i s = .next t ∧ LaneAndCore s t l.stepDone c' ∧ c' = { c with opm := c'.opm } ∧
      (∀ j ∈ slots, (c'.slot j).st = st) ∧ ∀ j, j ∉ slots → c'.slot j = c.slot j
    (∀ t, s.tset = some t → t.mode ≠ m → ∃ u, exec (.mode m) s = .next u ∧ OneLane { s with modeReqs := u.modeReqs, trains := u.trains, nextId := u.nextId } u l.stepDone ∧
      u.modeReqs = s.modeReqs ++ [{ mode := m, src := 2, tick := s.tick, die := dieOf (lane0 s), core := core0 s % 16, order := lane0 s, workid := s.workOf (lane0 s) }]) ∧
    ((∀ t, s.tset = some t → t.mode = m) → StepDoes s (.mode m) l) ∧
    (s.isFirm (lane0 s) = true → StepDoes s .yield l) ∧
    (s.isFirm (lane0 s) = false → ∃ t, exec .yield s = .next t ∧ t.agenda = s.agenda ++ [.event (.elasticStop (lane0 s) .yielded)] ∧
      OneLane { s with agenda := t.agenda } t { l.stepDone with seq := .stopped }) ∧
    (mayClaim → moves (.claim k n) .empty) ∧ (¬ mayClaim → StepRaises s (.claim k n) .slotClaim 0) ∧
    (mayFree → moves (.free k n) .free) ∧ (¬ mayFree → StepRaises s (.free k n) .slotClaim 0) ∧
    StepRaises s (.trap code) .trap code) ∧
  (∀ (s : State) (o : OpN) (code : Nat),
    let l := s.lane (lane0 s)
    let d := s.die (dieOf (lane0 s))
    let halts := 2 ≤ d.debug ∧ (s.crown.sec = 0 → s.isFirm (lane0 s) = false)
    let fires := guardBit (s.myGuard o.h) 0 = true
    let traces (t : State) (code : Nat) : Prop := (∀ k, k ≠ dieOf (lane0 s) → t.die k = s.die k) ∧
      t.die (dieOf (lane0 s)) = { d with trace := d.trace ++ [{ code, tick := s.tick, lane := lane0 s, ccyc := l.ccyc }] }
    (d.debug = 0 → StepDoes s (.stepBrk code) l ∧ exec (.brk o) s = .next s) ∧
    (halts → StepDoes s (.stepBrk code) { l with halted := true } ∧
      (fires → ∃ t, exec (.brk o) s = .next t ∧ OneLane s t { l with halted := true })) ∧
    (d.debug ≠ 0 → ¬ halts →
      (∃ t, exec (.stepBrk code) s = .next t ∧ traces t code ∧ OneLane { s with dies := t.dies } t l.stepDone) ∧
      (fires → ∃ t, exec (.brk o) s = .next t ∧ traces t o.n ∧ t = { s with dies := t.dies })) ∧
    (¬ fires → exec (.brk o) s = .next s)) ∧
  (∀ s : State,
    let l := s.lane (lane0 s)
    let waits := l.run = true ∨ (l.bank 0).st = .loading ∨ (l.bank 1).st = .loading
    let ring := (∃ e ∈ engsOf s (lane0 s), e.eng.testBit 0 = true) ∧ (s.core (core0 s)).full ≠ 0
    (waits → StepWaits s .retire) ∧ (¬ waits → ring → StepRaises s .retire .ring 0) ∧
    (¬ waits → ¬ ring → unpublished s (lane0 s) = true → StepRaises s .retire .publish 0) ∧
    (¬ waits → ¬ ring → unpublished s (lane0 s) = false → ∀ r, l.rel = some r →
      ∃ t x, exec .retire s = .next t ∧ x.bytes = retireRec s (lane0 s) (if r.kind = .fallback then 3 else 0) false ∧
        (∀ y, y ∈ t.rq.soon ↔ y = x ∨ y ∈ s.rq.soon) ∧ (t.lane (lane0 s)).retired = true ∧ (t.lane (lane0 s)).seq = .stopped ∧
        (t.lane (lane0 s)).banks = [] ∧ (t.lane (lane0 s)).org = l.org ∧ (∀ u, (t.core (core0 s)).ownedBy u (slotOf (lane0 s)) = false) ∧
        ∀ a, memGet t.mem a = memGet s.mem a))

/-! ## Engines -/

namespace Sys2Proof.Slice0

/-- What a precise fault of an entry does when it is the first of its cycle (R368). -/
def EntryRaises (s : State) (i : Instr) (c : Code) (info : Nat) : Prop :=
  ∃ t, exec i s = .next t ∧ Raised s t s.cur.unit s.cur.idx c info false fun l => { l with faultHold := true }

/-- The count of a row (R270): captured from a q register, or its field. -/
def rowCount (s : State) (o : OpRow) : Nat := match o.repq with | some q => (s.myLane.getQ q).toNat | none => o.rep

/-- The first check that step `j` of a row fails at its firing (R274), (a) to (d). -/
def RowFails (s : State) (o : OpRow) (sparse : Bool) (j rep : Nat) (c : Code) : Prop :=
  let x := rowSlots s.myCore (slotLimit s.myLane.width) o sparse j
  let a := j = 0 ∧ (o.afmt = none ∨ o.bfmt = none) ∧ rowReserved o sparse x.fa x.fb = true
  let b := ∃ k ∈ x.a ++ x.b, slotHeld s.myCore k = false ∨ (s.myCore.slot k).st = .filling
  let d := (¬ (j = 0 ∧ o.z = true) ∧ (ringView s.myCore s.myLane).mode ≠ modeOf o.acc) ∨ (j + 1 = rep ∧ o.adv = true ∧ ringRoom s.myCore s.myLane = false)
  (a ∧ c = .reservedCombo) ∨ (¬ a ∧ b ∧ c = .slotClaim) ∨ (¬ a ∧ ¬ b ∧ d ∧ c = .ring)

/-- A row step that fails a check leaves its instance as it stands, marked, and no step more (R274, R278, R288). -/
def RowRaises (s : State) (i : Instr) (r : RowInst) (e : Code) : Prop :=
  ∃ u t : State, exec i s = .next t ∧ u = { s with cores := u.cores, nextId := s.nextId + 1 } ∧
    (∀ k, k ≠ core0 s → u.core k = s.core k) ∧ u.core (core0 s) = { s.core (core0 s) with rows := (u.core (core0 s)).rows } ∧
    (u.core (core0 s)).inst r.id = some { r with active := decide (e ≠ .reservedCombo), fault := true, everFault := true } ∧
    Raised u t s.cur.unit s.cur.idx e 0 false fun l => { l with faultHold := true }

/-- The entry's only flight lands now, and `c` is then the core; nothing else but the flags it carries changes. -/
def LandsAs (s : State) (lane : Nat) (x : Land) (c : Core) : Prop :=
  ∀ f, (s.lane lane).flights = [f] → f.due ≤ (s.lane lane).pos → Settled (s.lane lane) → f.land = x →
    ∃ t, exec (.resultLand lane) s = .next t ∧ t.core (coreOf lane) = c ∧ (∀ k, k ≠ coreOf lane → t.core k = s.core k) ∧
      (t.lane lane).flights = [] ∧ ∀ a, memGet t.mem a = memGet s.mem a

end Sys2Proof.Slice0

/-- R268 to R280: the matrix entries. A zeroing and an advance act 4 counter cycles on, an advance needing room and a
head that is set. A row with no step under way captures its count, does nothing for zero, and otherwise reads one step's
slots and lands 4 counter cycles on; where a check fails it raises that fault and its instance stays, marked. A landing step zeroes the head where it must, adds each
output's exact sum of products, rounded once, wrapped or saturating, and on its last step advances the ring. -/
def Obligations.MatrixEngine : Prop :=
  (∀ (s : State) (h : EHdr) (acc : Acc),
    (∃ t, exec (.mmz h acc) s = .next t ∧ SendsOnly s t 4 (.mmz acc) 0 0) ∧
    (let ok := ringRoom s.myCore s.myLane = true ∧ (ringView s.myCore s.myLane).mode ≠ .unset
     (ok → ∃ t, exec (.radv h) s = .next t ∧ SendsOnly s t 4 .radv 0 0) ∧ (¬ ok → FirstFault s → EntryRaises s (.radv h) .ring 0))) ∧
  (∀ (s : State) (o : OpRow) (sparse : Bool) (i : Instr), (i = .mm o ∧ sparse = false ∨ i = .mms o ∧ sparse = true) →
    let c := s.myCore
    let going := currentInst c s.myLane.act s.cur.idx s.cur.lane
    let fires (r : RowInst) (nf : Nat) : Prop := ∃ t r', exec i s = .next t ∧ r' = { r with j := r.j + 1, fault := false, reads := r'.reads } ∧
      (t.core (core0 s)).inst r.id = some r' ∧ Sends s t 4 (.row r.id r.j) nf 0 ∧ t = { s with lanes := t.lanes, cores := t.cores, nextId := t.nextId } ∧
      r'.reads = r.reads ++ [(r.j, readStep c s.myLane.width (slotLimit s.myLane.width) o sparse r.j)] ∧
      t.core (core0 s) = { c with rows := (t.core (core0 s)).rows } ∧ (∀ k, k ≠ core0 s → t.core k = s.core k) ∧ ∀ a, memGet t.mem a = memGet s.mem a
    (going = none → rowCount s o = 0 → exec i s = .next s) ∧
    (going = none → rowCount s o ≠ 0 →
      let rep := min 4096 (rowCount s o)
      let r : RowInst := { id := s.nextId, bank := s.myLane.act, entry := s.cur.idx, lane := s.cur.lane, row := o, sparse, rep, j := 0, done := 0,
                           active := true, code := false, strictCode := false, fault := false, everFault := false, reads := [] }
      (∀ e, RowFails s o sparse 0 rep e → FirstFault s → RowRaises s i r e) ∧
      ((∀ e, ¬ RowFails s o sparse 0 rep e) → fires r (if 4096 < rowCount s o then fSAT else 0))) ∧
    (∀ r, going = some r →
      (∀ e, RowFails s o sparse r.j r.rep e → FirstFault s → RowRaises s i r e) ∧
      ((∀ e, ¬ RowFails s o sparse r.j r.rep e) → fires r 0))) ∧
  (∀ (s : State) (core id j : Nat) (rest : List (Nat × Nat)) (r : RowInst) (fa fb : Fmt),
    let c := s.core core
    let slots := tblGet [] r.reads j
    let pl := planeSlots slots 0
    let zero := j = 0 ∧ r.row.z = true
    let old (i k : Nat) : Int := if j = 0 && r.row.z then 0 else tblGet 0 (c.tile c.head).acc (i * 16 + k)
    let gov (i k : Nat) : Nat := if j = 0 && r.row.z then 0 else tblGet 0 (c.tile c.head).gov (i * 16 + k)
    let ts (i k : Nat) : List (XR × Bool) := products r fa fb pl pl i k j
    let sigma (i k : Nat) : Int := ((ts i k).map fun x => xInt x.1).sum
    c.landing = (id, j) :: rest → c.inst id = some r → r.row.m ≤ 16 → r.row.n ≤ 16 →
    (r.row.afmt = some fa ∨ (r.row.afmt = none ∧ fmtOf (nth5 slots 0).sfmt = some fa)) →
    (r.row.bfmt = some fb ∨ (r.row.bfmt = none ∧ fmtOf (nth5 slots 2).sfmt = some fb)) →
    ∃ t, exec (.matrixStepLand core) s = .next t ∧ (t.core core).landing = rest ∧ (∀ a, memGet t.mem a = memGet s.mem a) ∧
      (∀ u, (t.core core).elem u = c.elem u) ∧ (t.core core).tail = c.tail ∧
      (if j + 1 = r.rep ∧ r.row.adv = true then
        (t.core core).head = (c.head + 1) % tileLimit (s.lane r.lane).width ∧ (t.core core).full = c.full + 1 ∧
          ((c.head + 1) % tileLimit (s.lane r.lane).width ≠ c.head → ((t.core core).tile (t.core core).head).mode = .unset)
       else
        let h := (t.core core).tile c.head
        (t.core core).head = c.head ∧ (t.core core).full = c.full ∧ h.m = r.row.m ∧ h.n = r.row.n ∧ (zero → h.mode = modeOf r.row.acc) ∧
        ∀ i k, k < 16 →
          (¬ (i < r.row.m ∧ k < r.row.n) → tblGet 0 h.acc (i * 16 + k) = old i k) ∧
          (i < r.row.m → k < r.row.n →
            (r.row.acc = .w32 → tblGet 0 h.acc (i * 16 + k) = (BitVec.ofInt 32 (old i k + sigma i k)).toInt) ∧
            (r.row.acc = .s32 →
              (gov i k = 0 → (old i k + sigma i k).natAbs < 2 ^ 39 → tblGet 0 h.acc (i * 16 + k) = old i k + sigma i k ∧ tblGet 0 h.gov (i * 16 + k) = 0) ∧
              (gov i k = 0 → (2 ^ 39 : Int) ≤ old i k + sigma i k → tblGet 0 h.acc (i * 16 + k) = 2 ^ 39 - 1 ∧ tblGet 0 h.gov (i * 16 + k) = 1) ∧
              (gov i k = 0 → old i k + sigma i k ≤ -(2 ^ 39 : Int) → tblGet 0 h.acc (i * 16 + k) = -(2 ^ 39 - 1) ∧ tblGet 0 h.gov (i * 16 + k) = 2)) ∧
            (r.row.acc = .f32 → tblGet 0 h.acc (i * 16 + k) = ((accFloat r.row.rm (old i k).toNat (ts i k)).1 : Int))))) ∧
  (∀ (s : State) (lane n : Nat) (acc : Acc),
    let c := s.core (coreOf lane)
    let w := (s.lane lane).width
    LandsAs s lane (.mmz acc) (ringZero c w (modeOf acc) 16 16) ∧
    LandsAs s lane .radv (ringAdvance c w).1 ∧ LandsAs s lane (.pop n) { c with full := c.full - n, tail := (c.tail + n) % tileLimit w })

namespace Sys2Proof.Slice0

/-- The code of output `k` of tile row `row`, zero beyond the tile's columns (R284). -/
def outCode (s : State) (row k : Nat) : Nat :=
  let t := tailTile s.myCore s.myLane.width 0 0
  if k < t.n then ((epOut s.myCore (epCfg s.myCore) t t row k 0).map (·.1)).getD 0 else 0

/-- No output of the tile row, in any plane, is one that its policy faults. -/
def RowOk (s : State) (row : Nat) : Prop :=
  ∀ k, k < (tailTile s.myCore s.myLane.width 0 0).n → k < 16 → ∀ p ∈ 0 :: planeNums s.myLane.width,
    (epOut s.myCore (epCfg s.myCore) (tailTile s.myCore s.myLane.width 0 0) (tailTile s.myCore s.myLane.width 0 p) row k p).isSome = true

/-- The rows that an `epw` writes, plane by plane, each at q[OQ] + i × PITCH. -/
def epwRuns (s : State) (x : Bnd) (base pitch : Nat) (vals : Nat → Nat → List Nat × Nat × Nat) : List (Nat × Int × List Byte) :=
  (0 :: (if x.f.diff then planeNums s.myLane.width else [])).flatMap fun p =>
    (joinRows ((List.range (tailTile s.myCore s.myLane.width 0 0).m).map fun (i : Nat) =>
      ((base : Int) + (i * pitch : Nat), (vals p i).1.map fun b => (BitVec.ofNat 8 b : Byte)))).map fun z => (p, z.1, z.2)

end Sys2Proof.Slice0

/-- R281 to R287: the epilogue entries. A configuration acts one counter cycle on, a pop needs a full tile; a scale or
bias vector is read from a full slot; a converted tile row reaches the north latches six counter cycles on; a tile, or a
pair, is converted and written to its binding's write face four counter cycles on, nothing before. -/
def Obligations.EpilogueEngine : Prop :=
  (∀ (s : State) (h : EHdr) (g : EpCfg), ∃ t, exec (.epc h g) s = .next t ∧ SendsOnly s t 1 (.epc g) 0 0) ∧
  (∀ (s : State) (h : EHdr),
    ((ringView s.myCore s.myLane).avail ≠ 0 → ∃ t, exec (.epd h) s = .next t ∧ SendsOnly s t 1 (.pop 1) 0 0) ∧
    ((ringView s.myCore s.myLane).avail = 0 → FirstFault s → EntryRaises s (.epd h) .ring 0)) ∧
  (∀ (s : State) (h : EHdr) (slot : Nat) (bias : Bool),
    let ok := (s.myCore.slot slot).st = .full ∧ slot < slotLimit s.myLane.width
    let word (k : Nat) : Nat := leNat ((List.range 4).map fun b => tblGet 0 (s.myCore.slot slot).bytes (4 * k + b))
    (ok → ∃ t v ps, exec (.epb h slot bias) s = .next t ∧ SendsOnly s t 2 (.vec bias v ps) 0 0 ∧ v = (List.range 16).map word) ∧
    (¬ ok → FirstFault s → EntryRaises s (.epb h slot bias) .slotClaim 0)) ∧
  (∀ (s : State) (h : EHdr) (row col : Nat) (pop : Bool),
    let g := epCfg s.myCore
    let fits := g.raw = true ∨ (8 ≤ Machine.fmtBits g.ofmt ∧ isTri g.ofmt = false ∧ isBlock g.ofmt = false)
    let some_ := (ringView s.myCore s.myLane).avail ≠ 0
    (¬ some_ → FirstFault s → EntryRaises s (.epi h row col pop) .ring 0) ∧
    (some_ → ¬ fits → FirstFault s → EntryRaises s (.epi h row col pop) .reservedCombo 0) ∧
    (some_ → fits → ¬ RowOk s row → FirstFault s → EntryRaises s (.epi h row col pop) .convert 0) ∧
    (some_ → fits → RowOk s row → ∃ t fs, exec (.epi h row col pop) s = .next t ∧ OnlySends s t { stamp := 0, hold := false, pred := 7, pneg := false } [] ∧
      (t.lane (lane0 s)).flights = s.myLane.flights ++ fs ∧ (∀ f ∈ fs, f.due = s.myLane.pos + 6) ∧
      fs.length = outBits g / 8 + (if pop = true then 1 else 0) ∧ (pop = true → ∃ f, fs.getLast? = some f ∧ f.land = .pop 1) ∧
      ∀ q, q < outBits g / 8 → ∃ f v, fs[q]? = some f ∧ f.land = .edge true (s.myLane.org.2 + col + q) v ∧ v.scaled = g.otag ∧
        ∀ j, j < 128 / outBits g → laneOfV (outBits g) v.bits j = outCode s row (q * (128 / outBits g) + j) % 2 ^ outBits g)) ∧
  (∀ (s : State) (h : EHdr) (bsel oq pitch : Nat) (pop pair : Bool) (x : Bnd),
    let g := epCfg s.myCore
    let l := s.myLane
    let need := if pair = true then 2 else 1
    let t0 := tailTile s.myCore l.width 0 0
    let base := (l.getQ oq).toNat
    s.engBnd s.cur.lane bsel = some x →
    ((ringView s.myCore l).avail < need → FirstFault s → EntryRaises s (.epw h bsel pop pair oq pitch) .ring 0) ∧
    (need ≤ (ringView s.myCore l).avail → pair = (!g.raw && isBlock g.ofmt) → (pair = false → t0.n * outBits g % 8 = 0) →
      (pair = true → ∀ a, s.attrAt s.cur.lane .epi l.cwin x.b.hwin (vaOf (x.f.vaddr + planeOff x.f l.width (s.shadow s.cur.lane x.f) 0) base) = some a →
        a.rowl = 0 ∧ a.scl = 1) →
      ∀ vals, (∀ p ∈ 0 :: (if x.f.diff then planeNums l.width else []), ∀ i, i < t0.m → epwRow s.myCore g l.width pair i p = some (vals p i)) →
      (∀ i, i < t0.m → ((base + i * pitch : Nat) : Int) + (vals 0 i).1.length ≤ x.f.size) →
      ∀ s' ps, engRows s s.cur.lane .epi x (epwRuns s x base pitch vals) s = .ok s' ps →
      ∃ t nf tf, exec (.epw h bsel pop pair oq pitch) s = .next t ∧ SendsOnly (noteWrote s' s.cur.lane x.f.id) t 4 (.epw bsel ps (if pop = true then need else 0)) nf tf ∧
        ∀ a, memGet t.mem a = memGet s'.mem a))

/-- R320 to R324: a data-moving entry reads its descriptor when it fires, raises what stops it, and else joins its
core's queue with nothing done yet and the operand slots it is to fill FILLING; a copy of nothing does nothing. A
`drain` that fires does nothing more, and a copy that is over leaves the queue with its slots FULL. -/
def Obligations.CopyEngine : Prop :=
  (∀ (s : State) (o : OpCopy) (vq op : Nat) (i : Instr),
    ((i = .copy o ∧ op = 0) ∨ (i = .copyc o ∧ op = 1) ∨ (i = .fill o vq ∧ op = 2) ∨ (i = .prefetch o ∧ op = 3) ∨ (i = .wld o ∧ op = 4)) →
    let sb := if op = 2 then 0xFF else o.sb
    let db := if op = 3 ∨ op = 4 then 0xFF else o.db
    ∀ src dst, copyBnd s (lane0 s) sb = some src → copyBnd s (lane0 s) db = some dst →
      (∀ x c n, readDesc s (lane0 s) op o.dop o.dq = (x, .inr (.inl (c, n))) → exec i s = .next (raise s c n)) ∧
      (∀ s' d pa, readDesc s (lane0 s) op o.dop o.dq = (s', .inl (d, pa)) →
        let sface := if src.f.mode = 2 then 0 else s.face (dieOf (lane0 s)) (s.workOf (lane0 s)) src.f.id
        let dface := s.shadow (lane0 s) dst.f
        ∃ u : State, u = { s' with lanes := u.lanes, cores := u.cores, nextId := u.nextId } ∧ (∀ a, memGet u.mem a = memGet s'.mem a) ∧
          (∀ k, u.core k = { s'.core k with reqs := (u.core k).reqs }) ∧
          (d.total = 0 → exec i s = .next u) ∧
          (d.total ≠ 0 → ∀ c n, copyCheck u (lane0 s) op d src dst o.dop sface dface = .inl (c, n) → exec i s = .next (raise s c n)) ∧
          (d.total ≠ 0 → ∀ slots, copyCheck u (lane0 s) op d src dst o.dop sface dface = .inr slots → slots.Nodup →
            ∃ t x, exec i s = .next t ∧ (t.core (core0 s)).copies = (u.core (core0 s)).copies ++ [x] ∧ x.desc = d ∧ x.op = op ∧ x.sb = sb ∧ x.db = db ∧
              x.outIdx = 0 ∧ x.rdIdx = 0 ∧ x.legs = [] ∧ x.sface = sface ∧ x.dface = dface ∧ x.st = .queued ∧ x.lane = lane0 s ∧ (op = 2 → x.vq = (s.myLane.getQ vq).toNat) ∧ (∀ a, memGet t.mem a = memGet s'.mem a) ∧
              (∀ k ∈ slots, ((t.core (core0 s)).slot k) = { (u.core (core0 s)).slot k with st := .filling }) ∧
              (∀ k, k ∉ slots → (t.core (core0 s)).slot k = (u.core (core0 s)).slot k) ∧ ∀ e, (t.core (core0 s)).elem e = (u.core (core0 s)).elem e))) ∧
  (∀ (s : State) (h : EHdr) (mem : Nat), exec (.drain h mem) s = .next s) ∧
  (∀ (s : State) (core : Nat) (x : CopyOp) (r : List CopyOp), (s.core core).copies = x :: r → x.outIdx = x.desc.total →
    ∃ t, exec (.copyDone core) s = .next t ∧ (t.core core).copies = r ∧ (∀ a, memGet t.mem a = memGet s.mem a) ∧
      (∀ k ∈ copySlots x, ((t.core core).slot k).st = .full) ∧ (∀ k, k ∉ copySlots x → (t.core core).slot k = (s.core core).slot k) ∧
      ∀ k, k ≠ core → t.core k = s.core k)

namespace Sys2Proof.Slice0

/-- An entry of the Felt that writes `rows` to the write face of its binding (R294). -/
def FeltWrites (s : State) (i : Instr) (bsel off : Nat) (rows : List (Int × List Byte)) (land : List Piece → Land) : Prop :=
  ∀ x, s.engBnd (lane0 s) bsel = some x →
    (off % 64 ≠ 0 → exec i s = .next (raise s .permission (vaOf x.f.vaddr off))) ∧
    (off % 64 = 0 → (∃ y ∈ rows, ¬ (0 ≤ y.1 ∧ y.1 + y.2.length ≤ x.f.size)) → ∃ va, exec i s = .next (raise s .permission va)) ∧
    (off % 64 = 0 → (∀ y ∈ rows, 0 ≤ y.1 ∧ y.1 + y.2.length ≤ x.f.size) →
      let scl := sclAt s (lane0 s) x (s.shadow (lane0 s) x.f) (rows.flatMap fun y => [y.1, y.1 + (y.2.length : Int) - 1])
      (scl = true → exec i s = .next (raise s .reservedCombo)) ∧
      (scl = false → ∀ s' ps, engRows s (lane0 s) .felt x (feltRows x s.myLane.width rows) s = .ok s' ps →
        ∃ t, exec i s = .next t ∧ SendsOnly (noteWrote s' (lane0 s) x.f.id) t 4 (land ps) 0 0 ∧ ∀ a, memGet t.mem a = memGet s'.mem a))

end Sys2Proof.Slice0

/-- R289 to R299: the Felt's entries: a load of cells joins its channel unless its context is in use or a page is scaled;
a context is made active one counter cycle on; a layer evaluates every cell on the wires as they stood; a clear zeroes
wires, or a context that is not loading; samples are read into planes, and planes and scores written out or presented
to the south latches; a load that is over leaves its context READY, or BAD if a cell is. -/
def Obligations.FeltEngine : Prop :=
  (∀ (s : State) (h : EHdr) (ctx bsel oq cell n : Nat) (x : Bnd), s.engBnd (lane0 s) bsel = some x →
    let f := s.felt (lane0 s)
    let off := (s.myLane.getQ oq).toNat
    let busy := f.active = some ctx ∨ f.pendAct = some ctx ∨ f.ctx ctx = .loading
    let scl := sclAt s (lane0 s) x (accessFace s (lane0 s) x (feltLive s (lane0 s) x) false).1 (pageOffs off (32 * n))
    (busy → FirstFault s → EntryRaises s (.fldt h ctx bsel oq cell n) .felt 0) ∧
    (¬ busy → x.f.size < off + 32 * n → FirstFault s → EntryRaises s (.fldt h ctx bsel oq cell n) .permission (vaOf x.f.vaddr off)) ∧
    (¬ busy → off + 32 * n ≤ x.f.size → scl = true → FirstFault s → EntryRaises s (.fldt h ctx bsel oq cell n) .reservedCombo 0) ∧
    (¬ busy → off + 32 * n ≤ x.f.size → scl = false →
      ∃ t ld, exec (.fldt h ctx bsel oq cell n) s = .next t ∧ (t.felt (lane0 s)).loads = f.loads ++ [ld] ∧ ld.ctx = ctx ∧ ld.bind = bsel ∧ ld.base = off ∧
        ld.first = cell ∧ ld.next = cell ∧ ld.last = cell + n - 1 ∧
        (∀ k, (t.felt (lane0 s)).ctx k = if k = ctx then .loading else f.ctx k) ∧ (t.felt (lane0 s)).cells = f.cells ∧ (t.felt (lane0 s)).wires = f.wires ∧
        ∀ a, memGet t.mem a = memGet s.mem a)) ∧
  (∀ (s : State) (h : EHdr) (ctx cell wire n : Nat),
    let f := s.felt (lane0 s)
    (∃ t, exec (.fctx h ctx) s = .next t ∧ Sends s t 1 (.fctx ctx) 0 0 ∧ t.felt (lane0 s) = { f with pendAct := some ctx }) ∧
    (∀ a, f.active = some a → f.ctx a = .ready → ∃ t ws, exec (.feval h cell n) s = .next t ∧ SendsOnly s t 1 (.wires cell ws) 0 0 ∧ ws.length = n ∧
      ∀ k v, ws[k]? = some v → ∀ b, b < 256 →
        let c := f.cell a (cell + k)
        let bit (m : Nat) : Nat := if (f.wire ((c.sel[m]?).getD 0)).getLsbD b = true then 2 ^ m else 0
        v.getLsbD b = c.tt.testBit (bit 0 + bit 1 + bit 2 + bit 3 + bit 4 + bit 5)) ∧
    ((∀ a, f.active = some a → f.ctx a ≠ .ready) → FirstFault s → ∃ info, EntryRaises s (.feval h cell n) .felt info) ∧
    (∃ t, exec (.fclr h wire n) s = .next t ∧ SendsOnly s t 1 (.wires wire (List.replicate n 0)) 0 0) ∧
    (f.ctx ctx ≠ .loading → ∃ t, exec (.fclrCtx h ctx) s = .next t ∧ SendsOnly s t 1 (.fclrCtx ctx) 0 0) ∧
    (f.ctx ctx = .loading → FirstFault s → EntryRaises s (.fclrCtx h ctx) .felt 0)) ∧
  (∀ (s : State) (o : OpFx) (x : Bnd), s.engBnd (lane0 s) o.bsel = some x →
    let off := (s.myLane.getQ o.oq).toNat
    let n := 256 * 2 ^ o.sz
    (¬ (off % 64 = 0 ∧ off + n ≤ x.f.size) → FirstFault s → EntryRaises s (.fxin o) .permission (vaOf x.f.vaddr off)) ∧
    (off % 64 = 0 → off + n ≤ x.f.size →
      let live := if x.f.mode = 2 then 0 else s.face (dieOf (lane0 s)) (s.workOf (lane0 s)) x.f.id
      let scl := sclAt s (lane0 s) x (accessFace s (lane0 s) x live false).1 (pageOffs off n)
      (scl = true → FirstFault s → EntryRaises s (.fxin o) .reservedCombo 0) ∧
      (scl = false → ∀ s' ps, prepPieces (lane0 s) .felt x s.myLane.cwin .read (.int .i64) s.myLane.width
        (accessFace s (lane0 s) x live false)
        ((planesFor x s.myLane.width).flatMap fun p => (splitBy 64 (n / 64 + 1) off n).map fun y => (y.1, p, y.1, y.2)) s = .ok s' ps →
      ∃ t r f, exec (.fxin o) s = .next t ∧ Asks (s'.core (core0 s)) (t.core (core0 s)) r ps ∧ r.store = false ∧
        (t.lane (lane0 s)).flights = (s'.lane (lane0 s)).flights ++ [f] ∧ f.land = .fxin o r.id ∧
        f.due = (s'.lane (lane0 s)).pos + (if allSpad s' ps = true then 8 else 32) ∧ ∀ a, memGet t.mem a = memGet s'.mem a))) ∧
  (∀ (s : State) (o : OpFx),
    let f := s.felt (lane0 s)
    let off := (s.myLane.getQ o.oq).toNat
    ∃ sample : Nat → Nat, FeltWrites s (.fxout o) o.bsel off
        ((List.range 256).map fun (k : Nat) => ((off : Int) + (k * 2 ^ o.sz : Nat), leBytes (2 ^ o.sz) (sample k))) (.fxout o.bsel) ∧
      ∀ k, k < 256 → ∀ b, (sample k).testBit b = (decide (o.lo ≤ b) && decide (b < o.lo + o.width) && (f.wire (o.wire + (b - o.lo))).getLsbD k)) ∧
  (∀ (s : State) (h : EHdr) (bsel oq wire gsize groups pitch smp : Nat),
    let f := s.felt (lane0 s)
    let off := (s.myLane.getQ oq).toNat
    let score (g k : Nat) : Nat := ((List.range gsize).filter fun j => (f.wire (wire + g * gsize + j)).getLsbD k).length
    FeltWrites s (.fpop h bsel oq wire gsize groups pitch) bsel off
      ((List.range 256).map fun (k : Nat) => ((off : Int) + (k * pitch : Nat), (List.range groups).flatMap fun g => leBytes 2 (score g k))) (.fpop bsel) ∧
    (s.myLane.org.1 + s.myLane.hdr.rows < 8 → FirstFault s → EntryRaises s (.fpopLat h wire gsize groups smp) .felt 0) ∧
    (8 ≤ s.myLane.org.1 + s.myLane.hdr.rows → ∃ t fs, exec (.fpopLat h wire gsize groups smp) s = .next t ∧
      OnlySends s t { stamp := 0, hold := false, pred := 7, pneg := false } [] ∧
      (t.lane (lane0 s)).flights = s.myLane.flights ++ fs ∧ fs.length = s.myLane.hdr.cols ∧
      ∀ c, c < s.myLane.hdr.cols → ∃ e v, fs[c]? = some e ∧ e.due = s.myLane.pos + 3 ∧ e.land = .edge false (s.myLane.org.2 + c) v ∧
        ∀ g, g < 8 → laneOfV 16 v.bits g = (if g < groups then score g (smp + c) else 0) % 2 ^ 16)) ∧
  (∀ (s : State) (core : Nat) (ld : FeltLoad), (s.core core).felt.loads.find? (fun l => decide (l.last < l.next)) = some ld →
    let bad := ∃ y ∈ (s.core core).felt.cells, y.1 / 4096 = ld.ctx ∧ y.2.bad = true
    ∃ t, exec (.feltLoadDone core) s = .next t ∧ (t.core core).felt.loads = (s.core core).felt.loads.filter (fun l => l.ctx != ld.ctx) ∧ t = { s with cores := t.cores } ∧
      (bad → (t.core core).felt.ctx ld.ctx = .bad) ∧ (¬ bad → (t.core core).felt.ctx ld.ctx = .ready) ∧
      (∀ k, k ≠ ld.ctx → (t.core core).felt.ctx k = (s.core core).felt.ctx k) ∧ (t.core core).felt.wires = (s.core core).felt.wires)

/-! ## Events of a running package -/

namespace Sys2Proof.Slice0

/-- `t` differs from `s` in one lane alone, which is now `x`. -/
def LaneSet (s t : State) (lane : Nat) (x : Lane) : Prop :=
  t = { s with lanes := t.lanes } ∧ t.lane lane = x ∧ ∀ k, k ≠ lane → t.lane k = s.lane k

/-- Memory reads alike in two states. -/
def SameMem (s t : State) : Prop := ∀ a, memGet t.mem a = memGet s.mem a

end Sys2Proof.Slice0

/-- R160, R170, R171, R180, R184, R190, R313, R336, R350: what the events within a region do: a load turns READY; a wrap
starts the next interval and, at a frame's end, swaps the banks where a swap is armed; a region ends; a frame event
frees the lanes that arrived and makes the flips it is due; a die sees a flip; a reply of memory comes, or waits; a page
walk ends its waits; a hot page is recorded and counted anew. -/
def Obligations.RegionEvents : Prop :=
  (∀ (s : State) (lane bank : Nat),
    let b := (s.lane lane).bank bank
    (b.st = .loading → b.readyAt ≤ s.now → ∃ t x, exec (.bankReady lane bank) s = .next t ∧ LaneSet s t lane x ∧
      x = { s.lane lane with banks := x.banks } ∧ ∀ k, x.bank k = if k = bank then { b with st := .ready } else (s.lane lane).bank k) ∧
    (¬ (b.st = .loading ∧ b.readyAt ≤ s.now) → exec (.bankReady lane bank) s = .next s)) ∧
  (∀ (s : State) (lane : Nat),
    let l := s.lane lane
    let done_ := l.intdone + 1 = l.trips
    let frame := l.frameLeft = 1
    (l.ended = true → ∃ t, exec (.intervalWrap lane) s = .next t ∧ LaneSet s t lane { l with ccyc := 0 }) ∧
    (l.ended = false → ∃ t, exec (.intervalWrap lane) s = .next t ∧ SameMem s t ∧ t = { s with lanes := t.lanes, cores := t.cores, groups := t.groups, evq := t.evq } ∧
      (∀ k, k ≠ lane → t.lane k = s.lane k) ∧
      (t.lane lane).ccyc = 0 ∧ (t.lane lane).intdone = l.intdone + 1 ∧ (t.lane lane).base = (l.base + 1) % 24 ∧ (t.lane lane).q = l.q ∧
      ((t.lane lane).ended = true ↔ done_) ∧ (t.lane lane).flights = l.flights ∧
      (¬ (frame ∨ done_) → t.lane lane = { l with ccyc := 0, intdone := l.intdone + 1, base := (l.base + 1) % 24, blockInt := l.blockInt + 1, frameLeft := l.frameLeft - 1, ended := false }) ∧
      ((frame ∨ done_) → (t.lane lane).frameLeft = (t.lane lane).hdr.frameInt ∧ ((t.lane lane).awaitFrame = true ↔ ¬ done_)) ∧
      (frame → l.armed = true → (t.lane lane).act = 1 - l.act ∧ (t.lane lane).armed = false) ∧
      (¬ (frame ∧ l.armed = true) → (t.lane lane).act = l.act ∧ (t.lane lane).armed = l.armed))) ∧
  (∀ (s : State) (lane : Nat),
    let l := s.lane lane
    ∃ t, exec (.regionEnd lane) s = .next t ∧ SameMem s t ∧ (∀ k, k ≠ lane → t.lane k = s.lane k) ∧ (t.lane lane).run = false ∧
      (t.lane lane).awaitFrame = false ∧ (t.lane lane).intdone = l.intdone ∧ (t.lane lane).q = l.q ∧ (t.lane lane).armed = false ∧
      (t.lane lane).act = if l.armed = true then 1 - l.act else l.act) ∧
  (∀ (s : State) (w g : Nat), ∃ t, exec (.frameWireEvent w g) s = .next t ∧
    (t.group w g).count = (s.group w g).count + 1 ∧ (t.group w g).evAt = s.now ∧ (t.group w g).event = none ∧ (t.group w g).steps = [] ∧
    (∀ k, laneGroup (s.lane k) = some (w, g) → (s.lane k).arrived = true → (t.lane k).arrived = false ∧ (t.lane k).awaitFrame = false) ∧
    (∀ k, laneGroup (s.lane k) ≠ some (w, g) → (t.lane k).arrived = (s.lane k).arrived ∧ (t.lane k).awaitFrame = (s.lane k).awaitFrame) ∧
    ∀ f ∈ s.flips, f.workid = w → f.group = g → f.when_ = none → f.done ≤ (s.group w g).last → Todo.event (.faceFlip (dieOf f.lane) f.id) ∈ t.agenda) ∧
  (∀ (s : State) (die : Nat) (f : Flip), s.flips.find? (fun x => x.id == f.id) = some f →
    ∃ t, exec (.faceFlip die f.id) s = .next t ∧ t = { s with bufs := t.bufs, flips := t.flips } ∧ t.bufs.length = s.bufs.length ∧
      ∀ (k : Nat) (b : BufSt), s.bufs[k]? = some b → ∃ b' : BufSt, t.bufs[k]? = some b' ∧ (¬ (b.workid = f.workid ∧ b.id = f.buf) → b' = b) ∧
        (b.workid = f.workid → b.id = f.buf → b'.workid = b.workid ∧ b'.id = b.id ∧
          (∀ d, tblGet 0 b'.faces d = if d = die then 1 - tblGet 0 b.faces d else tblGet 0 b.faces d) ∧
          (∀ d, tblGet false b'.pstats d = if d = die then f.pstat else tblGet false b.pstats d) ∧
          (die = dieOf f.lane → b'.pending = false) ∧ (die ≠ dieOf f.lane → b'.pending = b.pending))) ∧
  (∀ (s : State) (die group : Nat), ∃ t, exec (.weightStoreRefresh die group) s = .next t ∧ t = { s with evq := t.evq } ∧
    (s.now + 400 * 120, Instr.weightStoreRefresh die group) ∈ t.evq) ∧
  (∀ (s : State) (core : Nat) (r : Req), s.findReq r.id = some (core, r) →
    let due := ∃ p ∈ r.pieces, dueNow s p = true
    let asleep := ∃ p ∈ r.pieces, dueNow s p = true ∧ s.asleep p.pa = true
    let held := ∃ p ∈ r.pieces, dueNow s p = true ∧ pieceWaits s core r p = true
    let whole := r.away = 0 ∧ ∀ p ∈ r.pieces, p.done = true ∨ (dueNow s p = true ∧ s.farDie (core / 16) p.pa = none)
    ((¬ due ∨ r.atomic = true) → exec (.memoryReply r.id) s = .next s) ∧
    (r.atomic = false → asleep → ∃ t, exec (.memoryReply r.id) s = .next t ∧ t = { s with evq := t.evq } ∧ (s.now + 120, Instr.memoryReply r.id) ∈ t.evq) ∧
    (r.atomic = false → ¬ asleep → held → ∃ t, exec (.memoryReply r.id) s = .next t ∧ t = { s with evq := t.evq } ∧ (s.now + 1, Instr.memoryReply r.id) ∈ t.evq) ∧
    (r.atomic = false → due → ¬ asleep → ¬ held → ∃ t, exec (.memoryReply r.id) s = .next t ∧ SameMem s t ∧
      (∀ u, (t.core core).elem u = (s.core core).elem u) ∧ (t.core core).opm = (s.core core).opm ∧
      (∀ x ∈ (t.core core).reqs, x.id = r.id → ∀ (k : Nat) (p : Piece), r.pieces[k]? = some p → ∃ q : Piece, x.pieces[k]? = some q ∧
        (q.done = true ↔ (p.done = true ∨ dueNow s p = true))) ∧
      (whole → ∀ x ∈ (t.core core).reqs, x.id = r.id → x.ready = true))) ∧
  (∀ (s : State) (w va : Nat) (store : Bool), ∃ t, exec (.pageWalk w va store) s = .next t ∧
    (∀ x ∈ s.lanes, s.workOf x.1 = w → s.lane x.1 = x.2 → ∀ y ∈ (t.lane x.1).xl, y.2.1 = va → y.2.2 = s.now) ∧
    ((∀ x ∈ s.lanes, s.workOf x.1 = w → (∀ y ∈ x.2.xl, y.2.1 ≠ va) ∧ aheadWaits s x.1 va = false) → t = s)) ∧
  (∀ (s : State) (core port page : Nat),
    let hot (e : TlbEnt) : Bool := e.va == page && decide ((s.die (core / 16)).hotThresh ≤ e.heat)
    (((s.core core).port port).tlb.find? hot = none → exec (.hotThreshold core port page) s = .next s) ∧
    (∀ e, ((s.core core).port port).tlb.find? hot = some e →
      ∃ t r, exec (.hotThreshold core port page) s = .next t ∧ t = { s with cores := t.cores, nq := { s.nq with soon := t.nq.soon } } ∧
        r.bytes = noteRec 0x20 (core / 16) (core % 16) port e.workid 0 page e.heat e.deliv s.tick ∧ (∀ x, x ∈ t.nq.soon ↔ x = r ∨ x ∈ s.nq.soon) ∧
        ∀ (k : Nat) (x : TlbEnt), ((s.core core).port port).tlb[k]? = some x → ∃ y : TlbEnt, ((t.core core).port port).tlb[k]? = some y ∧
          y = if x.va = page ∧ x.workid = e.workid then { x with heat := 0, deliv := 0 } else x))

/-- R134, R310, R312, R342, R353 to R355, R359: a queue's head that lies in its die's own buffer performs and leaves the
queue, the next one taking its place; an unanswered atomic is sent again; a write in transit performs at its home when
it arrives. An arrival that lands counts at its barrier, the last one of a round turning the phase, and a release is
seen by the waiters of its cores. -/
def Obligations.WriteAndBarrierEvents : Prop :=
  (∀ (s : State) (core port : Nat) (e : WEnt) (q : List WEnt), ((s.core core).port port).queue = e :: q → e.kind = .store → e.sent ≠ none → e.tag = none → e.req = none →
    (∀ p ∈ e.pieces, p.done = false ∧ ∃ part, s.homeOf p.pa = .buf (core / 16) part) →
    ∃ t, exec (.writePerform core port) s = .next t ∧ SameMem (s.performPieces e.pieces) t ∧
      (((t.core core).port port).queue).map unsent = q.map unsent ∧ ∀ k, k ≠ core → t.core k = s.core k) ∧
  (∀ (s : State) (core port : Nat) (e : WEnt) (q : List WEnt) (u : Nat), ((s.core core).port port).queue = e :: q → e.sent = some u →
    let again := e.kind ≠ .store ∧ u + 240 ≤ s.now ∧ ∃ p ∈ e.pieces, p.done = false
    (again → ∃ t, exec (.atomicResend core port) s = .next t ∧ (s.now + 240, Instr.atomicResend core port) ∈ t.evq ∧ SameMem s t ∧
      t = { s with evq := t.evq, flits := t.flits, nextId := t.nextId, freeCtr := t.freeCtr, trains := t.trains, drams := t.drams }) ∧
    (¬ again → exec (.atomicResend core port) s = .next s)) ∧
  (∀ (s : State) (f : Flit) (late : Bool), s.flits.find? (fun x => x.id == f.id) = some f →
    let asleep := ∃ p ∈ f.pieces, s.asleep p.pa = true
    (asleep → ∃ t, exec (.flitDelivery f.id late) s = .next t ∧ t = { s with evq := t.evq } ∧ (s.now + 120, Instr.flitDelivery f.id late) ∈ t.evq) ∧
    let fresh (a : Nat) : Prop := a ∉ f.overtaken ∧ ∃ p ∈ f.pieces, ∃ k, k < p.n ∧ a = p.pa + k
    (¬ asleep → (∀ c r n, f.sender ≠ .port c r n) → ∃ t, exec (.flitDelivery f.id late) s = .next t ∧
      (f.overtaken = [] → SameMem (s.performPieces f.pieces) t) ∧
      ((∃ p ∈ f.pieces, p.data ≠ []) → ∀ a ∈ f.overtaken, (∀ b, s.homeOf a ≠ .dram b) → memGet t.mem a = memGet s.mem a) ∧
      (t.flits.map fun x => { x with overtaken := [] }) = ((s.flits.filter fun x => x.id != f.id).map fun x => { x with overtaken := [] }) ∧
      (∀ x ∈ t.flits, ∃ y ∈ s.flits, x.id = y.id ∧ (∀ a, a ∈ x.overtaken ↔ a ∈ y.overtaken ∨
        (y.staged = true ∧ f.staged = true ∧ y.src = f.src ∧ y.dst = f.dst ∧ y.id < f.id ∧ fresh a))) ∧
      ((∀ l, f.sender ≠ .step l) → t.lanes = s.lanes ∧ t.cores = s.cores) ∧
      (∀ l id, f.sender = .step l → (s.lane l).heldReq = some id → ∀ x ∈ (t.core (coreOf l)).reqs, x.id = id → x.ready = true) ∧
      (late = true → ∃ bytes ∈ t.lateData, ∀ a, a ∈ bytes ↔ fresh a))) ∧
  (∀ (s : State) (core : Nat) (a : Arrival), (s.core core).arrivals.find? (fun x => x.id == a.id) = some a → core = coreOf a.lane →
    let x := (s.core core).bar a.bar
    let counts := x.init = true ∧ x.owner = slotOf a.lane ∧ x.pend ≠ 0 ∧ x.waitg = false
    (¬ counts → (∀ e ∈ s.faults, ¬ (e.lane = a.lane ∧ e.time = s.now ∧ e.precise = true ∧ e.step = false)) →
      ∃ t e, exec (.barrierArrivalLand core a.id) s = .next t ∧ e ∈ t.faults ∧ e.code = Code.barrier.num ∧ e.lane = a.lane) ∧
    (counts → x.pend ≠ 1 → ∃ t, exec (.barrierArrivalLand core a.id) s = .next t ∧ SameMem s t ∧
      (∀ k, (t.core core).bar k = if k = a.bar then { x with pend := x.pend - 1 } else (s.core core).bar k) ∧
      (t.core core).arrivals = (s.core core).arrivals.filter (fun y => y.id != a.id) ∧
      recOf t a.lane a.key a.bar = { recOf s a.lane a.key a.bar with arr := true, ap := x.ph }) ∧
    (counts → x.pend = 1 → x.scope = 2 → ∃ t r, exec (.barrierArrivalLand core a.id) s = .next t ∧ SameMem s t ∧
      (∀ k, (t.core core).bar k = if k = a.bar then { x with ph := !x.ph, pend := x.cnt, waitg := false } else (s.core core).bar k) ∧
      t.rounds = s.rounds ++ [r] ∧ r.bar = a.bar ∧ r.cores = [core] ∧ (s.now + 2, Instr.barrierRelease r.id) ∈ t.evq)) ∧
  (∀ (s : State) (r : Round), s.rounds.find? (fun x => x.id == r.id) = some r → r.cores.Nodup →
    ∃ t, exec (.barrierRelease r.id) s = .next t ∧ t = { s with rounds := s.rounds.filter fun x => x.id != r.id, cores := t.cores } ∧
      (∀ c, c ∉ r.cores → t.core c = s.core c) ∧
      ∀ c ∈ r.cores,
        let x := (s.core c).bar r.bar
        (∀ k, k ≠ r.bar → (t.core c).bar k = (s.core c).bar k) ∧
        (t.core c).bar r.bar = if r.scope = 2 then { x with phv := !x.phv, rels := x.rels + 1 }
          else { x with ph := !x.ph, phv := !x.ph, pend := x.cnt, waitg := false, rels := x.rels + 1 })

namespace Sys2Proof.Slice0

/-- A block stands at its block-start state on a lane (R169, R173): no unit is configured, its registers are zero and
step 0 issues from cycle `goAt`. -/
def AtStart (t : State) (lane : Nat) (goAt : Nat) : Prop :=
  let l := t.lane lane
  l.q = [] ∧ l.sp = 0 ∧ l.loops = [] ∧ l.arm = none ∧ l.seq = .run ∧ l.goAt = goAt ∧ l.run = false ∧ l.retired = false ∧ l.flights = [] ∧ l.nflags = 0 ∧ l.tflags = 0

/-- A block on a lane is cleared because it failed (R378 to R381): a primary with a fallback starts it 8 cycles into
the tick; any other release ends. -/
def Clears (s t : State) (lane : Nat) (r : Release) : Prop :=
  (r.kind = .firm → r.entry.fblock ≠ 0xFFFF → s.workById r.entry.workid ≠ none →
    AtStart t lane (tickStart s.tick + 8) ∧ ∃ r', (t.lane lane).rel = some r' ∧ r'.kind = .fallback ∧ r'.block = r.entry.fblock ∧ r'.entry = r.entry ∧ r'.fstart = s.tick) ∧
  (¬ (r.kind = .firm ∧ r.entry.fblock ≠ 0xFFFF) → (t.lane lane).retired = true ∧ (t.lane lane).seq = .stopped)

/-- The event `e` is the only one its die may decide now (R375). -/
def DecidesNow (s : State) (e : FaultEv) : Prop :=
  s.faults.find? (fun x => x.id == e.id) = some e ∧ (∀ x ∈ s.faults, dieOf x.lane = dieOf e.lane → x.decideAt ≤ s.now → x = e) ∧
    (s.die (dieOf e.lane)).decided ≠ s.now + 1

/-- The level a fault event is decided at, and what is decided (R371, R372). -/
def decisionOf (s : State) (e : FaultEv) : Decision :=
  let ls := levelsOf s e.workid
  offer s e ls (ls.length + 1) (firstLevel ls (if e.step || 64 ≤ e.unit then 4 else 6))

end Sys2Proof.Slice0

/-- R371 to R376, R378 to R381: a fault event that its die decides is gone; overtaken, it is only recorded; ignored, its
region or step goes on from the next cycle; retried, its entries are kept to fire again two ticks after the fault;
restarted or killed, its block is doomed and cleared at a tick's start. A retry fires its entries again and ends the
freeze; a doomed block restarts from its block-start state, or is cleared for its fallback or for good. -/
def Obligations.Containment : Prop :=
  (∀ (s : State) (e : FaultEv), DecidesNow s e →
    ∃ t, exec (.faultDecision e.id) s = .next t ∧ t.faults = s.faults.filter (fun x => x.id != e.id) ∧ SameMem s t ∧
      (t.die (dieOf e.lane)).decided = s.now + 1 ∧ t.fq.soon.length = s.fq.soon.length + (eventParts e).length ∧
      (overtaken s e = true → t.lanes = s.lanes ∧ t.cores = s.cores ∧ t.evq = s.evq) ∧
      (overtaken s e = false → ∀ k, decisionOf s e = .ignore k → e.precise = true →
        (e.step = true → (t.lane (e.lane)) = { s.lane e.lane with stepAt := s.now + 1 }) ∧
        (e.step = false → (t.lane (e.lane)) = { s.lane e.lane with thawAt := s.now + 1 })) ∧
      (overtaken s e = false → ∀ k, decisionOf s e = .retry k →
        (∀ p ∈ eventParts e, (p.1, p.2.1, e.time / 120 + 2) ∈ (t.lane e.lane).retry) ∧ (tickStart (e.time / 120 + 2), Instr.entryRetry e.lane) ∈ t.evq ∧
        ∀ r, (s.lane e.lane).rel = some r → ∃ r', (t.lane e.lane).rel = some r' ∧ ∀ n, tblGet 0 r'.retries n = tblGet 0 r.retries n + if n = retryKey (levelsOf s e.workid) k (evUnit s e) then 1 else 0) ∧
      (overtaken s e = false → ∀ k, decisionOf s e = .restart k → ∀ r, (s.lane e.lane).rel = some r →
        (r.start, r.fstart) ∈ (t.lane e.lane).doom ∧ (tickStart (s.tick + 1), Instr.blockRestart e.lane) ∈ t.evq)) ∧
  (∀ s id, (∀ x ∈ s.faults, x.id ≠ id) → exec (.faultDecision id) s = .next s) ∧
  (∀ (s : State) (lane : Nat),
    let l := s.lane lane
    let due := l.retry.filter fun r => r.2.2 ≤ s.tick
    ((∀ r ∈ due, r.1 = 255) → due ≠ [] → ∃ t, exec (.entryRetry lane) s = .next t ∧
      LaneSet s t lane { l with retry := l.retry.filter fun r => !decide (r.2.2 ≤ s.tick), seq := .run }) ∧
    ((∃ r ∈ due, r.1 ≠ 255) → ∃ t, exec (.entryRetry lane) s = .next t ∧ SameMem s t ∧ (t.lane lane).faultHold = false ∧ (t.lane lane).thawAt = 0 ∧
      (∀ r ∈ due, r.1 < 64 → (s.core (coreOf lane)).reqs = [] → r ∈ (t.lane lane).retry ∧ (t.lane lane).refire = true))) ∧
  (∀ (s : State) (lane : Nat) (r : Release) (w : Work), (s.lane lane).rel = some r → isDoomed (s.lane lane) = true → s.workById r.entry.workid = some w →
    (∃ t r', exec (.blockRestart lane) s = .next t ∧ AtStart t lane (tickStart s.tick + 8) ∧ (t.lane lane).prog = progOf s w r.block ∧
      (t.lane lane).rel = some r' ∧ r'.entry = r.entry ∧ r'.kind = r.kind ∧ r'.start = r.start ∧ r'.published = none) ∧
    ∃ t, exec (.killClear lane) s = .next t ∧ Clears s t lane r) ∧
  (∀ (s : State) (lane : Nat), isDoomed (s.lane lane) = false → exec (.blockRestart lane) s = .next s ∧ exec (.killClear lane) s = .next s)

namespace Sys2Proof.Slice0

/-- A released entry of a lane was admitted later than an entry (R117). -/
def AdmittedLater (s : State) (e : Entry) (id : Nat) : Prop :=
  ∃ y, s.elastics.find? (fun x => x.id == id) = some y ∧
    ((admitted s e).1 < (admitted s y.entry).1 ∨ (admitted s e).1 = (admitted s y.entry).1 ∧ (admitted s e).2 < (admitted s y.entry).2)

end Sys2Proof.Slice0

/-- R116, R117, R129, R377 to R387: a block starts at its block-start state, an elastic one only while no other slot
holds an engine it binds; an elastic entry joins its lane's queue in admission order unless it is there; its block stops
at a tick's start, for the cause that arose first, is saved two ticks later, its lane then being free, and resumes from
what was saved, its accesses translated anew, or stays away while a page of theirs is absent; a primary or a fallback
that has not retired at its deadline is counted, reported and cleared. -/
def Obligations.BlockEvents : Prop :=
  (∀ (s : State) (lane key : Nat) (w : Work) (e : Entry), erelOf s lane key = none → entryAt s lane key = some (w, e) → e.elastic = false →
    ∃ t r, exec (.blockStart lane key) s = .next t ∧ t = { s with lanes := t.lanes, cores := t.cores, rounds := t.rounds } ∧
      (∀ k, k ≠ lane → t.lane k = s.lane k) ∧ AtStart t lane s.now ∧
      (((s.lane lane).prefetched = none ∨ (s.lane lane).prefetched = some (entryKey e)) → t = { s with lanes := t.lanes }) ∧
      (t.lane lane).rel = some r ∧ r.entry = e ∧ r.kind = .firm ∧ r.start = s.tick ∧ r.block = e.block ∧ (t.lane lane).hwin = spaceWins s e.workid ∧
      ((s.lane lane).prefetched ≠ some (entryKey e) → (t.lane lane).banks = [] ∧ (t.lane lane).org = (0, 0)) ∧
      ((s.lane lane).prefetched = some (entryKey e) → (t.lane lane).banks = (s.lane lane).banks ∧ (t.lane lane).org = (s.lane lane).org) ∧
      (t.lane lane).prog = if (s.lane lane).nextProg = [] then progOf s w e.block else (s.lane lane).nextProg) ∧
  (∀ (s : State) (lane key : Nat) (x : ERel) (w : Work), erelOf s lane key = some x → s.workById x.entry.workid = some w →
    (engineTaken s lane x = false → ∃ t r, exec (.blockStart lane key) s = .next t ∧ AtStart t lane s.now ∧ (t.lane lane).rel = some r ∧
      r.entry = x.entry ∧ r.kind = .elastic ∧ (t.lane lane).erun = some x.id ∧ (t.lane lane).banks = [] ∧ (t.lane lane).prog = progOf s w x.entry.block) ∧
    (engineTaken s lane x = true → exec (.blockStart lane key) s = .next (runNext s lane))) ∧
  (∀ (s : State) (lane key : Nat) (w : Work) (e : Entry), entryAt s lane key = some (w, e) →
    ((e.elastic = false ∨ erelOf s lane key ≠ none) → exec (.elasticRelease lane key) s = .next s) ∧
    (e.elastic = true → erelOf s lane key = none → ∃ t x a b, exec (.elasticRelease lane key) s = .next t ∧
      t = { s with elastics := s.elastics ++ [x], queues := t.queues, nextId := t.nextId } ∧ x.entry = e ∧ x.saved = none ∧
      laneQueue s lane = a ++ b ∧ laneQueue t lane = a ++ x.id :: b ∧ (∀ k ∈ a, ¬ AdmittedLater s e k) ∧ (∀ k, b.head? = some k → AdmittedLater s e k) ∧
      ∀ k, k ≠ lane → laneQueue t k = laneQueue s k)) ∧
  (∀ (s : State) (lane : Nat) (why : StopWhy),
    let l := s.lane lane
    let runs := l.erun ≠ none ∧ l.retired = false
    let cause := match l.stop with | .due w => w | _ => why
    let saving := ∃ u w, l.stop = .saving u w
    ((¬ runs ∨ (s.now % 120 ≠ 0 ∧ l.stop ≠ .none) ∨ (s.now % 120 = 0 ∧ saving)) → exec (.elasticStop lane why) s = .next s) ∧
    (runs → s.now % 120 ≠ 0 → l.stop = .none → ∃ t, exec (.elasticStop lane why) s = .next t ∧ t.lane lane = { l with stop := .due why } ∧
      (tickStart (s.tick + 1), Instr.elasticStop lane why) ∈ t.evq ∧ t = { s with lanes := t.lanes, evq := t.evq }) ∧
    (runs → s.now % 120 = 0 → ¬ saving → ∃ t, exec (.elasticStop lane why) s = .next t ∧
      t = { s with lanes := t.lanes, cores := t.cores, evq := t.evq, freeCtr := t.freeCtr } ∧ (∀ k, k ≠ lane → t.lane k = s.lane k) ∧
      t.lane lane = { l with stop := .saving s.tick cause, seq := .stopped, rel := l.rel.map fun r => { r with stops := r.stops + 1 } } ∧
      (tickStart (s.tick + 2), Instr.elasticSave lane) ∈ t.evq ∧
      (∀ y ∈ (t.core (coreOf lane)).copies, y.lane = lane → (y.st = .running ∨ y.st = .queued) → ∃ h, y.haltAt = some h ∧ s.now ≤ h ∧ h < s.now + 120) ∧
      ∀ y ∈ (t.core (coreOf lane)).felt.loads, y.lane = lane → y.stopped = true) ∧
    (l.erun = none → exec (.budgetExhausted lane) s = .next s) ∧
    ∀ id, l.erun = some id → exec (.budgetExhausted lane) s = exec (.elasticStop lane .budget) (toBack s lane id)) ∧
  (∀ (s : State) (lane u : Nat) (why : StopWhy) (x : ERel) (r : Release), (s.lane lane).stop = .saving u why → (s.lane lane).erun = some x.id → (s.lane lane).rel = some r →
    s.elastics.find? (fun e => e.id == x.id) = some x → isDoomed (s.lane lane) = false →
    ∃ t pa frame, exec (.elasticSave lane) s = .next t ∧ (∀ a, memGet t.mem a = memGet (memWrite s.mem pa frame) a) ∧
      bufBase (dieOf lane) + 14 * 0x400000 ≤ pa ∧ frame.take 8 = [0x42, 0x59, 0x52, 0x41, 0x4C, 0x53, 0x56, 0x31] ∧
      (t.lane lane).erun = none ∧ (t.lane lane).rel = none ∧ (t.lane lane).stop = .none ∧ (t.lane lane).run = false ∧
      ∃ y ∈ t.elastics, y.id = x.id ∧ ∃ v, y.saved = some v ∧ v.lane.q = (s.lane lane).q ∧ v.lane.sp = (s.lane lane).sp ∧ v.lane.flights = (s.lane lane).flights) ∧
  (∀ (s : State) (lane : Nat) (x : ERel) (v : Saved) (w : Work), pickElastic s lane = some x → x.saved = some v → s.workById x.entry.workid = some w →
    (∀ b ∈ [v.lane.bank 0, v.lane.bank 1], b.st ≠ .empty → b.dirty = false → isResident s w.cont b.img = true) →
    let r := redoBlock (s.setLane lane (resumedLane s lane x v)) lane v
    (r.1.absent = none → ∃ t, exec (.elasticResume lane) s = .next t ∧ (t.lane lane).q = v.lane.q ∧ (t.lane lane).sp = v.lane.sp ∧
      (t.lane lane).loops = v.lane.loops ∧ (t.lane lane).banks = v.lane.banks ∧ (t.lane lane).flights = r.2.lane.flights ∧ (t.lane lane).erun = some x.id ∧
      (t.lane lane).stop = .restoring (s.now + restoreCycles s v) ∧ (t.lane lane).goAt = s.now + restoreCycles s v ∧
      ∀ y ∈ t.elastics, y.id = x.id → y.saved = none) ∧
    (∀ tile va, r.1.absent = some (tile, va) → ∃ t, exec (.elasticResume lane) s = .next t ∧ t.lane lane = s.lane lane ∧
      (∃ y ∈ t.nq.soon, y.bytes = noteRec 0x21 (dieOf lane) (coreOf lane % 16) tile x.entry.workid 0 va 0 0 s.tick) ∧
      ∀ y ∈ t.elastics, y.id = x.id → y.page = some va ∧ ∃ z ∈ s.elastics, z.id = x.id ∧ y.saved = z.saved)) ∧
  (∀ (s : State) (lane : Nat) (r : Release), (s.lane lane).rel = some r → (s.lane lane).retired = false →
    (r.kind = .firm → ∃ t, exec (.overrun lane) s = .next t ∧ Clears s t lane r ∧ (t.lane lane).ovtot = (s.lane lane).ovtot + 1 ∧
      (2 ≤ r.entry.ovpol → ∃ y ∈ t.fq.soon, y.bytes = overrunRec s lane r false) ∧ (r.entry.ovpol < 2 → t.fq = s.fq)) ∧
    (r.kind = .fallback → ∃ t, exec (.fallbackOverrun lane) s = .next t ∧ Clears s t lane r ∧ (t.lane lane).ovtot = (s.lane lane).ovtot + 1 ∧
      ∃ y ∈ t.fq.soon, y.bytes = overrunRec s lane r true) ∧
    (r.kind ≠ .firm → exec (.overrun lane) s = .next s) ∧ (r.kind ≠ .fallback → exec (.fallbackOverrun lane) s = .next s))

/-- R111, R112, R117 to R124, R154, R164, R405: each period every work's budgets are filled; at a mode-change point the
request that wins is in force and the losers are recorded, a request for the current mode being none; a packet is accepted
into the stream, its container copied into partition 15 of every live die where there is room, to be judged at its decision
tick, rejected with a record when its container is not known and installed when every check passes; a work that ends
leaves no entry, tree, group or elastic block. -/
def Obligations.TableEvents : Prop :=
  (∀ (s : State) (i : Instr), (i = .periodStart ∨ i = .tableSetActivation) → (s.works.map (·.workid)).Nodup →
    ∃ t, exec i s = .next t ∧ t = { s with lanes := t.lanes } ∧ (∀ k, t.lane k = { s.lane k with budget := (t.lane k).budget }) ∧
      (∀ w ∈ s.works, ∀ e ∈ w.entries, e.elastic = true → tblGet 0 (t.lane e.lane).budget w.workid = w.launch.budget) ∧
      ∀ k n, (∀ w ∈ s.works, w.workid = n → ∀ e ∈ w.entries, e.elastic = true → e.lane ≠ k) → tblGet 0 (t.lane k).budget n = tblGet 0 (s.lane k).budget n) ∧
  (∀ s : State,
    let later := s.modeReqs.filter fun r => !(decide (r.tick + 8 ≤ s.tick))
    (s.tset = none → exec .modeChange s = .next s) ∧
    (∀ x, s.tset = some x →
      let due := s.modeReqs.filter fun r => decide (r.tick + 8 ≤ s.tick) && r.mode != x.mode
      (due = [] → exec .modeChange s = .next { s with modeReqs := later }) ∧
      (due ≠ [] → ∃ t win, exec .modeChange s = .next t ∧ win ∈ due ∧ (∀ r ∈ due, reqBefore r win = false) ∧
        t.tset = some { x with mode := win.mode } ∧ t.modeReqs = later ∧
        t.crown.modeChg = min 255 (s.crown.modeChg + 1) ∧ t.nq.soon.length = s.nq.soon.length + (due.length - 1) ∧ SameMem s t))) ∧
  (∀ (s : State) (bytes : List Byte), ∃ t it d, exec (.launchPacket bytes) s = .next t ∧ t.stream = s.stream ++ [it] ∧ it.packet = some bytes ∧
    it.accepted = s.tick ∧ it.decision = some d ∧ s.tick + 16 ≤ d ∧ s.ioLast ≤ d ∧ t.ioLast = d ∧ (tickStart d, Instr.admission it.id) ∈ t.evq ∧
    (it.pretrans ≠ some true → (tickStart (s.tick + 100000), Instr.pretranslationTimeout it.id) ∈ t.evq) ∧
    t = { s with conts := t.conts, mem := t.mem, freeCtr := t.freeCtr, nextId := t.nextId, stream := t.stream, ioLast := t.ioLast, evq := t.evq, trains := t.trains } ∧
    let named := s.conts.find? fun c => c.digest == field bytes 0x48 64
    (named = none → t.conts = s.conts ∧ t.mem = s.mem) ∧
    (∀ c, named = some c → (c.copied = true ∨ c.reject ≠ none ∨ copyOffset s c.copyBytes = none) → t.conts = s.conts ∧ t.mem = s.mem) ∧
    (∀ c off, named = some c → c.copied = false → c.reject = none → copyOffset s c.copyBytes = some off → c.copyBytes = (c.copySecs.map (·.2)).sum →
      let secs := c.copySecs.flatMap fun y => s.readBytes 0 (c.addr + y.1) y.2
      t.conts = s.conts.map (fun x => if x.digest = c.digest then { x with copied := true, copyAt := off, ro := true } else x) ∧
      (∀ d ∈ s.live, ∀ (k : Nat) (b : Byte), secs[k]? = some b → memGet t.mem (bufBase d + 15 * 0x400000 + off + k) = b) ∧
      ∀ a, (∀ d ∈ s.live, a < bufBase d + 15 * 0x400000 + off ∨ bufBase d + 15 * 0x400000 + off + c.copyBytes ≤ a) → memGet t.mem a = memGet s.mem a)) ∧
  (∀ (s : State) (item : Nat), exec (.pretranslationTimeout item) s =
    .next { s with stream := s.stream.map fun x => if x.id = item && x.pretrans.isNone then { x with pretrans := some false } else x }) ∧
  (∀ (s : State) (x : Item) (bs : List Byte), s.stream.find? (fun y => y.id == x.id) = some x → x.packet = some bs →
    let u : State := { s with stream := s.stream.filter fun y => y.id != x.id }
    let late := decide (x.pretrans = some false)
    ((∀ c ∈ s.conts, c.digest ≠ field bs 0x48 64) → ∃ t r, exec (.admission x.id) s = .next t ∧ t = { u with fq := { u.fq with soon := t.fq.soon } } ∧
      (∀ y, y ∈ t.fq.soon ↔ y = r ∨ y ∈ s.fq.soon) ∧ r.bytes.take 3 = [2, BitVec.ofNat 8 Code.security.num, 4]) ∧
    (∀ k c, (List.range s.conts.length).find? (fun k => ((s.conts[k]?).map (·.digest)) == some (field bs 0x48 64)) = some k → s.conts[k]? = some c →
      (matchesTemplate (bs.drop 64) c.template = true ∨ c.reject ≠ none) →
      let p := packetOf bs k c
      let v := if c.reject.isNone && !late then preMark u p else u
      check2 v p bs = none → check3 v p = none → check4 p = none → ∀ vmap cmap, placePacket v p = .inl (vmap, cmap) →
      let es := p.entries.map fun (y : Entry × Nat) => { y.1 with lane := laneAt vmap cmap y.1.vregion }
      check5 v p es = none → check6 v p vmap es = none → check7 v p es = none → ∀ pres, check8 v p es late = .inl pres → check9 v p es = none →
      ∃ t w y, exec (.admission x.id) s = .next t ∧ t.works = s.works ++ [w] ∧ w.workid = p.workid ∧ w.entries = es ∧ w.cont = k ∧ t.tset = some y ∧
        (s.tset = none → y.a = p.acttick ∧ (tickStart p.acttick, Instr.tableSetActivation) ∈ t.evq) ∧ t.stream = u.stream)) ∧
  (∀ (s : State) (n : Nat),
    (s.workById n = none → exec (.workEnd n) s = .next s) ∧
    (s.workById n ≠ none → ∃ t, exec (.workEnd n) s = .next t ∧ t.works = s.works.filter (fun x => x.workid != n) ∧ (∀ x ∈ t.trees, x.workid ≠ n) ∧
      (∀ x ∈ t.groups, x.workid ≠ n) ∧ (∀ p ∈ s.pends, p.cmd = .endwork n → Todo.event (.commandCompletion p.id) ∈ t.agenda) ∧
      (t.works = [] → ∀ x, t.tset = some x → x.ending = true)))

/-! ## Encodings, steps and memory -/

/-- R56 to R79: words of the spec's own worked encodings, and the instructions it says they are. -/
def Obligations.DecodedWords : Prop :=
  decodeElement 0x000F009109108000 =
    .ok (.add { h := { stamp := 0, hold := true, pred := 7, pneg := false }, ty := .i16, d := .file 8, a := .W, b := .N, tag := .any }) ∧
  decodeElement 0x005721918259A020 =
    .ok (.fma { h := { stamp := 5, hold := false, pred := 7, pneg := false }, ty := .f16, d := .file 12, a := .file 9, b := .k 3, c := .L, rm := .rtz, tag := .any }) ∧
  decodeElement 0x003F510000000011 = .ok (.barAw { h := { stamp := 3, hold := true, pred := 7, pneg := false }, n := 17 }) ∧
  decodePort 0x002700C900400000 =
    .ok (.ld { h := { stamp := 2, hold := false, pred := 7, pneg := false }, ty := .flt .f16, agen := 1, bsel := 0, scope := .el, size := 0, pdef := true, pol := 0, rm := .rne }) ∧
  decodeGen 0x002700A000000002 = .ok (.cnt { h := { stamp := 2, hold := false, pred := 7, pneg := false }, ctr := 1, port := 0, imm := 2 }) ∧
  decodeEngine 0 0x0002004002000070002F017F8BEA510E =
    .ok (.mm { stamp := 2, hold := true, m := 16, n := 16, k := 96, afmt := some .int8, bfmt := some .int8, acc := .s32, rm := .rne, z := true,
               adv := true, lra := true, lrb := false, as := 0, astep := 1, ax := 0, bs := 64, bstep := 1, bx := 0, rep := 8, repq := none }) ∧
  decodeEngine 2 0x00171010_10180000 = .ok (.copy { h := { stamp := 1, hold := false }, dq := 2, sb := 2, db := 3, dop := false }) ∧
  decodeEngine 3 0x0007180002000002 = .ok (.fldt { stamp := 0, hold := false } 0 0 1 0 2) ∧
  decodeStep 0x21000040 = .ok (.setq 4 64) ∧ decodeStep 0x6844000C = .ok (.barInit 17 12) ∧ decodeStep 0x48001234 = .ok (.trap 0x1234)

/-- R56 to R79: the word that the encoder writes for a well-formed instruction, in the opcode space of its size, decodes
to that instruction, with every operand at every value its fields admit. A static reserved combination of a row is no
well-formed row (R273). -/
def Obligations.DecodeOfEncode : Prop :=
  ∀ (i : Instr) (n w : Nat), i.wf = true → (∀ o, i = .mm o → o.combo false = false) → (∀ o, i = .mms o → o.combo true = false) →
    encode i = some (n, w) → w < 2 ^ n ∧
      (n = 32 ∧ decodeStep w = .ok i ∨
       n = 64 ∧ (decodeElement w = .ok i ∨ decodePort w = .ok i ∨ decodeGen w = .ok i) ∨
       n = 128 ∧ ∃ e, e < 4 ∧ decodeEngine e w = .ok i)

/-- R57, R77: a word that a decoder accepts is the one word of a well-formed instruction: every bit of it is a field of
the instruction or a reserved bit that is zero. -/
def Obligations.EncodeOfDecode : Prop :=
  ∀ (w : Nat) (i : Instr),
    (w < 2 ^ 32 → decodeStep w = .ok i → i.wf = true ∧ encode i = some (32, w)) ∧
    (w < 2 ^ 64 → (decodeElement w = .ok i ∨ decodePort w = .ok i ∨ decodeGen w = .ok i) → i.wf = true ∧ encode i = some (64, w)) ∧
    (∀ e, e < 4 → w < 2 ^ 128 → decodeEngine e w = .ok i → i.wf = true ∧ encode i = some (128, w))

namespace Sys2Proof.Slice0

/-- The decoder of a unit (R56): elements, ports, generators and engines each have their own opcode space. -/
def unitDecode (unit w : Nat) : Dec Instr :=
  if unit < 64 then decodeElement w else if unit < 72 then decodePort w else if unit < 80 then decodeGen w else decodeEngine (unit - 80) w

end Sys2Proof.Slice0

/-- A step of the machine runs the instruction that stands first on the cycle's agenda, as itself: the sequencer step at a
lane's step pointer, as its word decodes, or `retire` past the last one (R174); an entry of the active bank of a unit's timed
list; or an event. The cursor then names the lane, the unit and the place, and nothing else is done around it. -/
def Obligations.StepRunsTheDecoded : Prop :=
  ∀ (s : State) (rest : List Todo),
    (∀ lane, s.agenda = .issue lane :: rest →
      let l := s.lane lane
      let u : State := { s with agenda := rest, cur := { lane, unit := 255, idx := l.sp } }
      (l.prog.length ≤ l.sp → step s = exec .retire u) ∧
      ∀ w i, l.prog[l.sp]? = some w → decodeStep w = .ok i → step s = exec i u) ∧
    (∀ lane unit idx w i, s.agenda = .fire lane unit idx :: rest → ((s.core (coreOf lane)).list unit (s.lane lane).act)[idx]? = some w →
      unitDecode unit w = .ok i → step s = exec i { s with agenda := rest, cur := { lane, unit, idx } }) ∧
    (∀ i, s.agenda = .event i :: rest → step s = exec i { s with agenda := rest }) ∧
    ∀ nbits w i, decodeTableWord nbits w = some i → ∃ u, step (s.withFetchWord nbits w) = exec i u

/-- Memory's canonical form is kept by every step from every state: addresses strictly rising, and none listed that reads
as an unlisted one does; so equal memories are equal data. -/
def Obligations.MemoryStaysCanonical : Prop :=
  ∀ s t : State, Memory.wf s.mem = true → step s = .next t → Memory.wf t.mem = true

/-- R4, R107, R160, R169, R402: what reset leaves. Package time stands at 0, FREE, with no epoch and no rate; the queues
are empty with no base, size, head or tail; HOT.THRESH is 256; no unit holds an entry; and the power-up sequence is the
first thing to happen. Memory is in its canonical form, listing nothing. -/
def Obligations.ResetState : Prop :=
  Memory.wf State.reset.mem = true ∧ State.reset.mem = [] ∧ State.reset.now = 0 ∧ State.reset.tick = 0 ∧ State.reset.ptime = {} ∧
  (∀ q, q < 3 → State.reset.queue q = {}) ∧ (∀ d, (State.reset.die d).hotThresh = 256) ∧
  (∀ c u b, (State.reset.core c).list u b = []) ∧ State.reset.works = [] ∧ State.reset.tset = none ∧
  State.reset.agenda = [.event .pwrgood]
end

