-- ==== Sys2Proof/Laws/Lanes.lean ====
section
/-! SUPPORT. Lanes of a 128-bit value: what a value built lane by lane holds in each. -/

namespace Sys2Proof.Machine

theorem laneSum_lt (w : Nat) (f : Nat → Nat) : ∀ (n k : Nat),
    (List.range' k n).foldr (fun j acc => acc + (f j % 2 ^ w) * 2 ^ (w * j)) 0 < 2 ^ (w * (k + n)) ∧
      (List.range' k n).foldr (fun j acc => acc + (f j % 2 ^ w) * 2 ^ (w * j)) 0 % 2 ^ (w * k) = 0 := by
  intro n
  induction n with
  | zero => intro k; simp [Nat.two_pow_pos]
  | succ n ih =>
    intro k
    obtain ⟨h1, h2⟩ := ih (k + 1)
    rw [List.range'_succ, List.foldr_cons]
    have hlt : f k % 2 ^ w < 2 ^ w := Nat.mod_lt _ (Nat.two_pow_pos w)
    have e1 : w * (k + 1) = w * k + w := by rw [Nat.mul_add, Nat.mul_one]
    have e2 : k + 1 + n = k + (n + 1) := by omega
    rw [e2] at h1
    generalize (List.range' (k + 1) n).foldr (fun j acc => acc + (f j % 2 ^ w) * 2 ^ (w * j)) 0 = t at h1 h2 ⊢
    have hp : f k % 2 ^ w * 2 ^ (w * k) + 2 ^ (w * k) ≤ 2 ^ (w * (k + 1)) := by
      rw [e1, Nat.pow_add, Nat.mul_comm (2 ^ (w * k)) (2 ^ w)]
      calc f k % 2 ^ w * 2 ^ (w * k) + 2 ^ (w * k) = (f k % 2 ^ w + 1) * 2 ^ (w * k) := by rw [Nat.add_mul, Nat.one_mul]
        _ ≤ 2 ^ w * 2 ^ (w * k) := Nat.mul_le_mul_right _ hlt
    have hdv : 2 ^ (w * (k + 1)) ∣ 2 ^ (w * (k + (n + 1))) := Nat.pow_dvd_pow 2 (Nat.mul_le_mul_left _ (by omega))
    obtain ⟨q, hq⟩ := hdv
    obtain ⟨r, hr⟩ := Nat.dvd_of_mod_eq_zero h2
    have hpos := Nat.two_pow_pos (w * k)
    constructor
    · have : r + 1 ≤ q := by
        have := Nat.lt_of_mul_lt_mul_left (a := 2 ^ (w * (k + 1))) (b := r) (c := q) (by rw [← hr, ← hq]; exact h1)
        omega
      have := Nat.mul_le_mul_left (2 ^ (w * (k + 1))) this
      rw [Nat.mul_add, Nat.mul_one, ← hr, ← hq] at this
      omega
    · rw [hr, e1, Nat.pow_add, Nat.mul_assoc, ← Nat.mul_comm (2 ^ (w * k)), ← Nat.mul_add]
      exact Nat.mul_mod_right _ _

/-- A value built lane by lane holds in each lane what was put there. -/
theorem laneOfV_ofLanes (w n : Nat) (f : Nat → Nat) (j : Nat) (hj : j < n) (hw : w * n ≤ 128) :
    laneOfV w (ofLanes w n f) j = f j % 2 ^ w := by
  unfold laneOfV ofLanes
  have key : ∀ (m k : Nat), j < k + m → k ≤ j →
      (List.range' k m).foldr (fun j acc => acc + (f j % 2 ^ w) * 2 ^ (w * j)) 0 / 2 ^ (w * j) % 2 ^ w = f j % 2 ^ w := by
    intro m
    induction m with
    | zero => intro k h1 h2; omega
    | succ m ih =>
      intro k h1 h2
      rw [List.range'_succ, List.foldr_cons]
      have hlt : f k % 2 ^ w < 2 ^ w := Nat.mod_lt _ (Nat.two_pow_pos w)
      by_cases hk : k = j
      · subst hk
        obtain ⟨r, hr⟩ := Nat.dvd_of_mod_eq_zero (laneSum_lt w f m (k + 1)).2
        have e1 : w * (k + 1) = w * k + w := by rw [Nat.mul_add, Nat.mul_one]
        rw [hr, e1, Nat.pow_add, Nat.mul_assoc, Nat.mul_comm (f k % 2 ^ w), ← Nat.mul_add,
          Nat.mul_div_cancel_left _ (Nat.two_pow_pos _), Nat.add_comm, Nat.add_mul_mod_self_left]
        exact Nat.mod_eq_of_lt hlt
      · have hkj : k + 1 ≤ j := by omega
        have ih := ih (k + 1) (by omega) hkj
        obtain ⟨r, hr⟩ := Nat.dvd_of_mod_eq_zero (laneSum_lt w f m (k + 1)).2
        rw [hr] at ih ⊢
        rw [← ih]
        congr 1
        have e1 : w * j = w * (k + 1) + w * (j - (k + 1)) := by rw [← Nat.mul_add]; congr 1; omega
        rw [e1, Nat.pow_add, ← Nat.div_div_eq_div_mul, ← Nat.div_div_eq_div_mul]
        congr 1
        rw [Nat.mul_div_cancel_left _ (Nat.two_pow_pos _), Nat.add_comm, Nat.add_mul_div_left _ _ (Nat.two_pow_pos _)]
        have : f k % 2 ^ w * 2 ^ (w * k) / 2 ^ (w * (k + 1)) = 0 := by
          apply Nat.div_eq_of_lt
          rw [Nat.mul_add, Nat.mul_one, Nat.pow_add, Nat.mul_comm]
          exact Nat.mul_lt_mul_of_pos_left hlt (Nat.two_pow_pos _)
        omega
  have hb := (laneSum_lt w f n 0).1
  rw [Nat.zero_add] at hb
  have hb' : (List.range' 0 n).foldr (fun j acc => acc + (f j % 2 ^ w) * 2 ^ (w * j)) 0 < 2 ^ 128 :=
    Nat.lt_of_lt_of_le hb (Nat.pow_le_pow_right (by omega) hw)
  rw [BitVec.toNat_ofNat, List.range_eq_range', Nat.mod_eq_of_lt hb']
  exact key n 0 (by omega) (by omega)

end Sys2Proof.Machine
end

