-- ==== Sys2Proof/Laws/Tables.lean ====
section
/-! SUPPORT. Sparse tables and memory: reading after writing, and the canonical form that every write keeps. -/

namespace Sys2Proof.Machine

variable {α : Type}

theorem tblDel_keys (t : Tbl α) (k : Nat) : ∀ p ∈ tblDel t k, p.1 ≠ k := by
  induction t with
  | nil => simp [tblDel]
  | cons a t ih =>
    obtain ⟨j, v⟩ := a
    by_cases h : j = k
    · simpa [tblDel, h] using ih
    · intro p hp
      simp only [tblDel, h, if_false, List.mem_cons] at hp
      rcases hp with rfl | hp
      · exact h
      · exact ih p hp

theorem tblGet_del (d : α) (t : Tbl α) (k j : Nat) :
    tblGet d (tblDel t k) j = if j = k then d else tblGet d t j := by
  induction t with
  | nil => simp [tblDel, tblGet]
  | cons a t ih =>
    obtain ⟨i, v⟩ := a
    by_cases h : i = k
    · subst h
      by_cases hj : j = i
      · simpa [tblDel, hj] using ih
      · simp [tblDel, tblGet, ih, hj, Ne.symm hj]
    · by_cases hj : i = j
      · subst hj; simp [tblDel, tblGet, h]
      · simp [tblDel, tblGet, h, hj, ih]

theorem tblGet_ins (d : α) (t : Tbl α) (k j : Nat) (v : α) (h : ∀ p ∈ t, p.1 ≠ k) :
    tblGet d (tblIns t k v) j = if j = k then v else tblGet d t j := by
  induction t with
  | nil =>
    by_cases hj : j = k
    · simp [tblIns, tblGet, hj]
    · simp [tblIns, tblGet, hj, Ne.symm hj]
  | cons a t ih =>
    obtain ⟨i, w⟩ := a
    have hi : i ≠ k := h (i, w) (by simp)
    have ih := ih (fun p hp => h p (by simp [hp]))
    by_cases hk : k < i
    · by_cases hj : j = k
      · simp [tblIns, tblGet, hk, hj]
      · simp [tblIns, tblGet, hk, hj, Ne.symm hj]
    · by_cases hij : i = j
      · subst hij; simp [tblIns, tblGet, hk, hi]
      · simp [tblIns, tblGet, hk, hij, ih]

/-- Reading a table after a put. -/
@[simp] theorem tblGet_put (d : α) (t : Tbl α) (k j : Nat) (v : α) :
    tblGet d (tblPut t k v) j = if j = k then v else tblGet d t j := by
  unfold tblPut
  rw [tblGet_ins d _ k j v (tblDel_keys t k), tblGet_del]
  split <;> simp

/-- Reading a table after a set, by which the default is not listed. -/
@[simp] theorem tblGet_set [DecidableEq α] (d : α) (t : Tbl α) (k j : Nat) (v : α) :
    tblGet d (tblSet d t k v) j = if j = k then v else tblGet d t j := by
  unfold tblSet
  split
  · next h => rw [tblGet_del]; simp [h]
  · rw [tblGet_ins d _ k j v (tblDel_keys t k), tblGet_del]; split <;> simp

/-! ## Memory -/

/-- A byte written reads back, and every other byte stays. -/
@[simp] theorem memGet_memSet (m : List Host.Cell) (a c : Nat) (b : Byte) :
    memGet (memSet m a b) c = if c = a then b else memGet m c := by
  simp [memGet, memSet]

/-- After a write of bytes from `a`, a byte of that run reads as written and every other byte stays. -/
theorem memGet_memWrite (bs : List Byte) : ∀ (m : List Host.Cell) (a c : Nat),
    memGet (memWrite m a bs) c = if a ≤ c then (bs[c - a]?).getD (memGet m c) else memGet m c := by
  induction bs with
  | nil => intro m a c; simp [memWrite]
  | cons b bs ih =>
    intro m a c
    rw [memWrite, ih]
    by_cases h : a + 1 ≤ c
    · have e : c - a = (c - (a + 1)) + 1 := by omega
      have h' : a ≤ c := by omega
      have hne : c ≠ a := by omega
      simp [h, h', e, hne]
    · by_cases hc : c = a
      · have h1 : ¬ c + 1 ≤ c := by omega
        subst hc; simp [h1]
      · have : ¬ a ≤ c := by omega
        simp [h, hc, this]

/-- Bytes outside a write stay. -/
theorem memGet_memWrite_other (m : List Host.Cell) (a c : Nat) (bs : List Byte) (h : c < a ∨ a + bs.length ≤ c) :
    memGet (memWrite m a bs) c = memGet m c := by
  rw [memGet_memWrite]
  split
  · rw [List.getElem?_eq_none (by omega)]; rfl
  · rfl

/-! The canonical form, said of the pairs: keys strictly rising, and no unlisted byte. -/

theorem memWf_iff (m : List Host.Cell) :
    Memory.wf m = true ↔ m.Pairwise (fun x y => x.1 < y.1) ∧ ∀ x ∈ m, x.2 ≠ unlisted := by
  induction m with
  | nil => simp [Memory.wf]
  | cons a m ih =>
    obtain ⟨i, b⟩ := a
    cases m with
    | nil => simp [Memory.wf]
    | cons c m =>
      obtain ⟨j, x⟩ := c
      rw [Memory.wf]
      simp only [Bool.and_eq_true, bne_iff_ne, ne_eq, decide_eq_true_eq, ih]
      constructor
      · rintro ⟨⟨hb, hij⟩, hp, hu⟩
        refine ⟨List.pairwise_cons.2 ⟨?_, hp⟩, ?_⟩
        · intro y hy
          rcases List.mem_cons.1 hy with rfl | hy
          · exact hij
          · exact Nat.lt_trans hij ((List.pairwise_cons.1 hp).1 y hy)
        · intro y hy
          rcases List.mem_cons.1 hy with rfl | hy
          · exact hb
          · exact hu y hy
      · rintro ⟨hp, hu⟩
        have hp' := List.pairwise_cons.1 hp
        exact ⟨⟨hu (i, b) (by simp), hp'.1 (j, x) (by simp)⟩, hp'.2, fun y hy => hu y (by simp [hy])⟩

theorem tblDel_sub (t : Tbl α) (k : Nat) : (tblDel t k).Sublist t := by
  induction t with
  | nil => exact List.Sublist.slnil
  | cons a t ih =>
    obtain ⟨j, v⟩ := a
    by_cases h : j = k
    · simpa [tblDel, h] using ih.cons (j, v)
    · simpa [tblDel, h] using ih.cons_cons (j, v)

theorem tblIns_mem (t : Tbl α) (k : Nat) (v : α) : ∀ p ∈ tblIns t k v, p = (k, v) ∨ p ∈ t := by
  induction t with
  | nil => simp [tblIns]
  | cons a t ih =>
    obtain ⟨j, w⟩ := a
    intro p hp
    by_cases h : k < j
    · simpa [tblIns, h] using hp
    · simp only [tblIns, h, if_false, List.mem_cons] at hp
      rcases hp with rfl | hp
      · simp
      · rcases ih p hp with h | h <;> simp [h]

theorem tblIns_sorted (t : Tbl α) (k : Nat) (v : α) (hs : t.Pairwise fun x y => x.1 < y.1) (h : ∀ p ∈ t, p.1 ≠ k) :
    (tblIns t k v).Pairwise fun x y => x.1 < y.1 := by
  induction t with
  | nil => simp [tblIns]
  | cons a t ih =>
    obtain ⟨j, w⟩ := a
    have hs' := List.pairwise_cons.1 hs
    have hj : j ≠ k := h (j, w) (by simp)
    by_cases hk : k < j
    · simp only [tblIns, hk, if_true]
      refine List.pairwise_cons.2 ⟨?_, hs⟩
      intro y hy
      rcases List.mem_cons.1 hy with rfl | hy
      · exact hk
      · exact Nat.lt_trans hk (hs'.1 y hy)
    · simp only [tblIns, hk, if_false]
      refine List.pairwise_cons.2 ⟨?_, ih hs'.2 fun p hp => h p (by simp [hp])⟩
      intro y hy
      rcases tblIns_mem t k v y hy with rfl | hy
      · simp only; omega
      · exact hs'.1 y hy

/-- A byte written keeps the canonical form. -/
theorem memWf_memSet (m : List Host.Cell) (a : Nat) (b : Byte) (h : Memory.wf m = true) : Memory.wf (memSet m a b) = true := by
  rw [memWf_iff] at h ⊢
  unfold memSet tblSet
  have hd := h.1.sublist (tblDel_sub m a)
  have hu : ∀ x ∈ tblDel m a, x.2 ≠ unlisted := fun x hx => h.2 x ((tblDel_sub m a).subset hx)
  split
  · exact ⟨hd, hu⟩
  · next hb =>
    refine ⟨tblIns_sorted _ a b hd (tblDel_keys m a), ?_⟩
    intro x hx
    rcases tblIns_mem _ a b x hx with rfl | hx
    · exact hb
    · exact hu x hx

/-- Bytes written keep the canonical form. -/
theorem memWf_memWrite (bs : List Byte) : ∀ (m : List Host.Cell) (a : Nat), Memory.wf m = true → Memory.wf (memWrite m a bs) = true := by
  induction bs with
  | nil => intro m a h; simpa [memWrite] using h
  | cons b bs ih => intro m a h; exact ih _ _ (memWf_memSet m a b h)

/-- Cells taken away leave the canonical form. -/
theorem memWf_filter (m : List Host.Cell) (f : Host.Cell → Bool) (h : Memory.wf m = true) : Memory.wf (m.filter f) = true := by
  rw [memWf_iff] at h ⊢
  exact ⟨h.1.sublist List.filter_sublist, fun x hx => h.2 x (List.filter_sublist.subset hx)⟩

end Sys2Proof.Machine
end

