-- ==== Sys2Proof/Laws/State.lean ====
section
/-! SUPPORT. What each update of the state leaves in each field, so that no proof unfolds a record update. -/

namespace Sys2Proof.Machine

/-! ## setLane -/

@[simp] theorem State.setLane_now (s : State) (l : Nat) (x : Lane) : (s.setLane l x).now = s.now := rfl
@[simp] theorem State.setLane_phase (s : State) (l : Nat) (x : Lane) : (s.setLane l x).phase = s.phase := rfl
@[simp] theorem State.setLane_agenda (s : State) (l : Nat) (x : Lane) : (s.setLane l x).agenda = s.agenda := rfl
@[simp] theorem State.setLane_cur (s : State) (l : Nat) (x : Lane) : (s.setLane l x).cur = s.cur := rfl
@[simp] theorem State.setLane_evq (s : State) (l : Nat) (x : Lane) : (s.setLane l x).evq = s.evq := rfl
@[simp] theorem State.setLane_inputs (s : State) (l : Nat) (x : Lane) : (s.setLane l x).inputs = s.inputs := rfl
@[simp] theorem State.setLane_freeCtr (s : State) (l : Nat) (x : Lane) : (s.setLane l x).freeCtr = s.freeCtr := rfl
@[simp] theorem State.setLane_nextId (s : State) (l : Nat) (x : Lane) : (s.setLane l x).nextId = s.nextId := rfl
@[simp] theorem State.setLane_powered (s : State) (l : Nat) (x : Lane) : (s.setLane l x).powered = s.powered := rfl
@[simp] theorem State.setLane_rails (s : State) (l : Nat) (x : Lane) : (s.setLane l x).rails = s.rails := rfl
@[simp] theorem State.setLane_selfRefresh (s : State) (l : Nat) (x : Lane) : (s.setLane l x).selfRefresh = s.selfRefresh := rfl
@[simp] theorem State.setLane_mem (s : State) (l : Nat) (x : Lane) : (s.setLane l x).mem = s.mem := rfl
@[simp] theorem State.setLane_tags (s : State) (l : Nat) (x : Lane) : (s.setLane l x).tags = s.tags := rfl
@[simp] theorem State.setLane_lineKeys (s : State) (l : Nat) (x : Lane) : (s.setLane l x).lineKeys = s.lineKeys := rfl
@[simp] theorem State.setLane_dramSlots (s : State) (l : Nat) (x : Lane) : (s.setLane l x).dramSlots = s.dramSlots := rfl
@[simp] theorem State.setLane_crown (s : State) (l : Nat) (x : Lane) : (s.setLane l x).crown = s.crown := rfl
@[simp] theorem State.setLane_ptime (s : State) (l : Nat) (x : Lane) : (s.setLane l x).ptime = s.ptime := rfl
@[simp] theorem State.setLane_dies (s : State) (l : Nat) (x : Lane) : (s.setLane l x).dies = s.dies := rfl
@[simp] theorem State.setLane_cores (s : State) (l : Nat) (x : Lane) : (s.setLane l x).cores = s.cores := rfl
@[simp] theorem State.setLane_conts (s : State) (l : Nat) (x : Lane) : (s.setLane l x).conts = s.conts := rfl
@[simp] theorem State.setLane_resident (s : State) (l : Nat) (x : Lane) : (s.setLane l x).resident = s.resident := rfl
@[simp] theorem State.setLane_works (s : State) (l : Nat) (x : Lane) : (s.setLane l x).works = s.works := rfl
@[simp] theorem State.setLane_tset (s : State) (l : Nat) (x : Lane) : (s.setLane l x).tset = s.tset := rfl
@[simp] theorem State.setLane_keyGens (s : State) (l : Nat) (x : Lane) : (s.setLane l x).keyGens = s.keyGens := rfl
@[simp] theorem State.setLane_spaces (s : State) (l : Nat) (x : Lane) : (s.setLane l x).spaces = s.spaces := rfl
@[simp] theorem State.setLane_bufs (s : State) (l : Nat) (x : Lane) : (s.setLane l x).bufs = s.bufs := rfl
@[simp] theorem State.setLane_trees (s : State) (l : Nat) (x : Lane) : (s.setLane l x).trees = s.trees := rfl
@[simp] theorem State.setLane_elastics (s : State) (l : Nat) (x : Lane) : (s.setLane l x).elastics = s.elastics := rfl
@[simp] theorem State.setLane_queues (s : State) (l : Nat) (x : Lane) : (s.setLane l x).queues = s.queues := rfl
@[simp] theorem State.setLane_modeReqs (s : State) (l : Nat) (x : Lane) : (s.setLane l x).modeReqs = s.modeReqs := rfl
@[simp] theorem State.setLane_stream (s : State) (l : Nat) (x : Lane) : (s.setLane l x).stream = s.stream := rfl
@[simp] theorem State.setLane_ioLast (s : State) (l : Nat) (x : Lane) : (s.setLane l x).ioLast = s.ioLast := rfl
@[simp] theorem State.setLane_pends (s : State) (l : Nat) (x : Lane) : (s.setLane l x).pends = s.pends := rfl
@[simp] theorem State.setLane_lnchBuf (s : State) (l : Nat) (x : Lane) : (s.setLane l x).lnchBuf = s.lnchBuf := rfl
@[simp] theorem State.setLane_mail (s : State) (l : Nat) (x : Lane) : (s.setLane l x).mail = s.mail := rfl
@[simp] theorem State.setLane_faults (s : State) (l : Nat) (x : Lane) : (s.setLane l x).faults = s.faults := rfl
@[simp] theorem State.setLane_flips (s : State) (l : Nat) (x : Lane) : (s.setLane l x).flips = s.flips := rfl
@[simp] theorem State.setLane_groups (s : State) (l : Nat) (x : Lane) : (s.setLane l x).groups = s.groups := rfl
@[simp] theorem State.setLane_rounds (s : State) (l : Nat) (x : Lane) : (s.setLane l x).rounds = s.rounds := rfl
@[simp] theorem State.setLane_flits (s : State) (l : Nat) (x : Lane) : (s.setLane l x).flits = s.flits := rfl
@[simp] theorem State.setLane_lateData (s : State) (l : Nat) (x : Lane) : (s.setLane l x).lateData = s.lateData := rfl
@[simp] theorem State.setLane_applied (s : State) (l : Nat) (x : Lane) : (s.setLane l x).applied = s.applied := rfl
@[simp] theorem State.setLane_tagNext (s : State) (l : Nat) (x : Lane) : (s.setLane l x).tagNext = s.tagNext := rfl
@[simp] theorem State.setLane_fq (s : State) (l : Nat) (x : Lane) : (s.setLane l x).fq = s.fq := rfl
@[simp] theorem State.setLane_nq (s : State) (l : Nat) (x : Lane) : (s.setLane l x).nq = s.nq := rfl
@[simp] theorem State.setLane_rq (s : State) (l : Nat) (x : Lane) : (s.setLane l x).rq = s.rq := rfl
@[simp] theorem State.setLane_generation (s : State) (l : Nat) (x : Lane) : (s.setLane l x).generation = s.generation := rfl
@[simp] theorem State.setLane_heldStores (s : State) (l : Nat) (x : Lane) : (s.setLane l x).heldStores = s.heldStores := rfl
@[simp] theorem State.setLane_dmas (s : State) (l : Nat) (x : Lane) : (s.setLane l x).dmas = s.dmas := rfl
@[simp] theorem State.setLane_memOff (s : State) (l : Nat) (x : Lane) : (s.setLane l x).memOff = s.memOff := rfl
@[simp] theorem State.setLane_answers (s : State) (l : Nat) (x : Lane) : (s.setLane l x).answers = s.answers := rfl
@[simp] theorem State.setLane_sleeping (s : State) (l : Nat) (x : Lane) : (s.setLane l x).sleeping = s.sleeping := rfl
@[simp] theorem State.setLane_trains (s : State) (l : Nat) (x : Lane) : (s.setLane l x).trains = s.trains := rfl
@[simp] theorem State.setLane_linkLast (s : State) (l : Nat) (x : Lane) : (s.setLane l x).linkLast = s.linkLast := rfl
@[simp] theorem State.setLane_drams (s : State) (l : Nat) (x : Lane) : (s.setLane l x).drams = s.drams := rfl
@[simp] theorem State.setLane_fns (s : State) (l : Nat) (x : Lane) : (s.setLane l x).fns = s.fns := rfl

/-! ## modLane -/

@[simp] theorem State.modLane_now (s : State) (l : Nat) (f : Lane → Lane) : (s.modLane l f).now = s.now := rfl
@[simp] theorem State.modLane_phase (s : State) (l : Nat) (f : Lane → Lane) : (s.modLane l f).phase = s.phase := rfl
@[simp] theorem State.modLane_agenda (s : State) (l : Nat) (f : Lane → Lane) : (s.modLane l f).agenda = s.agenda := rfl
@[simp] theorem State.modLane_cur (s : State) (l : Nat) (f : Lane → Lane) : (s.modLane l f).cur = s.cur := rfl
@[simp] theorem State.modLane_evq (s : State) (l : Nat) (f : Lane → Lane) : (s.modLane l f).evq = s.evq := rfl
@[simp] theorem State.modLane_inputs (s : State) (l : Nat) (f : Lane → Lane) : (s.modLane l f).inputs = s.inputs := rfl
@[simp] theorem State.modLane_freeCtr (s : State) (l : Nat) (f : Lane → Lane) : (s.modLane l f).freeCtr = s.freeCtr := rfl
@[simp] theorem State.modLane_nextId (s : State) (l : Nat) (f : Lane → Lane) : (s.modLane l f).nextId = s.nextId := rfl
@[simp] theorem State.modLane_powered (s : State) (l : Nat) (f : Lane → Lane) : (s.modLane l f).powered = s.powered := rfl
@[simp] theorem State.modLane_rails (s : State) (l : Nat) (f : Lane → Lane) : (s.modLane l f).rails = s.rails := rfl
@[simp] theorem State.modLane_selfRefresh (s : State) (l : Nat) (f : Lane → Lane) : (s.modLane l f).selfRefresh = s.selfRefresh := rfl
@[simp] theorem State.modLane_mem (s : State) (l : Nat) (f : Lane → Lane) : (s.modLane l f).mem = s.mem := rfl
@[simp] theorem State.modLane_tags (s : State) (l : Nat) (f : Lane → Lane) : (s.modLane l f).tags = s.tags := rfl
@[simp] theorem State.modLane_lineKeys (s : State) (l : Nat) (f : Lane → Lane) : (s.modLane l f).lineKeys = s.lineKeys := rfl
@[simp] theorem State.modLane_dramSlots (s : State) (l : Nat) (f : Lane → Lane) : (s.modLane l f).dramSlots = s.dramSlots := rfl
@[simp] theorem State.modLane_crown (s : State) (l : Nat) (f : Lane → Lane) : (s.modLane l f).crown = s.crown := rfl
@[simp] theorem State.modLane_ptime (s : State) (l : Nat) (f : Lane → Lane) : (s.modLane l f).ptime = s.ptime := rfl
@[simp] theorem State.modLane_dies (s : State) (l : Nat) (f : Lane → Lane) : (s.modLane l f).dies = s.dies := rfl
@[simp] theorem State.modLane_cores (s : State) (l : Nat) (f : Lane → Lane) : (s.modLane l f).cores = s.cores := rfl
@[simp] theorem State.modLane_conts (s : State) (l : Nat) (f : Lane → Lane) : (s.modLane l f).conts = s.conts := rfl
@[simp] theorem State.modLane_resident (s : State) (l : Nat) (f : Lane → Lane) : (s.modLane l f).resident = s.resident := rfl
@[simp] theorem State.modLane_works (s : State) (l : Nat) (f : Lane → Lane) : (s.modLane l f).works = s.works := rfl
@[simp] theorem State.modLane_tset (s : State) (l : Nat) (f : Lane → Lane) : (s.modLane l f).tset = s.tset := rfl
@[simp] theorem State.modLane_keyGens (s : State) (l : Nat) (f : Lane → Lane) : (s.modLane l f).keyGens = s.keyGens := rfl
@[simp] theorem State.modLane_spaces (s : State) (l : Nat) (f : Lane → Lane) : (s.modLane l f).spaces = s.spaces := rfl
@[simp] theorem State.modLane_bufs (s : State) (l : Nat) (f : Lane → Lane) : (s.modLane l f).bufs = s.bufs := rfl
@[simp] theorem State.modLane_trees (s : State) (l : Nat) (f : Lane → Lane) : (s.modLane l f).trees = s.trees := rfl
@[simp] theorem State.modLane_elastics (s : State) (l : Nat) (f : Lane → Lane) : (s.modLane l f).elastics = s.elastics := rfl
@[simp] theorem State.modLane_queues (s : State) (l : Nat) (f : Lane → Lane) : (s.modLane l f).queues = s.queues := rfl
@[simp] theorem State.modLane_modeReqs (s : State) (l : Nat) (f : Lane → Lane) : (s.modLane l f).modeReqs = s.modeReqs := rfl
@[simp] theorem State.modLane_stream (s : State) (l : Nat) (f : Lane → Lane) : (s.modLane l f).stream = s.stream := rfl
@[simp] theorem State.modLane_ioLast (s : State) (l : Nat) (f : Lane → Lane) : (s.modLane l f).ioLast = s.ioLast := rfl
@[simp] theorem State.modLane_pends (s : State) (l : Nat) (f : Lane → Lane) : (s.modLane l f).pends = s.pends := rfl
@[simp] theorem State.modLane_lnchBuf (s : State) (l : Nat) (f : Lane → Lane) : (s.modLane l f).lnchBuf = s.lnchBuf := rfl
@[simp] theorem State.modLane_mail (s : State) (l : Nat) (f : Lane → Lane) : (s.modLane l f).mail = s.mail := rfl
@[simp] theorem State.modLane_faults (s : State) (l : Nat) (f : Lane → Lane) : (s.modLane l f).faults = s.faults := rfl
@[simp] theorem State.modLane_flips (s : State) (l : Nat) (f : Lane → Lane) : (s.modLane l f).flips = s.flips := rfl
@[simp] theorem State.modLane_groups (s : State) (l : Nat) (f : Lane → Lane) : (s.modLane l f).groups = s.groups := rfl
@[simp] theorem State.modLane_rounds (s : State) (l : Nat) (f : Lane → Lane) : (s.modLane l f).rounds = s.rounds := rfl
@[simp] theorem State.modLane_flits (s : State) (l : Nat) (f : Lane → Lane) : (s.modLane l f).flits = s.flits := rfl
@[simp] theorem State.modLane_lateData (s : State) (l : Nat) (f : Lane → Lane) : (s.modLane l f).lateData = s.lateData := rfl
@[simp] theorem State.modLane_applied (s : State) (l : Nat) (f : Lane → Lane) : (s.modLane l f).applied = s.applied := rfl
@[simp] theorem State.modLane_tagNext (s : State) (l : Nat) (f : Lane → Lane) : (s.modLane l f).tagNext = s.tagNext := rfl
@[simp] theorem State.modLane_fq (s : State) (l : Nat) (f : Lane → Lane) : (s.modLane l f).fq = s.fq := rfl
@[simp] theorem State.modLane_nq (s : State) (l : Nat) (f : Lane → Lane) : (s.modLane l f).nq = s.nq := rfl
@[simp] theorem State.modLane_rq (s : State) (l : Nat) (f : Lane → Lane) : (s.modLane l f).rq = s.rq := rfl
@[simp] theorem State.modLane_generation (s : State) (l : Nat) (f : Lane → Lane) : (s.modLane l f).generation = s.generation := rfl
@[simp] theorem State.modLane_heldStores (s : State) (l : Nat) (f : Lane → Lane) : (s.modLane l f).heldStores = s.heldStores := rfl
@[simp] theorem State.modLane_dmas (s : State) (l : Nat) (f : Lane → Lane) : (s.modLane l f).dmas = s.dmas := rfl
@[simp] theorem State.modLane_memOff (s : State) (l : Nat) (f : Lane → Lane) : (s.modLane l f).memOff = s.memOff := rfl
@[simp] theorem State.modLane_answers (s : State) (l : Nat) (f : Lane → Lane) : (s.modLane l f).answers = s.answers := rfl
@[simp] theorem State.modLane_sleeping (s : State) (l : Nat) (f : Lane → Lane) : (s.modLane l f).sleeping = s.sleeping := rfl
@[simp] theorem State.modLane_trains (s : State) (l : Nat) (f : Lane → Lane) : (s.modLane l f).trains = s.trains := rfl
@[simp] theorem State.modLane_linkLast (s : State) (l : Nat) (f : Lane → Lane) : (s.modLane l f).linkLast = s.linkLast := rfl
@[simp] theorem State.modLane_drams (s : State) (l : Nat) (f : Lane → Lane) : (s.modLane l f).drams = s.drams := rfl
@[simp] theorem State.modLane_fns (s : State) (l : Nat) (f : Lane → Lane) : (s.modLane l f).fns = s.fns := rfl

/-! ## setCore -/

@[simp] theorem State.setCore_now (s : State) (c : Nat) (x : Core) : (s.setCore c x).now = s.now := rfl
@[simp] theorem State.setCore_phase (s : State) (c : Nat) (x : Core) : (s.setCore c x).phase = s.phase := rfl
@[simp] theorem State.setCore_agenda (s : State) (c : Nat) (x : Core) : (s.setCore c x).agenda = s.agenda := rfl
@[simp] theorem State.setCore_cur (s : State) (c : Nat) (x : Core) : (s.setCore c x).cur = s.cur := rfl
@[simp] theorem State.setCore_evq (s : State) (c : Nat) (x : Core) : (s.setCore c x).evq = s.evq := rfl
@[simp] theorem State.setCore_inputs (s : State) (c : Nat) (x : Core) : (s.setCore c x).inputs = s.inputs := rfl
@[simp] theorem State.setCore_freeCtr (s : State) (c : Nat) (x : Core) : (s.setCore c x).freeCtr = s.freeCtr := rfl
@[simp] theorem State.setCore_nextId (s : State) (c : Nat) (x : Core) : (s.setCore c x).nextId = s.nextId := rfl
@[simp] theorem State.setCore_powered (s : State) (c : Nat) (x : Core) : (s.setCore c x).powered = s.powered := rfl
@[simp] theorem State.setCore_rails (s : State) (c : Nat) (x : Core) : (s.setCore c x).rails = s.rails := rfl
@[simp] theorem State.setCore_selfRefresh (s : State) (c : Nat) (x : Core) : (s.setCore c x).selfRefresh = s.selfRefresh := rfl
@[simp] theorem State.setCore_mem (s : State) (c : Nat) (x : Core) : (s.setCore c x).mem = s.mem := rfl
@[simp] theorem State.setCore_tags (s : State) (c : Nat) (x : Core) : (s.setCore c x).tags = s.tags := rfl
@[simp] theorem State.setCore_lineKeys (s : State) (c : Nat) (x : Core) : (s.setCore c x).lineKeys = s.lineKeys := rfl
@[simp] theorem State.setCore_dramSlots (s : State) (c : Nat) (x : Core) : (s.setCore c x).dramSlots = s.dramSlots := rfl
@[simp] theorem State.setCore_crown (s : State) (c : Nat) (x : Core) : (s.setCore c x).crown = s.crown := rfl
@[simp] theorem State.setCore_ptime (s : State) (c : Nat) (x : Core) : (s.setCore c x).ptime = s.ptime := rfl
@[simp] theorem State.setCore_dies (s : State) (c : Nat) (x : Core) : (s.setCore c x).dies = s.dies := rfl
@[simp] theorem State.setCore_lanes (s : State) (c : Nat) (x : Core) : (s.setCore c x).lanes = s.lanes := rfl
@[simp] theorem State.setCore_conts (s : State) (c : Nat) (x : Core) : (s.setCore c x).conts = s.conts := rfl
@[simp] theorem State.setCore_resident (s : State) (c : Nat) (x : Core) : (s.setCore c x).resident = s.resident := rfl
@[simp] theorem State.setCore_works (s : State) (c : Nat) (x : Core) : (s.setCore c x).works = s.works := rfl
@[simp] theorem State.setCore_tset (s : State) (c : Nat) (x : Core) : (s.setCore c x).tset = s.tset := rfl
@[simp] theorem State.setCore_keyGens (s : State) (c : Nat) (x : Core) : (s.setCore c x).keyGens = s.keyGens := rfl
@[simp] theorem State.setCore_spaces (s : State) (c : Nat) (x : Core) : (s.setCore c x).spaces = s.spaces := rfl
@[simp] theorem State.setCore_bufs (s : State) (c : Nat) (x : Core) : (s.setCore c x).bufs = s.bufs := rfl
@[simp] theorem State.setCore_trees (s : State) (c : Nat) (x : Core) : (s.setCore c x).trees = s.trees := rfl
@[simp] theorem State.setCore_elastics (s : State) (c : Nat) (x : Core) : (s.setCore c x).elastics = s.elastics := rfl
@[simp] theorem State.setCore_queues (s : State) (c : Nat) (x : Core) : (s.setCore c x).queues = s.queues := rfl
@[simp] theorem State.setCore_modeReqs (s : State) (c : Nat) (x : Core) : (s.setCore c x).modeReqs = s.modeReqs := rfl
@[simp] theorem State.setCore_stream (s : State) (c : Nat) (x : Core) : (s.setCore c x).stream = s.stream := rfl
@[simp] theorem State.setCore_ioLast (s : State) (c : Nat) (x : Core) : (s.setCore c x).ioLast = s.ioLast := rfl
@[simp] theorem State.setCore_pends (s : State) (c : Nat) (x : Core) : (s.setCore c x).pends = s.pends := rfl
@[simp] theorem State.setCore_lnchBuf (s : State) (c : Nat) (x : Core) : (s.setCore c x).lnchBuf = s.lnchBuf := rfl
@[simp] theorem State.setCore_mail (s : State) (c : Nat) (x : Core) : (s.setCore c x).mail = s.mail := rfl
@[simp] theorem State.setCore_faults (s : State) (c : Nat) (x : Core) : (s.setCore c x).faults = s.faults := rfl
@[simp] theorem State.setCore_flips (s : State) (c : Nat) (x : Core) : (s.setCore c x).flips = s.flips := rfl
@[simp] theorem State.setCore_groups (s : State) (c : Nat) (x : Core) : (s.setCore c x).groups = s.groups := rfl
@[simp] theorem State.setCore_rounds (s : State) (c : Nat) (x : Core) : (s.setCore c x).rounds = s.rounds := rfl
@[simp] theorem State.setCore_flits (s : State) (c : Nat) (x : Core) : (s.setCore c x).flits = s.flits := rfl
@[simp] theorem State.setCore_lateData (s : State) (c : Nat) (x : Core) : (s.setCore c x).lateData = s.lateData := rfl
@[simp] theorem State.setCore_applied (s : State) (c : Nat) (x : Core) : (s.setCore c x).applied = s.applied := rfl
@[simp] theorem State.setCore_tagNext (s : State) (c : Nat) (x : Core) : (s.setCore c x).tagNext = s.tagNext := rfl
@[simp] theorem State.setCore_fq (s : State) (c : Nat) (x : Core) : (s.setCore c x).fq = s.fq := rfl
@[simp] theorem State.setCore_nq (s : State) (c : Nat) (x : Core) : (s.setCore c x).nq = s.nq := rfl
@[simp] theorem State.setCore_rq (s : State) (c : Nat) (x : Core) : (s.setCore c x).rq = s.rq := rfl
@[simp] theorem State.setCore_generation (s : State) (c : Nat) (x : Core) : (s.setCore c x).generation = s.generation := rfl
@[simp] theorem State.setCore_heldStores (s : State) (c : Nat) (x : Core) : (s.setCore c x).heldStores = s.heldStores := rfl
@[simp] theorem State.setCore_dmas (s : State) (c : Nat) (x : Core) : (s.setCore c x).dmas = s.dmas := rfl
@[simp] theorem State.setCore_memOff (s : State) (c : Nat) (x : Core) : (s.setCore c x).memOff = s.memOff := rfl
@[simp] theorem State.setCore_answers (s : State) (c : Nat) (x : Core) : (s.setCore c x).answers = s.answers := rfl
@[simp] theorem State.setCore_sleeping (s : State) (c : Nat) (x : Core) : (s.setCore c x).sleeping = s.sleeping := rfl
@[simp] theorem State.setCore_trains (s : State) (c : Nat) (x : Core) : (s.setCore c x).trains = s.trains := rfl
@[simp] theorem State.setCore_linkLast (s : State) (c : Nat) (x : Core) : (s.setCore c x).linkLast = s.linkLast := rfl
@[simp] theorem State.setCore_drams (s : State) (c : Nat) (x : Core) : (s.setCore c x).drams = s.drams := rfl
@[simp] theorem State.setCore_fns (s : State) (c : Nat) (x : Core) : (s.setCore c x).fns = s.fns := rfl

/-! ## modCore -/

@[simp] theorem State.modCore_now (s : State) (c : Nat) (f : Core → Core) : (s.modCore c f).now = s.now := rfl
@[simp] theorem State.modCore_phase (s : State) (c : Nat) (f : Core → Core) : (s.modCore c f).phase = s.phase := rfl
@[simp] theorem State.modCore_agenda (s : State) (c : Nat) (f : Core → Core) : (s.modCore c f).agenda = s.agenda := rfl
@[simp] theorem State.modCore_cur (s : State) (c : Nat) (f : Core → Core) : (s.modCore c f).cur = s.cur := rfl
@[simp] theorem State.modCore_evq (s : State) (c : Nat) (f : Core → Core) : (s.modCore c f).evq = s.evq := rfl
@[simp] theorem State.modCore_inputs (s : State) (c : Nat) (f : Core → Core) : (s.modCore c f).inputs = s.inputs := rfl
@[simp] theorem State.modCore_freeCtr (s : State) (c : Nat) (f : Core → Core) : (s.modCore c f).freeCtr = s.freeCtr := rfl
@[simp] theorem State.modCore_nextId (s : State) (c : Nat) (f : Core → Core) : (s.modCore c f).nextId = s.nextId := rfl
@[simp] theorem State.modCore_powered (s : State) (c : Nat) (f : Core → Core) : (s.modCore c f).powered = s.powered := rfl
@[simp] theorem State.modCore_rails (s : State) (c : Nat) (f : Core → Core) : (s.modCore c f).rails = s.rails := rfl
@[simp] theorem State.modCore_selfRefresh (s : State) (c : Nat) (f : Core → Core) : (s.modCore c f).selfRefresh = s.selfRefresh := rfl
@[simp] theorem State.modCore_mem (s : State) (c : Nat) (f : Core → Core) : (s.modCore c f).mem = s.mem := rfl
@[simp] theorem State.modCore_tags (s : State) (c : Nat) (f : Core → Core) : (s.modCore c f).tags = s.tags := rfl
@[simp] theorem State.modCore_lineKeys (s : State) (c : Nat) (f : Core → Core) : (s.modCore c f).lineKeys = s.lineKeys := rfl
@[simp] theorem State.modCore_dramSlots (s : State) (c : Nat) (f : Core → Core) : (s.modCore c f).dramSlots = s.dramSlots := rfl
@[simp] theorem State.modCore_crown (s : State) (c : Nat) (f : Core → Core) : (s.modCore c f).crown = s.crown := rfl
@[simp] theorem State.modCore_ptime (s : State) (c : Nat) (f : Core → Core) : (s.modCore c f).ptime = s.ptime := rfl
@[simp] theorem State.modCore_dies (s : State) (c : Nat) (f : Core → Core) : (s.modCore c f).dies = s.dies := rfl
@[simp] theorem State.modCore_lanes (s : State) (c : Nat) (f : Core → Core) : (s.modCore c f).lanes = s.lanes := rfl
@[simp] theorem State.modCore_conts (s : State) (c : Nat) (f : Core → Core) : (s.modCore c f).conts = s.conts := rfl
@[simp] theorem State.modCore_resident (s : State) (c : Nat) (f : Core → Core) : (s.modCore c f).resident = s.resident := rfl
@[simp] theorem State.modCore_works (s : State) (c : Nat) (f : Core → Core) : (s.modCore c f).works = s.works := rfl
@[simp] theorem State.modCore_tset (s : State) (c : Nat) (f : Core → Core) : (s.modCore c f).tset = s.tset := rfl
@[simp] theorem State.modCore_keyGens (s : State) (c : Nat) (f : Core → Core) : (s.modCore c f).keyGens = s.keyGens := rfl
@[simp] theorem State.modCore_spaces (s : State) (c : Nat) (f : Core → Core) : (s.modCore c f).spaces = s.spaces := rfl
@[simp] theorem State.modCore_bufs (s : State) (c : Nat) (f : Core → Core) : (s.modCore c f).bufs = s.bufs := rfl
@[simp] theorem State.modCore_trees (s : State) (c : Nat) (f : Core → Core) : (s.modCore c f).trees = s.trees := rfl
@[simp] theorem State.modCore_elastics (s : State) (c : Nat) (f : Core → Core) : (s.modCore c f).elastics = s.elastics := rfl
@[simp] theorem State.modCore_queues (s : State) (c : Nat) (f : Core → Core) : (s.modCore c f).queues = s.queues := rfl
@[simp] theorem State.modCore_modeReqs (s : State) (c : Nat) (f : Core → Core) : (s.modCore c f).modeReqs = s.modeReqs := rfl
@[simp] theorem State.modCore_stream (s : State) (c : Nat) (f : Core → Core) : (s.modCore c f).stream = s.stream := rfl
@[simp] theorem State.modCore_ioLast (s : State) (c : Nat) (f : Core → Core) : (s.modCore c f).ioLast = s.ioLast := rfl
@[simp] theorem State.modCore_pends (s : State) (c : Nat) (f : Core → Core) : (s.modCore c f).pends = s.pends := rfl
@[simp] theorem State.modCore_lnchBuf (s : State) (c : Nat) (f : Core → Core) : (s.modCore c f).lnchBuf = s.lnchBuf := rfl
@[simp] theorem State.modCore_mail (s : State) (c : Nat) (f : Core → Core) : (s.modCore c f).mail = s.mail := rfl
@[simp] theorem State.modCore_faults (s : State) (c : Nat) (f : Core → Core) : (s.modCore c f).faults = s.faults := rfl
@[simp] theorem State.modCore_flips (s : State) (c : Nat) (f : Core → Core) : (s.modCore c f).flips = s.flips := rfl
@[simp] theorem State.modCore_groups (s : State) (c : Nat) (f : Core → Core) : (s.modCore c f).groups = s.groups := rfl
@[simp] theorem State.modCore_rounds (s : State) (c : Nat) (f : Core → Core) : (s.modCore c f).rounds = s.rounds := rfl
@[simp] theorem State.modCore_flits (s : State) (c : Nat) (f : Core → Core) : (s.modCore c f).flits = s.flits := rfl
@[simp] theorem State.modCore_lateData (s : State) (c : Nat) (f : Core → Core) : (s.modCore c f).lateData = s.lateData := rfl
@[simp] theorem State.modCore_applied (s : State) (c : Nat) (f : Core → Core) : (s.modCore c f).applied = s.applied := rfl
@[simp] theorem State.modCore_tagNext (s : State) (c : Nat) (f : Core → Core) : (s.modCore c f).tagNext = s.tagNext := rfl
@[simp] theorem State.modCore_fq (s : State) (c : Nat) (f : Core → Core) : (s.modCore c f).fq = s.fq := rfl
@[simp] theorem State.modCore_nq (s : State) (c : Nat) (f : Core → Core) : (s.modCore c f).nq = s.nq := rfl
@[simp] theorem State.modCore_rq (s : State) (c : Nat) (f : Core → Core) : (s.modCore c f).rq = s.rq := rfl
@[simp] theorem State.modCore_generation (s : State) (c : Nat) (f : Core → Core) : (s.modCore c f).generation = s.generation := rfl
@[simp] theorem State.modCore_heldStores (s : State) (c : Nat) (f : Core → Core) : (s.modCore c f).heldStores = s.heldStores := rfl
@[simp] theorem State.modCore_dmas (s : State) (c : Nat) (f : Core → Core) : (s.modCore c f).dmas = s.dmas := rfl
@[simp] theorem State.modCore_memOff (s : State) (c : Nat) (f : Core → Core) : (s.modCore c f).memOff = s.memOff := rfl
@[simp] theorem State.modCore_answers (s : State) (c : Nat) (f : Core → Core) : (s.modCore c f).answers = s.answers := rfl
@[simp] theorem State.modCore_sleeping (s : State) (c : Nat) (f : Core → Core) : (s.modCore c f).sleeping = s.sleeping := rfl
@[simp] theorem State.modCore_trains (s : State) (c : Nat) (f : Core → Core) : (s.modCore c f).trains = s.trains := rfl
@[simp] theorem State.modCore_linkLast (s : State) (c : Nat) (f : Core → Core) : (s.modCore c f).linkLast = s.linkLast := rfl
@[simp] theorem State.modCore_drams (s : State) (c : Nat) (f : Core → Core) : (s.modCore c f).drams = s.drams := rfl
@[simp] theorem State.modCore_fns (s : State) (c : Nat) (f : Core → Core) : (s.modCore c f).fns = s.fns := rfl

/-! ## setDie -/

@[simp] theorem State.setDie_now (s : State) (d : Nat) (x : Die) : (s.setDie d x).now = s.now := rfl
@[simp] theorem State.setDie_phase (s : State) (d : Nat) (x : Die) : (s.setDie d x).phase = s.phase := rfl
@[simp] theorem State.setDie_agenda (s : State) (d : Nat) (x : Die) : (s.setDie d x).agenda = s.agenda := rfl
@[simp] theorem State.setDie_cur (s : State) (d : Nat) (x : Die) : (s.setDie d x).cur = s.cur := rfl
@[simp] theorem State.setDie_evq (s : State) (d : Nat) (x : Die) : (s.setDie d x).evq = s.evq := rfl
@[simp] theorem State.setDie_inputs (s : State) (d : Nat) (x : Die) : (s.setDie d x).inputs = s.inputs := rfl
@[simp] theorem State.setDie_freeCtr (s : State) (d : Nat) (x : Die) : (s.setDie d x).freeCtr = s.freeCtr := rfl
@[simp] theorem State.setDie_nextId (s : State) (d : Nat) (x : Die) : (s.setDie d x).nextId = s.nextId := rfl
@[simp] theorem State.setDie_powered (s : State) (d : Nat) (x : Die) : (s.setDie d x).powered = s.powered := rfl
@[simp] theorem State.setDie_rails (s : State) (d : Nat) (x : Die) : (s.setDie d x).rails = s.rails := rfl
@[simp] theorem State.setDie_selfRefresh (s : State) (d : Nat) (x : Die) : (s.setDie d x).selfRefresh = s.selfRefresh := rfl
@[simp] theorem State.setDie_mem (s : State) (d : Nat) (x : Die) : (s.setDie d x).mem = s.mem := rfl
@[simp] theorem State.setDie_tags (s : State) (d : Nat) (x : Die) : (s.setDie d x).tags = s.tags := rfl
@[simp] theorem State.setDie_lineKeys (s : State) (d : Nat) (x : Die) : (s.setDie d x).lineKeys = s.lineKeys := rfl
@[simp] theorem State.setDie_dramSlots (s : State) (d : Nat) (x : Die) : (s.setDie d x).dramSlots = s.dramSlots := rfl
@[simp] theorem State.setDie_crown (s : State) (d : Nat) (x : Die) : (s.setDie d x).crown = s.crown := rfl
@[simp] theorem State.setDie_ptime (s : State) (d : Nat) (x : Die) : (s.setDie d x).ptime = s.ptime := rfl
@[simp] theorem State.setDie_cores (s : State) (d : Nat) (x : Die) : (s.setDie d x).cores = s.cores := rfl
@[simp] theorem State.setDie_lanes (s : State) (d : Nat) (x : Die) : (s.setDie d x).lanes = s.lanes := rfl
@[simp] theorem State.setDie_conts (s : State) (d : Nat) (x : Die) : (s.setDie d x).conts = s.conts := rfl
@[simp] theorem State.setDie_resident (s : State) (d : Nat) (x : Die) : (s.setDie d x).resident = s.resident := rfl
@[simp] theorem State.setDie_works (s : State) (d : Nat) (x : Die) : (s.setDie d x).works = s.works := rfl
@[simp] theorem State.setDie_tset (s : State) (d : Nat) (x : Die) : (s.setDie d x).tset = s.tset := rfl
@[simp] theorem State.setDie_keyGens (s : State) (d : Nat) (x : Die) : (s.setDie d x).keyGens = s.keyGens := rfl
@[simp] theorem State.setDie_spaces (s : State) (d : Nat) (x : Die) : (s.setDie d x).spaces = s.spaces := rfl
@[simp] theorem State.setDie_bufs (s : State) (d : Nat) (x : Die) : (s.setDie d x).bufs = s.bufs := rfl
@[simp] theorem State.setDie_trees (s : State) (d : Nat) (x : Die) : (s.setDie d x).trees = s.trees := rfl
@[simp] theorem State.setDie_elastics (s : State) (d : Nat) (x : Die) : (s.setDie d x).elastics = s.elastics := rfl
@[simp] theorem State.setDie_queues (s : State) (d : Nat) (x : Die) : (s.setDie d x).queues = s.queues := rfl
@[simp] theorem State.setDie_modeReqs (s : State) (d : Nat) (x : Die) : (s.setDie d x).modeReqs = s.modeReqs := rfl
@[simp] theorem State.setDie_stream (s : State) (d : Nat) (x : Die) : (s.setDie d x).stream = s.stream := rfl
@[simp] theorem State.setDie_ioLast (s : State) (d : Nat) (x : Die) : (s.setDie d x).ioLast = s.ioLast := rfl
@[simp] theorem State.setDie_pends (s : State) (d : Nat) (x : Die) : (s.setDie d x).pends = s.pends := rfl
@[simp] theorem State.setDie_lnchBuf (s : State) (d : Nat) (x : Die) : (s.setDie d x).lnchBuf = s.lnchBuf := rfl
@[simp] theorem State.setDie_mail (s : State) (d : Nat) (x : Die) : (s.setDie d x).mail = s.mail := rfl
@[simp] theorem State.setDie_faults (s : State) (d : Nat) (x : Die) : (s.setDie d x).faults = s.faults := rfl
@[simp] theorem State.setDie_flips (s : State) (d : Nat) (x : Die) : (s.setDie d x).flips = s.flips := rfl
@[simp] theorem State.setDie_groups (s : State) (d : Nat) (x : Die) : (s.setDie d x).groups = s.groups := rfl
@[simp] theorem State.setDie_rounds (s : State) (d : Nat) (x : Die) : (s.setDie d x).rounds = s.rounds := rfl
@[simp] theorem State.setDie_flits (s : State) (d : Nat) (x : Die) : (s.setDie d x).flits = s.flits := rfl
@[simp] theorem State.setDie_lateData (s : State) (d : Nat) (x : Die) : (s.setDie d x).lateData = s.lateData := rfl
@[simp] theorem State.setDie_applied (s : State) (d : Nat) (x : Die) : (s.setDie d x).applied = s.applied := rfl
@[simp] theorem State.setDie_tagNext (s : State) (d : Nat) (x : Die) : (s.setDie d x).tagNext = s.tagNext := rfl
@[simp] theorem State.setDie_fq (s : State) (d : Nat) (x : Die) : (s.setDie d x).fq = s.fq := rfl
@[simp] theorem State.setDie_nq (s : State) (d : Nat) (x : Die) : (s.setDie d x).nq = s.nq := rfl
@[simp] theorem State.setDie_rq (s : State) (d : Nat) (x : Die) : (s.setDie d x).rq = s.rq := rfl
@[simp] theorem State.setDie_generation (s : State) (d : Nat) (x : Die) : (s.setDie d x).generation = s.generation := rfl
@[simp] theorem State.setDie_heldStores (s : State) (d : Nat) (x : Die) : (s.setDie d x).heldStores = s.heldStores := rfl
@[simp] theorem State.setDie_dmas (s : State) (d : Nat) (x : Die) : (s.setDie d x).dmas = s.dmas := rfl
@[simp] theorem State.setDie_memOff (s : State) (d : Nat) (x : Die) : (s.setDie d x).memOff = s.memOff := rfl
@[simp] theorem State.setDie_answers (s : State) (d : Nat) (x : Die) : (s.setDie d x).answers = s.answers := rfl
@[simp] theorem State.setDie_sleeping (s : State) (d : Nat) (x : Die) : (s.setDie d x).sleeping = s.sleeping := rfl
@[simp] theorem State.setDie_trains (s : State) (d : Nat) (x : Die) : (s.setDie d x).trains = s.trains := rfl
@[simp] theorem State.setDie_linkLast (s : State) (d : Nat) (x : Die) : (s.setDie d x).linkLast = s.linkLast := rfl
@[simp] theorem State.setDie_drams (s : State) (d : Nat) (x : Die) : (s.setDie d x).drams = s.drams := rfl
@[simp] theorem State.setDie_fns (s : State) (d : Nat) (x : Die) : (s.setDie d x).fns = s.fns := rfl

/-! ## modDie -/

@[simp] theorem State.modDie_now (s : State) (d : Nat) (f : Die → Die) : (s.modDie d f).now = s.now := rfl
@[simp] theorem State.modDie_phase (s : State) (d : Nat) (f : Die → Die) : (s.modDie d f).phase = s.phase := rfl
@[simp] theorem State.modDie_agenda (s : State) (d : Nat) (f : Die → Die) : (s.modDie d f).agenda = s.agenda := rfl
@[simp] theorem State.modDie_cur (s : State) (d : Nat) (f : Die → Die) : (s.modDie d f).cur = s.cur := rfl
@[simp] theorem State.modDie_evq (s : State) (d : Nat) (f : Die → Die) : (s.modDie d f).evq = s.evq := rfl
@[simp] theorem State.modDie_inputs (s : State) (d : Nat) (f : Die → Die) : (s.modDie d f).inputs = s.inputs := rfl
@[simp] theorem State.modDie_freeCtr (s : State) (d : Nat) (f : Die → Die) : (s.modDie d f).freeCtr = s.freeCtr := rfl
@[simp] theorem State.modDie_nextId (s : State) (d : Nat) (f : Die → Die) : (s.modDie d f).nextId = s.nextId := rfl
@[simp] theorem State.modDie_powered (s : State) (d : Nat) (f : Die → Die) : (s.modDie d f).powered = s.powered := rfl
@[simp] theorem State.modDie_rails (s : State) (d : Nat) (f : Die → Die) : (s.modDie d f).rails = s.rails := rfl
@[simp] theorem State.modDie_selfRefresh (s : State) (d : Nat) (f : Die → Die) : (s.modDie d f).selfRefresh = s.selfRefresh := rfl
@[simp] theorem State.modDie_mem (s : State) (d : Nat) (f : Die → Die) : (s.modDie d f).mem = s.mem := rfl
@[simp] theorem State.modDie_tags (s : State) (d : Nat) (f : Die → Die) : (s.modDie d f).tags = s.tags := rfl
@[simp] theorem State.modDie_lineKeys (s : State) (d : Nat) (f : Die → Die) : (s.modDie d f).lineKeys = s.lineKeys := rfl
@[simp] theorem State.modDie_dramSlots (s : State) (d : Nat) (f : Die → Die) : (s.modDie d f).dramSlots = s.dramSlots := rfl
@[simp] theorem State.modDie_crown (s : State) (d : Nat) (f : Die → Die) : (s.modDie d f).crown = s.crown := rfl
@[simp] theorem State.modDie_ptime (s : State) (d : Nat) (f : Die → Die) : (s.modDie d f).ptime = s.ptime := rfl
@[simp] theorem State.modDie_cores (s : State) (d : Nat) (f : Die → Die) : (s.modDie d f).cores = s.cores := rfl
@[simp] theorem State.modDie_lanes (s : State) (d : Nat) (f : Die → Die) : (s.modDie d f).lanes = s.lanes := rfl
@[simp] theorem State.modDie_conts (s : State) (d : Nat) (f : Die → Die) : (s.modDie d f).conts = s.conts := rfl
@[simp] theorem State.modDie_resident (s : State) (d : Nat) (f : Die → Die) : (s.modDie d f).resident = s.resident := rfl
@[simp] theorem State.modDie_works (s : State) (d : Nat) (f : Die → Die) : (s.modDie d f).works = s.works := rfl
@[simp] theorem State.modDie_tset (s : State) (d : Nat) (f : Die → Die) : (s.modDie d f).tset = s.tset := rfl
@[simp] theorem State.modDie_keyGens (s : State) (d : Nat) (f : Die → Die) : (s.modDie d f).keyGens = s.keyGens := rfl
@[simp] theorem State.modDie_spaces (s : State) (d : Nat) (f : Die → Die) : (s.modDie d f).spaces = s.spaces := rfl
@[simp] theorem State.modDie_bufs (s : State) (d : Nat) (f : Die → Die) : (s.modDie d f).bufs = s.bufs := rfl
@[simp] theorem State.modDie_trees (s : State) (d : Nat) (f : Die → Die) : (s.modDie d f).trees = s.trees := rfl
@[simp] theorem State.modDie_elastics (s : State) (d : Nat) (f : Die → Die) : (s.modDie d f).elastics = s.elastics := rfl
@[simp] theorem State.modDie_queues (s : State) (d : Nat) (f : Die → Die) : (s.modDie d f).queues = s.queues := rfl
@[simp] theorem State.modDie_modeReqs (s : State) (d : Nat) (f : Die → Die) : (s.modDie d f).modeReqs = s.modeReqs := rfl
@[simp] theorem State.modDie_stream (s : State) (d : Nat) (f : Die → Die) : (s.modDie d f).stream = s.stream := rfl
@[simp] theorem State.modDie_ioLast (s : State) (d : Nat) (f : Die → Die) : (s.modDie d f).ioLast = s.ioLast := rfl
@[simp] theorem State.modDie_pends (s : State) (d : Nat) (f : Die → Die) : (s.modDie d f).pends = s.pends := rfl
@[simp] theorem State.modDie_lnchBuf (s : State) (d : Nat) (f : Die → Die) : (s.modDie d f).lnchBuf = s.lnchBuf := rfl
@[simp] theorem State.modDie_mail (s : State) (d : Nat) (f : Die → Die) : (s.modDie d f).mail = s.mail := rfl
@[simp] theorem State.modDie_faults (s : State) (d : Nat) (f : Die → Die) : (s.modDie d f).faults = s.faults := rfl
@[simp] theorem State.modDie_flips (s : State) (d : Nat) (f : Die → Die) : (s.modDie d f).flips = s.flips := rfl
@[simp] theorem State.modDie_groups (s : State) (d : Nat) (f : Die → Die) : (s.modDie d f).groups = s.groups := rfl
@[simp] theorem State.modDie_rounds (s : State) (d : Nat) (f : Die → Die) : (s.modDie d f).rounds = s.rounds := rfl
@[simp] theorem State.modDie_flits (s : State) (d : Nat) (f : Die → Die) : (s.modDie d f).flits = s.flits := rfl
@[simp] theorem State.modDie_lateData (s : State) (d : Nat) (f : Die → Die) : (s.modDie d f).lateData = s.lateData := rfl
@[simp] theorem State.modDie_applied (s : State) (d : Nat) (f : Die → Die) : (s.modDie d f).applied = s.applied := rfl
@[simp] theorem State.modDie_tagNext (s : State) (d : Nat) (f : Die → Die) : (s.modDie d f).tagNext = s.tagNext := rfl
@[simp] theorem State.modDie_fq (s : State) (d : Nat) (f : Die → Die) : (s.modDie d f).fq = s.fq := rfl
@[simp] theorem State.modDie_nq (s : State) (d : Nat) (f : Die → Die) : (s.modDie d f).nq = s.nq := rfl
@[simp] theorem State.modDie_rq (s : State) (d : Nat) (f : Die → Die) : (s.modDie d f).rq = s.rq := rfl
@[simp] theorem State.modDie_generation (s : State) (d : Nat) (f : Die → Die) : (s.modDie d f).generation = s.generation := rfl
@[simp] theorem State.modDie_heldStores (s : State) (d : Nat) (f : Die → Die) : (s.modDie d f).heldStores = s.heldStores := rfl
@[simp] theorem State.modDie_dmas (s : State) (d : Nat) (f : Die → Die) : (s.modDie d f).dmas = s.dmas := rfl
@[simp] theorem State.modDie_memOff (s : State) (d : Nat) (f : Die → Die) : (s.modDie d f).memOff = s.memOff := rfl
@[simp] theorem State.modDie_answers (s : State) (d : Nat) (f : Die → Die) : (s.modDie d f).answers = s.answers := rfl
@[simp] theorem State.modDie_sleeping (s : State) (d : Nat) (f : Die → Die) : (s.modDie d f).sleeping = s.sleeping := rfl
@[simp] theorem State.modDie_trains (s : State) (d : Nat) (f : Die → Die) : (s.modDie d f).trains = s.trains := rfl
@[simp] theorem State.modDie_linkLast (s : State) (d : Nat) (f : Die → Die) : (s.modDie d f).linkLast = s.linkLast := rfl
@[simp] theorem State.modDie_drams (s : State) (d : Nat) (f : Die → Die) : (s.modDie d f).drams = s.drams := rfl
@[simp] theorem State.modDie_fns (s : State) (d : Nat) (f : Die → Die) : (s.modDie d f).fns = s.fns := rfl

/-! ## post -/

@[simp] theorem State.post_now (s : State) (t : Nat) (i : Instr) : (s.post t i).now = s.now := rfl
@[simp] theorem State.post_phase (s : State) (t : Nat) (i : Instr) : (s.post t i).phase = s.phase := rfl
@[simp] theorem State.post_agenda (s : State) (t : Nat) (i : Instr) : (s.post t i).agenda = s.agenda := rfl
@[simp] theorem State.post_cur (s : State) (t : Nat) (i : Instr) : (s.post t i).cur = s.cur := rfl
@[simp] theorem State.post_inputs (s : State) (t : Nat) (i : Instr) : (s.post t i).inputs = s.inputs := rfl
@[simp] theorem State.post_freeCtr (s : State) (t : Nat) (i : Instr) : (s.post t i).freeCtr = s.freeCtr := rfl
@[simp] theorem State.post_nextId (s : State) (t : Nat) (i : Instr) : (s.post t i).nextId = s.nextId := rfl
@[simp] theorem State.post_powered (s : State) (t : Nat) (i : Instr) : (s.post t i).powered = s.powered := rfl
@[simp] theorem State.post_rails (s : State) (t : Nat) (i : Instr) : (s.post t i).rails = s.rails := rfl
@[simp] theorem State.post_selfRefresh (s : State) (t : Nat) (i : Instr) : (s.post t i).selfRefresh = s.selfRefresh := rfl
@[simp] theorem State.post_mem (s : State) (t : Nat) (i : Instr) : (s.post t i).mem = s.mem := rfl
@[simp] theorem State.post_tags (s : State) (t : Nat) (i : Instr) : (s.post t i).tags = s.tags := rfl
@[simp] theorem State.post_lineKeys (s : State) (t : Nat) (i : Instr) : (s.post t i).lineKeys = s.lineKeys := rfl
@[simp] theorem State.post_dramSlots (s : State) (t : Nat) (i : Instr) : (s.post t i).dramSlots = s.dramSlots := rfl
@[simp] theorem State.post_crown (s : State) (t : Nat) (i : Instr) : (s.post t i).crown = s.crown := rfl
@[simp] theorem State.post_ptime (s : State) (t : Nat) (i : Instr) : (s.post t i).ptime = s.ptime := rfl
@[simp] theorem State.post_dies (s : State) (t : Nat) (i : Instr) : (s.post t i).dies = s.dies := rfl
@[simp] theorem State.post_cores (s : State) (t : Nat) (i : Instr) : (s.post t i).cores = s.cores := rfl
@[simp] theorem State.post_lanes (s : State) (t : Nat) (i : Instr) : (s.post t i).lanes = s.lanes := rfl
@[simp] theorem State.post_conts (s : State) (t : Nat) (i : Instr) : (s.post t i).conts = s.conts := rfl
@[simp] theorem State.post_resident (s : State) (t : Nat) (i : Instr) : (s.post t i).resident = s.resident := rfl
@[simp] theorem State.post_works (s : State) (t : Nat) (i : Instr) : (s.post t i).works = s.works := rfl
@[simp] theorem State.post_tset (s : State) (t : Nat) (i : Instr) : (s.post t i).tset = s.tset := rfl
@[simp] theorem State.post_keyGens (s : State) (t : Nat) (i : Instr) : (s.post t i).keyGens = s.keyGens := rfl
@[simp] theorem State.post_spaces (s : State) (t : Nat) (i : Instr) : (s.post t i).spaces = s.spaces := rfl
@[simp] theorem State.post_bufs (s : State) (t : Nat) (i : Instr) : (s.post t i).bufs = s.bufs := rfl
@[simp] theorem State.post_trees (s : State) (t : Nat) (i : Instr) : (s.post t i).trees = s.trees := rfl
@[simp] theorem State.post_elastics (s : State) (t : Nat) (i : Instr) : (s.post t i).elastics = s.elastics := rfl
@[simp] theorem State.post_queues (s : State) (t : Nat) (i : Instr) : (s.post t i).queues = s.queues := rfl
@[simp] theorem State.post_modeReqs (s : State) (t : Nat) (i : Instr) : (s.post t i).modeReqs = s.modeReqs := rfl
@[simp] theorem State.post_stream (s : State) (t : Nat) (i : Instr) : (s.post t i).stream = s.stream := rfl
@[simp] theorem State.post_ioLast (s : State) (t : Nat) (i : Instr) : (s.post t i).ioLast = s.ioLast := rfl
@[simp] theorem State.post_pends (s : State) (t : Nat) (i : Instr) : (s.post t i).pends = s.pends := rfl
@[simp] theorem State.post_lnchBuf (s : State) (t : Nat) (i : Instr) : (s.post t i).lnchBuf = s.lnchBuf := rfl
@[simp] theorem State.post_mail (s : State) (t : Nat) (i : Instr) : (s.post t i).mail = s.mail := rfl
@[simp] theorem State.post_faults (s : State) (t : Nat) (i : Instr) : (s.post t i).faults = s.faults := rfl
@[simp] theorem State.post_flips (s : State) (t : Nat) (i : Instr) : (s.post t i).flips = s.flips := rfl
@[simp] theorem State.post_groups (s : State) (t : Nat) (i : Instr) : (s.post t i).groups = s.groups := rfl
@[simp] theorem State.post_rounds (s : State) (t : Nat) (i : Instr) : (s.post t i).rounds = s.rounds := rfl
@[simp] theorem State.post_flits (s : State) (t : Nat) (i : Instr) : (s.post t i).flits = s.flits := rfl
@[simp] theorem State.post_lateData (s : State) (t : Nat) (i : Instr) : (s.post t i).lateData = s.lateData := rfl
@[simp] theorem State.post_applied (s : State) (t : Nat) (i : Instr) : (s.post t i).applied = s.applied := rfl
@[simp] theorem State.post_tagNext (s : State) (t : Nat) (i : Instr) : (s.post t i).tagNext = s.tagNext := rfl
@[simp] theorem State.post_fq (s : State) (t : Nat) (i : Instr) : (s.post t i).fq = s.fq := rfl
@[simp] theorem State.post_nq (s : State) (t : Nat) (i : Instr) : (s.post t i).nq = s.nq := rfl
@[simp] theorem State.post_rq (s : State) (t : Nat) (i : Instr) : (s.post t i).rq = s.rq := rfl
@[simp] theorem State.post_generation (s : State) (t : Nat) (i : Instr) : (s.post t i).generation = s.generation := rfl
@[simp] theorem State.post_heldStores (s : State) (t : Nat) (i : Instr) : (s.post t i).heldStores = s.heldStores := rfl
@[simp] theorem State.post_dmas (s : State) (t : Nat) (i : Instr) : (s.post t i).dmas = s.dmas := rfl
@[simp] theorem State.post_memOff (s : State) (t : Nat) (i : Instr) : (s.post t i).memOff = s.memOff := rfl
@[simp] theorem State.post_answers (s : State) (t : Nat) (i : Instr) : (s.post t i).answers = s.answers := rfl
@[simp] theorem State.post_sleeping (s : State) (t : Nat) (i : Instr) : (s.post t i).sleeping = s.sleeping := rfl
@[simp] theorem State.post_trains (s : State) (t : Nat) (i : Instr) : (s.post t i).trains = s.trains := rfl
@[simp] theorem State.post_linkLast (s : State) (t : Nat) (i : Instr) : (s.post t i).linkLast = s.linkLast := rfl
@[simp] theorem State.post_drams (s : State) (t : Nat) (i : Instr) : (s.post t i).drams = s.drams := rfl
@[simp] theorem State.post_fns (s : State) (t : Nat) (i : Instr) : (s.post t i).fns = s.fns := rfl

/-! ## soon -/

@[simp] theorem State.soon_now (s : State) (i : Instr) : (s.soon i).now = s.now := rfl
@[simp] theorem State.soon_phase (s : State) (i : Instr) : (s.soon i).phase = s.phase := rfl
@[simp] theorem State.soon_cur (s : State) (i : Instr) : (s.soon i).cur = s.cur := rfl
@[simp] theorem State.soon_evq (s : State) (i : Instr) : (s.soon i).evq = s.evq := rfl
@[simp] theorem State.soon_inputs (s : State) (i : Instr) : (s.soon i).inputs = s.inputs := rfl
@[simp] theorem State.soon_freeCtr (s : State) (i : Instr) : (s.soon i).freeCtr = s.freeCtr := rfl
@[simp] theorem State.soon_nextId (s : State) (i : Instr) : (s.soon i).nextId = s.nextId := rfl
@[simp] theorem State.soon_powered (s : State) (i : Instr) : (s.soon i).powered = s.powered := rfl
@[simp] theorem State.soon_rails (s : State) (i : Instr) : (s.soon i).rails = s.rails := rfl
@[simp] theorem State.soon_selfRefresh (s : State) (i : Instr) : (s.soon i).selfRefresh = s.selfRefresh := rfl
@[simp] theorem State.soon_mem (s : State) (i : Instr) : (s.soon i).mem = s.mem := rfl
@[simp] theorem State.soon_tags (s : State) (i : Instr) : (s.soon i).tags = s.tags := rfl
@[simp] theorem State.soon_lineKeys (s : State) (i : Instr) : (s.soon i).lineKeys = s.lineKeys := rfl
@[simp] theorem State.soon_dramSlots (s : State) (i : Instr) : (s.soon i).dramSlots = s.dramSlots := rfl
@[simp] theorem State.soon_crown (s : State) (i : Instr) : (s.soon i).crown = s.crown := rfl
@[simp] theorem State.soon_ptime (s : State) (i : Instr) : (s.soon i).ptime = s.ptime := rfl
@[simp] theorem State.soon_dies (s : State) (i : Instr) : (s.soon i).dies = s.dies := rfl
@[simp] theorem State.soon_cores (s : State) (i : Instr) : (s.soon i).cores = s.cores := rfl
@[simp] theorem State.soon_lanes (s : State) (i : Instr) : (s.soon i).lanes = s.lanes := rfl
@[simp] theorem State.soon_conts (s : State) (i : Instr) : (s.soon i).conts = s.conts := rfl
@[simp] theorem State.soon_resident (s : State) (i : Instr) : (s.soon i).resident = s.resident := rfl
@[simp] theorem State.soon_works (s : State) (i : Instr) : (s.soon i).works = s.works := rfl
@[simp] theorem State.soon_tset (s : State) (i : Instr) : (s.soon i).tset = s.tset := rfl
@[simp] theorem State.soon_keyGens (s : State) (i : Instr) : (s.soon i).keyGens = s.keyGens := rfl
@[simp] theorem State.soon_spaces (s : State) (i : Instr) : (s.soon i).spaces = s.spaces := rfl
@[simp] theorem State.soon_bufs (s : State) (i : Instr) : (s.soon i).bufs = s.bufs := rfl
@[simp] theorem State.soon_trees (s : State) (i : Instr) : (s.soon i).trees = s.trees := rfl
@[simp] theorem State.soon_elastics (s : State) (i : Instr) : (s.soon i).elastics = s.elastics := rfl
@[simp] theorem State.soon_queues (s : State) (i : Instr) : (s.soon i).queues = s.queues := rfl
@[simp] theorem State.soon_modeReqs (s : State) (i : Instr) : (s.soon i).modeReqs = s.modeReqs := rfl
@[simp] theorem State.soon_stream (s : State) (i : Instr) : (s.soon i).stream = s.stream := rfl
@[simp] theorem State.soon_ioLast (s : State) (i : Instr) : (s.soon i).ioLast = s.ioLast := rfl
@[simp] theorem State.soon_pends (s : State) (i : Instr) : (s.soon i).pends = s.pends := rfl
@[simp] theorem State.soon_lnchBuf (s : State) (i : Instr) : (s.soon i).lnchBuf = s.lnchBuf := rfl
@[simp] theorem State.soon_mail (s : State) (i : Instr) : (s.soon i).mail = s.mail := rfl
@[simp] theorem State.soon_faults (s : State) (i : Instr) : (s.soon i).faults = s.faults := rfl
@[simp] theorem State.soon_flips (s : State) (i : Instr) : (s.soon i).flips = s.flips := rfl
@[simp] theorem State.soon_groups (s : State) (i : Instr) : (s.soon i).groups = s.groups := rfl
@[simp] theorem State.soon_rounds (s : State) (i : Instr) : (s.soon i).rounds = s.rounds := rfl
@[simp] theorem State.soon_flits (s : State) (i : Instr) : (s.soon i).flits = s.flits := rfl
@[simp] theorem State.soon_lateData (s : State) (i : Instr) : (s.soon i).lateData = s.lateData := rfl
@[simp] theorem State.soon_applied (s : State) (i : Instr) : (s.soon i).applied = s.applied := rfl
@[simp] theorem State.soon_tagNext (s : State) (i : Instr) : (s.soon i).tagNext = s.tagNext := rfl
@[simp] theorem State.soon_fq (s : State) (i : Instr) : (s.soon i).fq = s.fq := rfl
@[simp] theorem State.soon_nq (s : State) (i : Instr) : (s.soon i).nq = s.nq := rfl
@[simp] theorem State.soon_rq (s : State) (i : Instr) : (s.soon i).rq = s.rq := rfl
@[simp] theorem State.soon_generation (s : State) (i : Instr) : (s.soon i).generation = s.generation := rfl
@[simp] theorem State.soon_heldStores (s : State) (i : Instr) : (s.soon i).heldStores = s.heldStores := rfl
@[simp] theorem State.soon_dmas (s : State) (i : Instr) : (s.soon i).dmas = s.dmas := rfl
@[simp] theorem State.soon_memOff (s : State) (i : Instr) : (s.soon i).memOff = s.memOff := rfl
@[simp] theorem State.soon_answers (s : State) (i : Instr) : (s.soon i).answers = s.answers := rfl
@[simp] theorem State.soon_sleeping (s : State) (i : Instr) : (s.soon i).sleeping = s.sleeping := rfl
@[simp] theorem State.soon_trains (s : State) (i : Instr) : (s.soon i).trains = s.trains := rfl
@[simp] theorem State.soon_linkLast (s : State) (i : Instr) : (s.soon i).linkLast = s.linkLast := rfl
@[simp] theorem State.soon_drams (s : State) (i : Instr) : (s.soon i).drams = s.drams := rfl
@[simp] theorem State.soon_fns (s : State) (i : Instr) : (s.soon i).fns = s.fns := rfl

/-! ## orFlags -/

@[simp] theorem State.orFlags_now (s : State) (l nf tf : Nat) : (s.orFlags l nf tf).now = s.now := rfl
@[simp] theorem State.orFlags_phase (s : State) (l nf tf : Nat) : (s.orFlags l nf tf).phase = s.phase := rfl
@[simp] theorem State.orFlags_agenda (s : State) (l nf tf : Nat) : (s.orFlags l nf tf).agenda = s.agenda := rfl
@[simp] theorem State.orFlags_cur (s : State) (l nf tf : Nat) : (s.orFlags l nf tf).cur = s.cur := rfl
@[simp] theorem State.orFlags_evq (s : State) (l nf tf : Nat) : (s.orFlags l nf tf).evq = s.evq := rfl
@[simp] theorem State.orFlags_inputs (s : State) (l nf tf : Nat) : (s.orFlags l nf tf).inputs = s.inputs := rfl
@[simp] theorem State.orFlags_freeCtr (s : State) (l nf tf : Nat) : (s.orFlags l nf tf).freeCtr = s.freeCtr := rfl
@[simp] theorem State.orFlags_nextId (s : State) (l nf tf : Nat) : (s.orFlags l nf tf).nextId = s.nextId := rfl
@[simp] theorem State.orFlags_powered (s : State) (l nf tf : Nat) : (s.orFlags l nf tf).powered = s.powered := rfl
@[simp] theorem State.orFlags_rails (s : State) (l nf tf : Nat) : (s.orFlags l nf tf).rails = s.rails := rfl
@[simp] theorem State.orFlags_selfRefresh (s : State) (l nf tf : Nat) : (s.orFlags l nf tf).selfRefresh = s.selfRefresh := rfl
@[simp] theorem State.orFlags_mem (s : State) (l nf tf : Nat) : (s.orFlags l nf tf).mem = s.mem := rfl
@[simp] theorem State.orFlags_tags (s : State) (l nf tf : Nat) : (s.orFlags l nf tf).tags = s.tags := rfl
@[simp] theorem State.orFlags_lineKeys (s : State) (l nf tf : Nat) : (s.orFlags l nf tf).lineKeys = s.lineKeys := rfl
@[simp] theorem State.orFlags_dramSlots (s : State) (l nf tf : Nat) : (s.orFlags l nf tf).dramSlots = s.dramSlots := rfl
@[simp] theorem State.orFlags_crown (s : State) (l nf tf : Nat) : (s.orFlags l nf tf).crown = s.crown := rfl
@[simp] theorem State.orFlags_ptime (s : State) (l nf tf : Nat) : (s.orFlags l nf tf).ptime = s.ptime := rfl
@[simp] theorem State.orFlags_dies (s : State) (l nf tf : Nat) : (s.orFlags l nf tf).dies = s.dies := rfl
@[simp] theorem State.orFlags_cores (s : State) (l nf tf : Nat) : (s.orFlags l nf tf).cores = s.cores := rfl
@[simp] theorem State.orFlags_conts (s : State) (l nf tf : Nat) : (s.orFlags l nf tf).conts = s.conts := rfl
@[simp] theorem State.orFlags_resident (s : State) (l nf tf : Nat) : (s.orFlags l nf tf).resident = s.resident := rfl
@[simp] theorem State.orFlags_works (s : State) (l nf tf : Nat) : (s.orFlags l nf tf).works = s.works := rfl
@[simp] theorem State.orFlags_tset (s : State) (l nf tf : Nat) : (s.orFlags l nf tf).tset = s.tset := rfl
@[simp] theorem State.orFlags_keyGens (s : State) (l nf tf : Nat) : (s.orFlags l nf tf).keyGens = s.keyGens := rfl
@[simp] theorem State.orFlags_spaces (s : State) (l nf tf : Nat) : (s.orFlags l nf tf).spaces = s.spaces := rfl
@[simp] theorem State.orFlags_bufs (s : State) (l nf tf : Nat) : (s.orFlags l nf tf).bufs = s.bufs := rfl
@[simp] theorem State.orFlags_trees (s : State) (l nf tf : Nat) : (s.orFlags l nf tf).trees = s.trees := rfl
@[simp] theorem State.orFlags_elastics (s : State) (l nf tf : Nat) : (s.orFlags l nf tf).elastics = s.elastics := rfl
@[simp] theorem State.orFlags_queues (s : State) (l nf tf : Nat) : (s.orFlags l nf tf).queues = s.queues := rfl
@[simp] theorem State.orFlags_modeReqs (s : State) (l nf tf : Nat) : (s.orFlags l nf tf).modeReqs = s.modeReqs := rfl
@[simp] theorem State.orFlags_stream (s : State) (l nf tf : Nat) : (s.orFlags l nf tf).stream = s.stream := rfl
@[simp] theorem State.orFlags_ioLast (s : State) (l nf tf : Nat) : (s.orFlags l nf tf).ioLast = s.ioLast := rfl
@[simp] theorem State.orFlags_pends (s : State) (l nf tf : Nat) : (s.orFlags l nf tf).pends = s.pends := rfl
@[simp] theorem State.orFlags_lnchBuf (s : State) (l nf tf : Nat) : (s.orFlags l nf tf).lnchBuf = s.lnchBuf := rfl
@[simp] theorem State.orFlags_mail (s : State) (l nf tf : Nat) : (s.orFlags l nf tf).mail = s.mail := rfl
@[simp] theorem State.orFlags_faults (s : State) (l nf tf : Nat) : (s.orFlags l nf tf).faults = s.faults := rfl
@[simp] theorem State.orFlags_flips (s : State) (l nf tf : Nat) : (s.orFlags l nf tf).flips = s.flips := rfl
@[simp] theorem State.orFlags_groups (s : State) (l nf tf : Nat) : (s.orFlags l nf tf).groups = s.groups := rfl
@[simp] theorem State.orFlags_rounds (s : State) (l nf tf : Nat) : (s.orFlags l nf tf).rounds = s.rounds := rfl
@[simp] theorem State.orFlags_flits (s : State) (l nf tf : Nat) : (s.orFlags l nf tf).flits = s.flits := rfl
@[simp] theorem State.orFlags_lateData (s : State) (l nf tf : Nat) : (s.orFlags l nf tf).lateData = s.lateData := rfl
@[simp] theorem State.orFlags_applied (s : State) (l nf tf : Nat) : (s.orFlags l nf tf).applied = s.applied := rfl
@[simp] theorem State.orFlags_tagNext (s : State) (l nf tf : Nat) : (s.orFlags l nf tf).tagNext = s.tagNext := rfl
@[simp] theorem State.orFlags_fq (s : State) (l nf tf : Nat) : (s.orFlags l nf tf).fq = s.fq := rfl
@[simp] theorem State.orFlags_nq (s : State) (l nf tf : Nat) : (s.orFlags l nf tf).nq = s.nq := rfl
@[simp] theorem State.orFlags_rq (s : State) (l nf tf : Nat) : (s.orFlags l nf tf).rq = s.rq := rfl
@[simp] theorem State.orFlags_generation (s : State) (l nf tf : Nat) : (s.orFlags l nf tf).generation = s.generation := rfl
@[simp] theorem State.orFlags_heldStores (s : State) (l nf tf : Nat) : (s.orFlags l nf tf).heldStores = s.heldStores := rfl
@[simp] theorem State.orFlags_dmas (s : State) (l nf tf : Nat) : (s.orFlags l nf tf).dmas = s.dmas := rfl
@[simp] theorem State.orFlags_memOff (s : State) (l nf tf : Nat) : (s.orFlags l nf tf).memOff = s.memOff := rfl
@[simp] theorem State.orFlags_answers (s : State) (l nf tf : Nat) : (s.orFlags l nf tf).answers = s.answers := rfl
@[simp] theorem State.orFlags_sleeping (s : State) (l nf tf : Nat) : (s.orFlags l nf tf).sleeping = s.sleeping := rfl
@[simp] theorem State.orFlags_trains (s : State) (l nf tf : Nat) : (s.orFlags l nf tf).trains = s.trains := rfl
@[simp] theorem State.orFlags_linkLast (s : State) (l nf tf : Nat) : (s.orFlags l nf tf).linkLast = s.linkLast := rfl
@[simp] theorem State.orFlags_drams (s : State) (l nf tf : Nat) : (s.orFlags l nf tf).drams = s.drams := rfl
@[simp] theorem State.orFlags_fns (s : State) (l nf tf : Nat) : (s.orFlags l nf tf).fns = s.fns := rfl

/-! ## Lanes, cores and dies after an update -/

@[simp] theorem lane_setLane (s : State) (l k : Nat) (x : Lane) : (s.setLane l x).lane k = if k = l then x else s.lane k := by
  simp [State.lane, State.setLane]
@[simp] theorem lane_modLane (s : State) (l k : Nat) (f : Lane → Lane) :
    (s.modLane l f).lane k = if k = l then f (s.lane l) else s.lane k := lane_setLane _ _ _ _
@[simp] theorem core_setCore (s : State) (c k : Nat) (x : Core) : (s.setCore c x).core k = if k = c then x else s.core k := by
  simp [State.core, State.setCore]
@[simp] theorem core_modCore (s : State) (c k : Nat) (f : Core → Core) :
    (s.modCore c f).core k = if k = c then f (s.core c) else s.core k := core_setCore _ _ _ _
@[simp] theorem die_setDie (s : State) (d k : Nat) (x : Die) : (s.setDie d x).die k = if k = d then x else s.die k := by
  simp [State.die, State.setDie]
@[simp] theorem die_modDie (s : State) (d k : Nat) (f : Die → Die) :
    (s.modDie d f).die k = if k = d then f (s.die d) else s.die k := die_setDie _ _ _ _

@[simp] theorem lane_setCore (s : State) (c : Nat) (x : Core) (k : Nat) : (s.setCore c x).lane k = s.lane k := rfl
@[simp] theorem lane_modCore (s : State) (c : Nat) (f : Core → Core) (k : Nat) : (s.modCore c f).lane k = s.lane k := rfl
@[simp] theorem lane_setDie (s : State) (d : Nat) (x : Die) (k : Nat) : (s.setDie d x).lane k = s.lane k := rfl
@[simp] theorem lane_modDie (s : State) (d : Nat) (f : Die → Die) (k : Nat) : (s.modDie d f).lane k = s.lane k := rfl
@[simp] theorem lane_post (s : State) (t : Nat) (i : Instr) (k : Nat) : (s.post t i).lane k = s.lane k := rfl
@[simp] theorem lane_soon (s : State) (i : Instr) (k : Nat) : (s.soon i).lane k = s.lane k := rfl
@[simp] theorem core_setLane (s : State) (l : Nat) (x : Lane) (k : Nat) : (s.setLane l x).core k = s.core k := rfl
@[simp] theorem core_modLane (s : State) (l : Nat) (f : Lane → Lane) (k : Nat) : (s.modLane l f).core k = s.core k := rfl
@[simp] theorem core_setDie (s : State) (d : Nat) (x : Die) (k : Nat) : (s.setDie d x).core k = s.core k := rfl
@[simp] theorem core_modDie (s : State) (d : Nat) (f : Die → Die) (k : Nat) : (s.modDie d f).core k = s.core k := rfl
@[simp] theorem core_post (s : State) (t : Nat) (i : Instr) (k : Nat) : (s.post t i).core k = s.core k := rfl
@[simp] theorem core_soon (s : State) (i : Instr) (k : Nat) : (s.soon i).core k = s.core k := rfl
@[simp] theorem core_orFlags (s : State) (l nf tf : Nat) (k : Nat) : (s.orFlags l nf tf).core k = s.core k := rfl
@[simp] theorem die_setLane (s : State) (l : Nat) (x : Lane) (k : Nat) : (s.setLane l x).die k = s.die k := rfl
@[simp] theorem die_modLane (s : State) (l : Nat) (f : Lane → Lane) (k : Nat) : (s.modLane l f).die k = s.die k := rfl
@[simp] theorem die_setCore (s : State) (c : Nat) (x : Core) (k : Nat) : (s.setCore c x).die k = s.die k := rfl
@[simp] theorem die_modCore (s : State) (c : Nat) (f : Core → Core) (k : Nat) : (s.modCore c f).die k = s.die k := rfl
@[simp] theorem die_post (s : State) (t : Nat) (i : Instr) (k : Nat) : (s.post t i).die k = s.die k := rfl
@[simp] theorem die_soon (s : State) (i : Instr) (k : Nat) : (s.soon i).die k = s.die k := rfl
@[simp] theorem die_orFlags (s : State) (l nf tf : Nat) (k : Nat) : (s.orFlags l nf tf).die k = s.die k := rfl

/-! ## Units of a core -/

@[simp] theorem elem_setElem (c : Core) (u k : Nat) (x : Elem) : (c.setElem u x).elem k = if k = u then x else c.elem k := by
  simp [Core.elem, Core.setElem]
@[simp] theorem port_setPort (c : Core) (u k : Nat) (x : PortTile) : (c.setPort u x).port k = if k = u then x else c.port k := by
  simp [Core.port, Core.setPort]
@[simp] theorem gen_setGen (c : Core) (u k : Nat) (x : GenTile) : (c.setGen u x).gen k = if k = u then x else c.gen k := by
  simp [Core.gen, Core.setGen]
@[simp] theorem slot_setSlot (c : Core) (u k : Nat) (x : OpSlot) : (c.setSlot u x).slot k = if k = u then x else c.slot k := by
  simp [Core.slot, Core.setSlot]
@[simp] theorem tile_setTile (c : Core) (u k : Nat) (x : Tile) : (c.setTile u x).tile k = if k = u then x else c.tile k := by
  simp [Core.tile, Core.setTile]
@[simp] theorem bar_setBar (c : Core) (u k : Nat) (x : Bar) : (c.setBar u x).bar k = if k = u then x else c.bar k := by
  simp [Core.bar, Core.setBar]
@[simp] theorem elem_setPort (c : Core) (u k : Nat) (x : PortTile) : (c.setPort u x).elem k = c.elem k := rfl
@[simp] theorem elem_setGen (c : Core) (u k : Nat) (x : GenTile) : (c.setGen u x).elem k = c.elem k := rfl
@[simp] theorem elem_setSlot (c : Core) (u k : Nat) (x : OpSlot) : (c.setSlot u x).elem k = c.elem k := rfl
@[simp] theorem elem_setTile (c : Core) (u k : Nat) (x : Tile) : (c.setTile u x).elem k = c.elem k := rfl
@[simp] theorem elem_setBar (c : Core) (u k : Nat) (x : Bar) : (c.setBar u x).elem k = c.elem k := rfl
@[simp] theorem port_setElem (c : Core) (u k : Nat) (x : Elem) : (c.setElem u x).port k = c.port k := rfl
@[simp] theorem port_setGen (c : Core) (u k : Nat) (x : GenTile) : (c.setGen u x).port k = c.port k := rfl
@[simp] theorem port_setSlot (c : Core) (u k : Nat) (x : OpSlot) : (c.setSlot u x).port k = c.port k := rfl
@[simp] theorem port_setTile (c : Core) (u k : Nat) (x : Tile) : (c.setTile u x).port k = c.port k := rfl
@[simp] theorem port_setBar (c : Core) (u k : Nat) (x : Bar) : (c.setBar u x).port k = c.port k := rfl
@[simp] theorem gen_setElem (c : Core) (u k : Nat) (x : Elem) : (c.setElem u x).gen k = c.gen k := rfl
@[simp] theorem gen_setPort (c : Core) (u k : Nat) (x : PortTile) : (c.setPort u x).gen k = c.gen k := rfl
@[simp] theorem gen_setSlot (c : Core) (u k : Nat) (x : OpSlot) : (c.setSlot u x).gen k = c.gen k := rfl
@[simp] theorem gen_setTile (c : Core) (u k : Nat) (x : Tile) : (c.setTile u x).gen k = c.gen k := rfl
@[simp] theorem gen_setBar (c : Core) (u k : Nat) (x : Bar) : (c.setBar u x).gen k = c.gen k := rfl
@[simp] theorem slot_setElem (c : Core) (u k : Nat) (x : Elem) : (c.setElem u x).slot k = c.slot k := rfl
@[simp] theorem slot_setPort (c : Core) (u k : Nat) (x : PortTile) : (c.setPort u x).slot k = c.slot k := rfl
@[simp] theorem slot_setGen (c : Core) (u k : Nat) (x : GenTile) : (c.setGen u x).slot k = c.slot k := rfl
@[simp] theorem slot_setTile (c : Core) (u k : Nat) (x : Tile) : (c.setTile u x).slot k = c.slot k := rfl
@[simp] theorem slot_setBar (c : Core) (u k : Nat) (x : Bar) : (c.setBar u x).slot k = c.slot k := rfl
@[simp] theorem tile_setElem (c : Core) (u k : Nat) (x : Elem) : (c.setElem u x).tile k = c.tile k := rfl
@[simp] theorem tile_setPort (c : Core) (u k : Nat) (x : PortTile) : (c.setPort u x).tile k = c.tile k := rfl
@[simp] theorem tile_setGen (c : Core) (u k : Nat) (x : GenTile) : (c.setGen u x).tile k = c.tile k := rfl
@[simp] theorem tile_setSlot (c : Core) (u k : Nat) (x : OpSlot) : (c.setSlot u x).tile k = c.tile k := rfl
@[simp] theorem tile_setBar (c : Core) (u k : Nat) (x : Bar) : (c.setBar u x).tile k = c.tile k := rfl
@[simp] theorem bar_setElem (c : Core) (u k : Nat) (x : Elem) : (c.setElem u x).bar k = c.bar k := rfl
@[simp] theorem bar_setPort (c : Core) (u k : Nat) (x : PortTile) : (c.setPort u x).bar k = c.bar k := rfl
@[simp] theorem bar_setGen (c : Core) (u k : Nat) (x : GenTile) : (c.setGen u x).bar k = c.bar k := rfl
@[simp] theorem bar_setSlot (c : Core) (u k : Nat) (x : OpSlot) : (c.setSlot u x).bar k = c.bar k := rfl
@[simp] theorem bar_setTile (c : Core) (u k : Nat) (x : Tile) : (c.setTile u x).bar k = c.bar k := rfl

/-! ## q registers -/

@[simp] theorem getQ_setQ (l : Lane) (r k : Nat) (v : W64) : (l.setQ r v).getQ k = if k = r then v else l.getQ k := by
  simp [Lane.getQ, Lane.setQ]
@[simp] theorem bank_setBank (l : Lane) (b k : Nat) (x : Bank) : (l.setBank b x).bank k = if k = b then x else l.bank k := by
  simp [Lane.bank, Lane.setBank]

/-! ## Sending a result -/

/-- All that sending a result does to the lanes. -/
theorem lane_send (s : State) (lat nf tf : Nat) (x : Land) (hold : Bool) (k : Nat) :
    (send s lat nf tf x hold).lane k =
      if k = s.cur.lane then
        { s.lane s.cur.lane with flights := (s.lane s.cur.lane).flights ++
            [{ id := s.nextId, due := (s.lane s.cur.lane).pos + lat, land := x, nflags := nf, tflags := tf, entry := s.cur.idx,
               unit := s.cur.unit, hold }] }
      else s.lane k := lane_setLane _ _ _ _

@[simp] theorem send_now (s : State) (lat nf tf : Nat) (x : Land) (hold : Bool) : (send s lat nf tf x hold).now = s.now := rfl
@[simp] theorem send_phase (s : State) (lat nf tf : Nat) (x : Land) (hold : Bool) : (send s lat nf tf x hold).phase = s.phase := rfl
@[simp] theorem send_agenda (s : State) (lat nf tf : Nat) (x : Land) (hold : Bool) : (send s lat nf tf x hold).agenda = s.agenda := rfl
@[simp] theorem send_cur (s : State) (lat nf tf : Nat) (x : Land) (hold : Bool) : (send s lat nf tf x hold).cur = s.cur := rfl
@[simp] theorem send_evq (s : State) (lat nf tf : Nat) (x : Land) (hold : Bool) : (send s lat nf tf x hold).evq = s.evq := rfl
@[simp] theorem send_inputs (s : State) (lat nf tf : Nat) (x : Land) (hold : Bool) : (send s lat nf tf x hold).inputs = s.inputs := rfl
@[simp] theorem send_freeCtr (s : State) (lat nf tf : Nat) (x : Land) (hold : Bool) : (send s lat nf tf x hold).freeCtr = s.freeCtr := rfl
@[simp] theorem send_powered (s : State) (lat nf tf : Nat) (x : Land) (hold : Bool) : (send s lat nf tf x hold).powered = s.powered := rfl
@[simp] theorem send_rails (s : State) (lat nf tf : Nat) (x : Land) (hold : Bool) : (send s lat nf tf x hold).rails = s.rails := rfl
@[simp] theorem send_selfRefresh (s : State) (lat nf tf : Nat) (x : Land) (hold : Bool) : (send s lat nf tf x hold).selfRefresh = s.selfRefresh := rfl
@[simp] theorem send_mem (s : State) (lat nf tf : Nat) (x : Land) (hold : Bool) : (send s lat nf tf x hold).mem = s.mem := rfl
@[simp] theorem send_tags (s : State) (lat nf tf : Nat) (x : Land) (hold : Bool) : (send s lat nf tf x hold).tags = s.tags := rfl
@[simp] theorem send_lineKeys (s : State) (lat nf tf : Nat) (x : Land) (hold : Bool) : (send s lat nf tf x hold).lineKeys = s.lineKeys := rfl
@[simp] theorem send_dramSlots (s : State) (lat nf tf : Nat) (x : Land) (hold : Bool) : (send s lat nf tf x hold).dramSlots = s.dramSlots := rfl
@[simp] theorem send_crown (s : State) (lat nf tf : Nat) (x : Land) (hold : Bool) : (send s lat nf tf x hold).crown = s.crown := rfl
@[simp] theorem send_ptime (s : State) (lat nf tf : Nat) (x : Land) (hold : Bool) : (send s lat nf tf x hold).ptime = s.ptime := rfl
@[simp] theorem send_dies (s : State) (lat nf tf : Nat) (x : Land) (hold : Bool) : (send s lat nf tf x hold).dies = s.dies := rfl
@[simp] theorem send_cores (s : State) (lat nf tf : Nat) (x : Land) (hold : Bool) : (send s lat nf tf x hold).cores = s.cores := rfl
@[simp] theorem send_conts (s : State) (lat nf tf : Nat) (x : Land) (hold : Bool) : (send s lat nf tf x hold).conts = s.conts := rfl
@[simp] theorem send_resident (s : State) (lat nf tf : Nat) (x : Land) (hold : Bool) : (send s lat nf tf x hold).resident = s.resident := rfl
@[simp] theorem send_works (s : State) (lat nf tf : Nat) (x : Land) (hold : Bool) : (send s lat nf tf x hold).works = s.works := rfl
@[simp] theorem send_tset (s : State) (lat nf tf : Nat) (x : Land) (hold : Bool) : (send s lat nf tf x hold).tset = s.tset := rfl
@[simp] theorem send_keyGens (s : State) (lat nf tf : Nat) (x : Land) (hold : Bool) : (send s lat nf tf x hold).keyGens = s.keyGens := rfl
@[simp] theorem send_spaces (s : State) (lat nf tf : Nat) (x : Land) (hold : Bool) : (send s lat nf tf x hold).spaces = s.spaces := rfl
@[simp] theorem send_bufs (s : State) (lat nf tf : Nat) (x : Land) (hold : Bool) : (send s lat nf tf x hold).bufs = s.bufs := rfl
@[simp] theorem send_trees (s : State) (lat nf tf : Nat) (x : Land) (hold : Bool) : (send s lat nf tf x hold).trees = s.trees := rfl
@[simp] theorem send_elastics (s : State) (lat nf tf : Nat) (x : Land) (hold : Bool) : (send s lat nf tf x hold).elastics = s.elastics := rfl
@[simp] theorem send_queues (s : State) (lat nf tf : Nat) (x : Land) (hold : Bool) : (send s lat nf tf x hold).queues = s.queues := rfl
@[simp] theorem send_modeReqs (s : State) (lat nf tf : Nat) (x : Land) (hold : Bool) : (send s lat nf tf x hold).modeReqs = s.modeReqs := rfl
@[simp] theorem send_stream (s : State) (lat nf tf : Nat) (x : Land) (hold : Bool) : (send s lat nf tf x hold).stream = s.stream := rfl
@[simp] theorem send_ioLast (s : State) (lat nf tf : Nat) (x : Land) (hold : Bool) : (send s lat nf tf x hold).ioLast = s.ioLast := rfl
@[simp] theorem send_pends (s : State) (lat nf tf : Nat) (x : Land) (hold : Bool) : (send s lat nf tf x hold).pends = s.pends := rfl
@[simp] theorem send_lnchBuf (s : State) (lat nf tf : Nat) (x : Land) (hold : Bool) : (send s lat nf tf x hold).lnchBuf = s.lnchBuf := rfl
@[simp] theorem send_mail (s : State) (lat nf tf : Nat) (x : Land) (hold : Bool) : (send s lat nf tf x hold).mail = s.mail := rfl
@[simp] theorem send_faults (s : State) (lat nf tf : Nat) (x : Land) (hold : Bool) : (send s lat nf tf x hold).faults = s.faults := rfl
@[simp] theorem send_flips (s : State) (lat nf tf : Nat) (x : Land) (hold : Bool) : (send s lat nf tf x hold).flips = s.flips := rfl
@[simp] theorem send_groups (s : State) (lat nf tf : Nat) (x : Land) (hold : Bool) : (send s lat nf tf x hold).groups = s.groups := rfl
@[simp] theorem send_rounds (s : State) (lat nf tf : Nat) (x : Land) (hold : Bool) : (send s lat nf tf x hold).rounds = s.rounds := rfl
@[simp] theorem send_flits (s : State) (lat nf tf : Nat) (x : Land) (hold : Bool) : (send s lat nf tf x hold).flits = s.flits := rfl
@[simp] theorem send_lateData (s : State) (lat nf tf : Nat) (x : Land) (hold : Bool) : (send s lat nf tf x hold).lateData = s.lateData := rfl
@[simp] theorem send_applied (s : State) (lat nf tf : Nat) (x : Land) (hold : Bool) : (send s lat nf tf x hold).applied = s.applied := rfl
@[simp] theorem send_tagNext (s : State) (lat nf tf : Nat) (x : Land) (hold : Bool) : (send s lat nf tf x hold).tagNext = s.tagNext := rfl
@[simp] theorem send_fq (s : State) (lat nf tf : Nat) (x : Land) (hold : Bool) : (send s lat nf tf x hold).fq = s.fq := rfl
@[simp] theorem send_nq (s : State) (lat nf tf : Nat) (x : Land) (hold : Bool) : (send s lat nf tf x hold).nq = s.nq := rfl
@[simp] theorem send_rq (s : State) (lat nf tf : Nat) (x : Land) (hold : Bool) : (send s lat nf tf x hold).rq = s.rq := rfl
@[simp] theorem send_generation (s : State) (lat nf tf : Nat) (x : Land) (hold : Bool) : (send s lat nf tf x hold).generation = s.generation := rfl
@[simp] theorem send_heldStores (s : State) (lat nf tf : Nat) (x : Land) (hold : Bool) : (send s lat nf tf x hold).heldStores = s.heldStores := rfl
@[simp] theorem send_dmas (s : State) (lat nf tf : Nat) (x : Land) (hold : Bool) : (send s lat nf tf x hold).dmas = s.dmas := rfl
@[simp] theorem send_memOff (s : State) (lat nf tf : Nat) (x : Land) (hold : Bool) : (send s lat nf tf x hold).memOff = s.memOff := rfl
@[simp] theorem send_answers (s : State) (lat nf tf : Nat) (x : Land) (hold : Bool) : (send s lat nf tf x hold).answers = s.answers := rfl
@[simp] theorem send_sleeping (s : State) (lat nf tf : Nat) (x : Land) (hold : Bool) : (send s lat nf tf x hold).sleeping = s.sleeping := rfl
@[simp] theorem send_trains (s : State) (lat nf tf : Nat) (x : Land) (hold : Bool) : (send s lat nf tf x hold).trains = s.trains := rfl
@[simp] theorem send_linkLast (s : State) (lat nf tf : Nat) (x : Land) (hold : Bool) : (send s lat nf tf x hold).linkLast = s.linkLast := rfl
@[simp] theorem send_drams (s : State) (lat nf tf : Nat) (x : Land) (hold : Bool) : (send s lat nf tf x hold).drams = s.drams := rfl
@[simp] theorem send_fns (s : State) (lat nf tf : Nat) (x : Land) (hold : Bool) : (send s lat nf tf x hold).fns = s.fns := rfl
@[simp] theorem core_send (s : State) (lat nf tf : Nat) (x : Land) (hold : Bool) (k : Nat) :
    (send s lat nf tf x hold).core k = s.core k := rfl

end Sys2Proof.Machine
end

