-- ==== Sys2Proof/Laws/Ops.lean ====
section
/-! SUPPORT. What the shared operations can do, said once: posting an event or a record, raising a fault, and writing
memory. -/

namespace Sys2Proof.Machine

/-! ## Posting -/

theorem mem_insertEv (t : Nat) (i : Instr) (q : List (Nat × Instr)) (x : Nat × Instr) :
    x ∈ insertEv t i q ↔ x = (t, i) ∨ x ∈ q := by
  induction q with
  | nil => simp [insertEv]
  | cons y r ih =>
    obtain ⟨u, j⟩ := y
    unfold insertEv
    split
    · simp
    · simp only [List.mem_cons, ih]
      exact or_left_comm

theorem mem_insertRec (r : Rec) (l : List Rec) (x : Rec) : x ∈ insertRec r l ↔ x = r ∨ x ∈ l := by
  induction l with
  | nil => simp [insertRec]
  | cons y l ih =>
    unfold insertRec
    split
    · simp
    · simp only [List.mem_cons, ih]
      exact or_left_comm

theorem length_insertRec (r : Rec) (l : List Rec) : (insertRec r l).length = l.length + 1 := by
  induction l with
  | nil => rfl
  | cons y l ih =>
    unfold insertRec
    split <;> simp [ih]

theorem mem_post (s : State) (t : Nat) (i : Instr) (x : Nat × Instr) : x ∈ (s.post t i).evq ↔ x = (t, i) ∨ x ∈ s.evq :=
  mem_insertEv t i s.evq x

/-! ## Raising a fault -/

/-- All the fields that raising a fault writes. -/
theorem raiseAt_only (s : State) (lane unit entry : Nat) (c : Code) (info : Nat) (how : How) :
    ∃ fs ls n q, raiseAt s lane unit entry c info how = { s with faults := fs, lanes := ls, nextId := n, evq := q } := by
  simp only [raiseAt]
  split
  · exact ⟨_, _, _, _, rfl⟩
  · cases how <;> exact ⟨_, _, _, _, rfl⟩

/-- Of the lanes, a fault touches its own alone: the region is held, or the step's context stops. -/
theorem lane_raiseAt (s : State) (lane unit entry : Nat) (c : Code) (info : Nat) (how : How) (k : Nat) (h : k ≠ lane) :
    (raiseAt s lane unit entry c info how).lane k = s.lane k := by
  simp only [raiseAt]
  split
  · rfl
  · cases how
    case async => rfl
    all_goals simp [State.post, State.lane, State.modLane, State.setLane, h]

@[simp] theorem core_raiseAt (s : State) (lane unit entry : Nat) (c : Code) (info : Nat) (how : How) (k : Nat) :
    (raiseAt s lane unit entry c info how).core k = s.core k := by
  obtain ⟨_, _, _, _, h⟩ := raiseAt_only s lane unit entry c info how
  rw [h]; rfl

@[simp] theorem mem_raiseAt (s : State) (lane unit entry : Nat) (c : Code) (info : Nat) (how : How) :
    (raiseAt s lane unit entry c info how).mem = s.mem := by
  obtain ⟨_, _, _, _, h⟩ := raiseAt_only s lane unit entry c info how
  rw [h]

/-! ## Writing memory -/

theorem wf_writeLine (s : State) (key : Nat) (ful : Bool) (pa : Nat) (bs : List Byte) (h : Memory.wf s.mem = true) :
    Memory.wf (s.writeLine key ful pa bs).mem = true := by
  simp only [State.writeLine]
  apply memWf_memWrite
  split
  · exact h
  · exact memWf_memWrite _ _ _ h

theorem wf_writeLines (key : Nat) (ful : Bool) : ∀ (n : Nat) (s : State) (pa : Nat) (bs : List Byte), Memory.wf s.mem = true →
    Memory.wf (s.writeLines key ful n pa bs).mem = true
  | 0, _, _, _, h => h
  | n + 1, s, pa, bs, h => by
    unfold State.writeLines
    split
    · exact h
    · exact wf_writeLines key ful n _ _ _ (wf_writeLine s key ful pa _ h)

/-- Forgetting what late flits left touches that list alone. -/
theorem forget_only (s : State) (pa n : Nat) : ∃ l, s.forget pa n = { s with lateData := l } := by
  unfold State.forget
  split <;> exact ⟨_, rfl⟩

@[simp] theorem forget_mem (s : State) (pa n : Nat) : (s.forget pa n).mem = s.mem := by
  obtain ⟨_, h⟩ := forget_only s pa n
  rw [h]

theorem wf_putBytes (s : State) (key : Nat) (ful : Bool) (pa : Nat) (bs : List Byte) (h : Memory.wf s.mem = true) :
    Memory.wf (s.putBytes key ful pa bs).mem = true := by
  unfold State.putBytes
  split
  · split
    · exact h
    · exact wf_writeLines key ful _ _ _ _ h
  · exact memWf_memWrite _ _ _ h

/-- Every write of memory keeps its canonical form. -/
theorem wf_writeBytes (s : State) (key : Nat) (ful : Bool) (pa : Nat) (bs : List Byte) (h : Memory.wf s.mem = true) :
    Memory.wf (s.writeBytes key ful pa bs).mem = true := wf_putBytes _ key ful pa bs (by simpa using h)

theorem wf_setDirty (s : State) (key pa bit : Nat) (h : Memory.wf s.mem = true) : Memory.wf (s.setDirty key pa bit).mem = true := by
  simp only [State.setDirty]
  split
  · exact h
  · exact wf_writeBytes _ _ _ _ _ h

theorem wf_markPiece (s : State) (p : Piece) (h : Memory.wf s.mem = true) : Memory.wf (s.markPiece p).mem = true := by
  unfold State.markPiece
  split
  · exact wf_setDirty _ _ _ _ h
  · exact h

theorem wf_performPiece (s : State) (p : Piece) (h : Memory.wf s.mem = true) : Memory.wf (s.performPiece p).mem = true :=
  wf_markPiece _ p (wf_writeBytes _ _ _ _ _ h)

theorem wf_foldl (f : State → Piece → State) (hf : ∀ s p, Memory.wf s.mem = true → Memory.wf (f s p).mem = true) (ps : List Piece) :
    ∀ s : State, Memory.wf s.mem = true → Memory.wf (ps.foldl f s).mem = true := by
  induction ps with
  | nil => exact fun _ h => h
  | cons p ps ih => exact fun s h => ih _ (hf s p h)

theorem wf_performLine (s : State) (p : Piece) (ps : List Piece) (h : Memory.wf s.mem = true) :
    Memory.wf (s.performLine p ps).mem = true :=
  wf_foldl _ wf_markPiece _ _ (wf_putBytes _ _ _ _ _ (wf_foldl _ (fun _ _ h => by simpa using h) _ _ h))

/-- Pieces that perform keep the canonical form. -/
theorem wf_performSome : ∀ (n : Nat) (ps : List Piece) (s : State), Memory.wf s.mem = true → Memory.wf (s.performSome n ps).mem = true
  | 0, _, _, h => by simpa [State.performSome] using h
  | _ + 1, [], _, h => by simpa [State.performSome] using h
  | n + 1, p :: r, s, h => by
    unfold State.performSome
    refine wf_performSome n _ _ ?_
    split
    · exact wf_performPiece s p h
    · exact wf_performLine s p _ h

theorem wf_performPieces (ps : List Piece) (s : State) (h : Memory.wf s.mem = true) : Memory.wf (s.performPieces ps).mem = true :=
  wf_performSome _ ps s h

/-- Writing memory writes these fields alone. -/
theorem writeLines_only (key : Nat) (ful : Bool) : ∀ (n : Nat) (s : State) (pa : Nat) (bs : List Byte),
    ∃ m t k d, s.writeLines key ful n pa bs = { s with mem := m, tags := t, lineKeys := k, dramSlots := d }
  | 0, _, _, _ => ⟨_, _, _, _, rfl⟩
  | n + 1, s, pa, bs => by
    unfold State.writeLines
    split
    · exact ⟨_, _, _, _, rfl⟩
    · obtain ⟨m, t, k, d, h⟩ := writeLines_only key ful n (s.writeLine key ful pa (bs.take (128 - pa % 128))) (pa + (128 - pa % 128)) (bs.drop (128 - pa % 128))
      exact ⟨m, t, k, d, h⟩

end Sys2Proof.Machine
end

