-- ==== Sys2Proof/Laws/PerInstr.lean ====
section
/-! SUPPORT. The size of every instruction's word (R56, R76, R77): a step is one word of 32 bits, an element, port or
generator entry one of 64, an engine entry one of 128, and an event has none. -/

/-- The encoder writes words of the three sizes only. -/
def Sys2Proof.Laws.Sizes.Statement (i : Sys2Proof.Instr) : Prop :=
  ∀ p, Sys2Proof.encode i = some p → p.1 = 32 ∨ p.1 = 64 ∨ p.1 = 128

namespace Sys2Proof.Laws.Sizes

theorem of_size {i : Instr} {n w : Nat} (h : encode i = some (n, w)) (hn : n = 32 ∨ n = 64 ∨ n = 128) : Statement i := by
  intro p hp; rw [h] at hp; cases hp; exact hn

theorem of_none {i : Instr} (h : encode i = none) : Statement i := by
  intro p hp; rw [h] at hp; cases hp

theorem nop (h : Hdr) : Statement (.nop h) := of_size rfl (by decide)
theorem add (o : OpI2) : Statement (.add o) := of_size rfl (by decide)
theorem sub (o : OpI2) : Statement (.sub o) := of_size rfl (by decide)
theorem adds (o : OpI2) : Statement (.adds o) := of_size rfl (by decide)
theorem subs (o : OpI2) : Statement (.subs o) := of_size rfl (by decide)
theorem neg (o : OpI1) : Statement (.neg o) := of_size rfl (by decide)
theorem abs (o : OpI1) : Statement (.abs o) := of_size rfl (by decide)
theorem min (o : OpI2) : Statement (.min o) := of_size rfl (by decide)
theorem max (o : OpI2) : Statement (.max o) := of_size rfl (by decide)
theorem avg (o : OpI2) : Statement (.avg o) := of_size rfl (by decide)
theorem clamp (o : OpI3) : Statement (.clamp o) := of_size rfl (by decide)
theorem mul (o : OpI2) : Statement (.mul o) := of_size rfl (by decide)
theorem mulh (o : OpI2) : Statement (.mulh o) := of_size rfl (by decide)
theorem mad (o : OpI3) : Statement (.mad o) := of_size rfl (by decide)
theorem sad (o : OpI3) : Statement (.sad o) := of_size rfl (by decide)
theorem dot4 (o : OpI3) : Statement (.dot4 o) := of_size rfl (by decide)
theorem and (o : OpI2) : Statement (.and o) := of_size rfl (by decide)
theorem or (o : OpI2) : Statement (.or o) := of_size rfl (by decide)
theorem xor (o : OpI2) : Statement (.xor o) := of_size rfl (by decide)
theorem andn (o : OpI2) : Statement (.andn o) := of_size rfl (by decide)
theorem not (o : OpI1) : Statement (.not o) := of_size rfl (by decide)
theorem shl (o : OpI2) : Statement (.shl o) := of_size rfl (by decide)
theorem shr (o : OpI2) : Statement (.shr o) := of_size rfl (by decide)
theorem sha (o : OpI2) : Statement (.sha o) := of_size rfl (by decide)
theorem rot (o : OpI2) : Statement (.rot o) := of_size rfl (by decide)
theorem clz (o : OpI1) : Statement (.clz o) := of_size rfl (by decide)
theorem pop (o : OpI1) : Statement (.pop o) := of_size rfl (by decide)
theorem brev (o : OpI1) : Statement (.brev o) := of_size rfl (by decide)
theorem bfx (o : OpI3) : Statement (.bfx o) := of_size rfl (by decide)
theorem bfi (o : OpI3) : Statement (.bfi o) := of_size rfl (by decide)
theorem cmp (o : OpCmp) : Statement (.cmp o) := of_size rfl (by decide)
theorem test (o : OpTest) : Statement (.test o) := of_size rfl (by decide)
theorem sel (o : OpI2) : Statement (.sel o) := of_size rfl (by decide)
theorem mov (o : OpMov) : Statement (.mov o) := of_size rfl (by decide)
theorem movk (o : OpMovk) : Statement (.movk o) := of_size rfl (by decide)
theorem li (o : OpLi) : Statement (.li o) := of_size rfl (by decide)
theorem tri5 (o : OpTri) : Statement (.tri5 o) := of_size rfl (by decide)
theorem pack (o : OpPack) : Statement (.pack o) := of_size rfl (by decide)
theorem unpk (o : OpUnpk) : Statement (.unpk o) := of_size rfl (by decide)
theorem idx (o : OpD) : Statement (.idx o) := of_size rfl (by decide)
theorem fadd (o : OpF2) : Statement (.fadd o) := of_size rfl (by decide)
theorem fsub (o : OpF2) : Statement (.fsub o) := of_size rfl (by decide)
theorem fmul (o : OpF2) : Statement (.fmul o) := of_size rfl (by decide)
theorem fma (o : OpF3) : Statement (.fma o) := of_size rfl (by decide)
theorem fms (o : OpF3) : Statement (.fms o) := of_size rfl (by decide)
theorem fnma (o : OpF3) : Statement (.fnma o) := of_size rfl (by decide)
theorem fmin (o : OpG2) : Statement (.fmin o) := of_size rfl (by decide)
theorem fmax (o : OpG2) : Statement (.fmax o) := of_size rfl (by decide)
theorem fabs (o : OpG1) : Statement (.fabs o) := of_size rfl (by decide)
theorem fneg (o : OpG1) : Statement (.fneg o) := of_size rfl (by decide)
theorem fcmp (o : OpFcmp) : Statement (.fcmp o) := of_size rfl (by decide)
theorem fclass (o : OpFclass) : Statement (.fclass o) := of_size rfl (by decide)
theorem frnd (o : OpF1) : Statement (.frnd o) := of_size rfl (by decide)
theorem fscl (o : OpF2) : Statement (.fscl o) := of_size rfl (by decide)
theorem fdot2 (o : OpF3) : Statement (.fdot2 o) := of_size rfl (by decide)
theorem lsumf (o : OpF1) : Statement (.lsumf o) := of_size rfl (by decide)
theorem cvt (o : OpCvt) : Statement (.cvt o) := of_size rfl (by decide)
theorem cvtsr (o : OpCvtsr) : Statement (.cvtsr o) := of_size rfl (by decide)
theorem quant (o : OpQuant) : Statement (.quant o) := of_size rfl (by decide)
theorem dequ (o : OpQuant) : Statement (.dequ o) := of_size rfl (by decide)
theorem scl (o : OpF2) : Statement (.scl o) := of_size rfl (by decide)
theorem uscl (o : OpF2) : Statement (.uscl o) := of_size rfl (by decide)
theorem amax (o : OpG1) : Statement (.amax o) := of_size rfl (by decide)
theorem mxsc (o : OpMxsc) : Statement (.mxsc o) := of_size rfl (by decide)
theorem rnd (o : OpRnd) : Statement (.rnd o) := of_size rfl (by decide)
theorem rndn (o : OpRndn) : Statement (.rndn o) := of_size rfl (by decide)
theorem fnExp2 (o : OpF1) : Statement (.fnExp2 o) := of_size rfl (by decide)
theorem fnLog2 (o : OpF1) : Statement (.fnLog2 o) := of_size rfl (by decide)
theorem fnRcp (o : OpF1) : Statement (.fnRcp o) := of_size rfl (by decide)
theorem fnRsq (o : OpF1) : Statement (.fnRsq o) := of_size rfl (by decide)
theorem fnSin (o : OpF1) : Statement (.fnSin o) := of_size rfl (by decide)
theorem fnTanh (o : OpF1) : Statement (.fnTanh o) := of_size rfl (by decide)
theorem fnSig (o : OpF1) : Statement (.fnSig o) := of_size rfl (by decide)
theorem fnGelu (o : OpF1) : Statement (.fnGelu o) := of_size rfl (by decide)
theorem pand (o : OpP2) : Statement (.pand o) := of_size rfl (by decide)
theorem por (o : OpP2) : Statement (.por o) := of_size rfl (by decide)
theorem pxor (o : OpP2) : Statement (.pxor o) := of_size rfl (by decide)
theorem pnot (o : OpP1) : Statement (.pnot o) := of_size rfl (by decide)
theorem pmov (o : OpP1) : Statement (.pmov o) := of_size rfl (by decide)
theorem bcast (o : OpNum) : Statement (.bcast o) := of_size rfl (by decide)
theorem shuf (o : OpShuf) : Statement (.shuf o) := of_size rfl (by decide)
theorem lrot (o : OpNum) : Statement (.lrot o) := of_size rfl (by decide)
theorem lsum (o : OpI1) : Statement (.lsum o) := of_size rfl (by decide)
theorem lmax (o : OpI1) : Statement (.lmax o) := of_size rfl (by decide)
theorem drnCut (o : OpCut) : Statement (.drnCut o) := of_size rfl (by decide)
theorem drnLin (o : OpLin) : Statement (.drnLin o) := of_size rfl (by decide)
theorem dseed (o : OpNum) : Statement (.dseed o) := of_size rfl (by decide)
theorem dget (o : OpNum) : Statement (.dget o) := of_size rfl (by decide)
theorem dput (o : OpNum) : Statement (.dput o) := of_size rfl (by decide)
theorem dzero (o : OpD) : Statement (.dzero o) := of_size rfl (by decide)
theorem tokw (o : OpN) : Statement (.tokw o) := of_size rfl (by decide)
theorem toke (o : OpN) : Statement (.toke o) := of_size rfl (by decide)
theorem barArrive (o : OpN) : Statement (.barArrive o) := of_size rfl (by decide)
theorem barWait (o : OpN) : Statement (.barWait o) := of_size rfl (by decide)
theorem barAw (o : OpN) : Statement (.barAw o) := of_size rfl (by decide)
theorem fence (o : OpFence) : Statement (.fence o) := of_size rfl (by decide)
theorem fenceSc (o : OpFence) : Statement (.fenceSc o) := of_size rfl (by decide)
theorem brk (o : OpN) : Statement (.brk o) := of_size rfl (by decide)
theorem ld (o : OpPort) : Statement (.ld o) := of_size rfl (by decide)
theorem st (o : OpPort) : Statement (.st o) := of_size rfl (by decide)
theorem ldg (o : OpPort) : Statement (.ldg o) := of_size rfl (by decide)
theorem stg (o : OpPort) : Statement (.stg o) := of_size rfl (by decide)
theorem aadd (o : OpPort) : Statement (.aadd o) := of_size rfl (by decide)
theorem amin (o : OpPort) : Statement (.amin o) := of_size rfl (by decide)
theorem atomicMax (o : OpPort) : Statement (.atomicMax o) := of_size rfl (by decide)
theorem aand (o : OpPort) : Statement (.aand o) := of_size rfl (by decide)
theorem aor (o : OpPort) : Statement (.aor o) := of_size rfl (by decide)
theorem axor (o : OpPort) : Statement (.axor o) := of_size rfl (by decide)
theorem axch (o : OpPort) : Statement (.axch o) := of_size rfl (by decide)
theorem acas (o : OpPort) : Statement (.acas o) := of_size rfl (by decide)
theorem radd (o : OpPort) : Statement (.radd o) := of_size rfl (by decide)
theorem rmin (o : OpPort) : Statement (.rmin o) := of_size rfl (by decide)
theorem rmax (o : OpPort) : Statement (.rmax o) := of_size rfl (by decide)
theorem cnt (o : OpGen) : Statement (.cnt o) := of_size rfl (by decide)
theorem step (o : OpGen) : Statement (.step o) := of_size rfl (by decide)
theorem tokgo (o : OpN) : Statement (.tokgo o) := of_size rfl (by decide)
theorem tokend (o : OpN) : Statement (.tokend o) := of_size rfl (by decide)
theorem mmz (h : EHdr) (acc : Acc) : Statement (.mmz h acc) := of_size rfl (by decide)
theorem mm (o : OpRow) : Statement (.mm o) := of_size rfl (by decide)
theorem mms (o : OpRow) : Statement (.mms o) := of_size rfl (by decide)
theorem radv (h : EHdr) : Statement (.radv h) := of_size rfl (by decide)
theorem epc (h : EHdr) (c : EpCfg) : Statement (.epc h c) := of_size rfl (by decide)
theorem epi (h : EHdr) (row : Nat) (col : Nat) (pop : Bool) : Statement (.epi h row col pop) := of_size rfl (by decide)
theorem epw (h : EHdr) (bsel : Nat) (pop : Bool) (pair : Bool) (oq : Nat) (pitch : Nat) : Statement (.epw h bsel pop pair oq pitch) := of_size rfl (by decide)
theorem epd (h : EHdr) : Statement (.epd h) := of_size rfl (by decide)
theorem epb (h : EHdr) (slot : Nat) (bias : Bool) : Statement (.epb h slot bias) := of_size rfl (by decide)
theorem copy (o : OpCopy) : Statement (.copy o) := of_size rfl (by decide)
theorem copyc (o : OpCopy) : Statement (.copyc o) := of_size rfl (by decide)
theorem fill (o : OpCopy) (vq : Nat) : Statement (.fill o vq) := of_size rfl (by decide)
theorem prefetch (o : OpCopy) : Statement (.prefetch o) := of_size rfl (by decide)
theorem wld (o : OpCopy) : Statement (.wld o) := of_size rfl (by decide)
theorem drain (h : EHdr) (mem : Nat) : Statement (.drain h mem) := of_size rfl (by decide)
theorem fldt (h : EHdr) (ctx : Nat) (bsel : Nat) (oq : Nat) (cell : Nat) (count : Nat) : Statement (.fldt h ctx bsel oq cell count) := of_size rfl (by decide)
theorem fctx (h : EHdr) (ctx : Nat) : Statement (.fctx h ctx) := of_size rfl (by decide)
theorem feval (h : EHdr) (cell : Nat) (count : Nat) : Statement (.feval h cell count) := of_size rfl (by decide)
theorem fxin (o : OpFx) : Statement (.fxin o) := of_size rfl (by decide)
theorem fxout (o : OpFx) : Statement (.fxout o) := of_size rfl (by decide)
theorem fpop (h : EHdr) (bsel : Nat) (oq : Nat) (wire : Nat) (gsize : Nat) (groups : Nat) (pitch : Nat) : Statement (.fpop h bsel oq wire gsize groups pitch) := of_size rfl (by decide)
theorem fpopLat (h : EHdr) (wire : Nat) (gsize : Nat) (groups : Nat) (sample : Nat) : Statement (.fpopLat h wire gsize groups sample) := of_size rfl (by decide)
theorem fclr (h : EHdr) (wire : Nat) (count : Nat) : Statement (.fclr h wire count) := of_size rfl (by decide)
theorem fclrCtx (h : EHdr) (ctx : Nat) : Statement (.fclrCtx h ctx) := of_size rfl (by decide)
theorem stepNop : Statement (.stepNop) := of_size rfl (by decide)
theorem cfg (rs : Nat) (bank : Nat) (img : Nat) : Statement (.cfg rs bank img) := of_size rfl (by decide)
theorem cfgx (rs : Nat) (bank : Nat) (img : Nat) (rect : Nat) : Statement (.cfgx rs bank img rect) := of_size rfl (by decide)
theorem swap (rs : Nat) : Statement (.swap rs) := of_size rfl (by decide)
theorem run (rs : Nat) (qt : Nat) : Statement (.run rs qt) := of_size rfl (by decide)
theorem waitRegion (n : Nat) : Statement (.waitRegion n) := of_size rfl (by decide)
theorem waitFrame (g : Nat) : Statement (.waitFrame g) := of_size rfl (by decide)
theorem waitBarrier (b : Nat) : Statement (.waitBarrier b) := of_size rfl (by decide)
theorem brs (qa : Nat) (c : BCond) (tgt : Nat) (len : Nat) : Statement (.brs qa c tgt len) := of_size rfl (by decide)
theorem loop (qc : Nat) (last : Nat) : Statement (.loop qc last) := of_size rfl (by decide)
theorem setq (qd : Nat) (imm : Int) : Statement (.setq qd imm) := of_size rfl (by decide)
theorem addq (qd : Nat) (qa : Nat) (qb : Nat) : Statement (.addq qd qa qb) := of_size rfl (by decide)
theorem addqImm (qd : Nat) (qa : Nat) (imm : Int) : Statement (.addqImm qd qa imm) := of_size rfl (by decide)
theorem cmpq (c : QCond) (qd : Nat) (qa : Nat) (qb : Nat) : Statement (.cmpq c qd qa qb) := of_size rfl (by decide)
theorem ldq (qd : Nat) (qa : Nat) (off : Int) : Statement (.ldq qd qa off) := of_size rfl (by decide)
theorem stq (qs : Nat) (qa : Nat) (off : Int) : Statement (.stq qs qa off) := of_size rfl (by decide)
theorem tick (qd : Nat) : Statement (.tick qd) := of_size rfl (by decide)
theorem mode (m : Nat) : Statement (.mode m) := of_size rfl (by decide)
theorem spawn (qa : Nat) : Statement (.spawn qa) := of_size rfl (by decide)
theorem yield : Statement (.yield) := of_size rfl (by decide)
theorem retire : Statement (.retire) := of_size rfl (by decide)
theorem trap (code : Nat) : Statement (.trap code) := of_size rfl (by decide)
theorem freeze (rs : Nat) : Statement (.freeze rs) := of_size rfl (by decide)
theorem thaw (rs : Nat) : Statement (.thaw rs) := of_size rfl (by decide)
theorem sysr (qd : Nat) (sreg : Nat) : Statement (.sysr qd sreg) := of_size rfl (by decide)
theorem sysw (qa : Nat) (sreg : Nat) : Statement (.sysw qa sreg) := of_size rfl (by decide)
theorem claim (slot : Nat) (count : Nat) : Statement (.claim slot count) := of_size rfl (by decide)
theorem free (slot : Nat) (count : Nat) : Statement (.free slot count) := of_size rfl (by decide)
theorem pub (buf : Nat) : Statement (.pub buf) := of_size rfl (by decide)
theorem barInit (b : Nat) (count : Nat) : Statement (.barInit b count) := of_size rfl (by decide)
theorem stepBarArrive (b : Nat) : Statement (.stepBarArrive b) := of_size rfl (by decide)
theorem stepBarWait (b : Nat) : Statement (.stepBarWait b) := of_size rfl (by decide)
theorem frame (g : Nat) : Statement (.frame g) := of_size rfl (by decide)
theorem stepFence (sc : Scope) : Statement (.stepFence sc) := of_size rfl (by decide)
theorem stepFenceSc (sc : Scope) : Statement (.stepFenceSc sc) := of_size rfl (by decide)
theorem stepBrk (code : Nat) : Statement (.stepBrk code) := of_size rfl (by decide)
theorem resultLand (lane : Nat) : Statement (.resultLand lane) := of_none rfl
theorem memoryReply (id : Nat) : Statement (.memoryReply id) := of_none rfl
theorem hotThreshold (core : Nat) (port : Nat) (page : Nat) : Statement (.hotThreshold core port page) := of_none rfl
theorem intervalWrap (lane : Nat) : Statement (.intervalWrap lane) := of_none rfl
theorem frameWireEvent (workid : Nat) (group : Nat) : Statement (.frameWireEvent workid group) := of_none rfl
theorem faceFlip (die : Nat) (flip : Nat) : Statement (.faceFlip die flip) := of_none rfl
theorem regionEnd (lane : Nat) : Statement (.regionEnd lane) := of_none rfl
theorem bankReady (lane : Nat) (bank : Nat) : Statement (.bankReady lane bank) := of_none rfl
theorem configPrefetch (lane : Nat) (entry : Nat) : Statement (.configPrefetch lane entry) := of_none rfl
theorem matrixStepLand (core : Nat) : Statement (.matrixStepLand core) := of_none rfl
theorem copyDone (core : Nat) : Statement (.copyDone core) := of_none rfl
theorem feltLoadDone (core : Nat) : Statement (.feltLoadDone core) := of_none rfl
theorem writePerform (core : Nat) (port : Nat) : Statement (.writePerform core port) := of_none rfl
theorem pageWalk (workid : Nat) (va : Nat) (store : Bool) : Statement (.pageWalk workid va store) := of_none rfl
theorem atomicResend (core : Nat) (port : Nat) : Statement (.atomicResend core port) := of_none rfl
theorem flitDelivery (flit : Nat) (late : Bool) : Statement (.flitDelivery flit late) := of_none rfl
theorem barrierArrivalLand (core : Nat) (arrival : Nat) : Statement (.barrierArrivalLand core arrival) := of_none rfl
theorem barrierRelease (round : Nat) : Statement (.barrierRelease round) := of_none rfl
theorem weightStoreRefresh (die : Nat) (group : Nat) : Statement (.weightStoreRefresh die group) := of_none rfl
theorem faultDecision (event : Nat) : Statement (.faultDecision event) := of_none rfl
theorem entryRetry (lane : Nat) : Statement (.entryRetry lane) := of_none rfl
theorem blockRestart (lane : Nat) : Statement (.blockRestart lane) := of_none rfl
theorem killClear (lane : Nat) : Statement (.killClear lane) := of_none rfl
theorem blockStart (lane : Nat) (entry : Nat) : Statement (.blockStart lane entry) := of_none rfl
theorem elasticRelease (lane : Nat) (entry : Nat) : Statement (.elasticRelease lane entry) := of_none rfl
theorem elasticResume (lane : Nat) : Statement (.elasticResume lane) := of_none rfl
theorem elasticStop (lane : Nat) (why : StopWhy) : Statement (.elasticStop lane why) := of_none rfl
theorem budgetExhausted (lane : Nat) : Statement (.budgetExhausted lane) := of_none rfl
theorem elasticSave (lane : Nat) : Statement (.elasticSave lane) := of_none rfl
theorem periodStart : Statement (.periodStart) := of_none rfl
theorem overrun (lane : Nat) : Statement (.overrun lane) := of_none rfl
theorem fallbackOverrun (lane : Nat) : Statement (.fallbackOverrun lane) := of_none rfl
theorem modeChange : Statement (.modeChange) := of_none rfl
theorem launchPacket (bytes : List Byte) : Statement (.launchPacket bytes) := of_none rfl
theorem admission (item : Nat) : Statement (.admission item) := of_none rfl
theorem pretranslationTimeout (item : Nat) : Statement (.pretranslationTimeout item) := of_none rfl
theorem tableSetActivation : Statement (.tableSetActivation) := of_none rfl
theorem workEnd (workid : Nat) : Statement (.workEnd workid) := of_none rfl
theorem aset (slot : Nat) (tag : Nat) (workid : Nat) (root : Nat) (wins : List Win) : Statement (.aset slot tag workid root wins) := of_none rfl
theorem pin (slot : Nat) (tag : Nat) (workid : Nat) (va : Nat) (size : Nat) (write : Bool) : Statement (.pin slot tag workid va size write) := of_none rfl
theorem unpin (slot : Nat) (tag : Nat) (workid : Nat) (va : Nat) (size : Nat) (write : Bool) : Statement (.unpin slot tag workid va size write) := of_none rfl
theorem inval (slot : Nat) (tag : Nat) (workid : Nat) (va : Nat) (size : Nat) (wake : Bool) (replay : Bool) : Statement (.inval slot tag workid va size wake replay) := of_none rfl
theorem reside (slot : Nat) (tag : Nat) (cont : Nat) (image : Nat) (wake : Bool) : Statement (.reside slot tag cont image wake) := of_none rfl
theorem evict (slot : Nat) (tag : Nat) (cont : Nat) (image : Nat) : Statement (.evict slot tag cont image) := of_none rfl
theorem modereq (slot : Nat) (tag : Nat) (mode : Nat) : Statement (.modereq slot tag mode) := of_none rfl
theorem endwork (slot : Nat) (tag : Nat) (workid : Nat) : Statement (.endwork slot tag workid) := of_none rfl
theorem resync (slot : Nat) (tag : Nat) (dest : Nat) : Statement (.resync slot tag dest) := of_none rfl
theorem ctrread (slot : Nat) (tag : Nat) (die : Nat) (core : Nat) (lslot : Nat) (mode : Nat) (entry : Nat) : Statement (.ctrread slot tag die core lslot mode entry) := of_none rfl
theorem ctrclr (slot : Nat) (tag : Nat) (die : Nat) (core : Nat) (lslot : Nat) (mode : Nat) (entry : Nat) : Statement (.ctrclr slot tag die core lslot mode entry) := of_none rfl
theorem queueStagedWrite (q : Nat) : Statement (.queueStagedWrite q) := of_none rfl
theorem queueConfigWrite (q : Nat) (size : Bool) (v : Nat) : Statement (.queueConfigWrite q size v) := of_none rfl
theorem hotThreshWrite (die : Nat) (v : W64) : Statement (.hotThreshWrite die v) := of_none rfl
theorem registerWrite (sreg : Nat) (v : W64) : Statement (.registerWrite sreg v) := of_none rfl
theorem containerVerify (addr : Nat) (size : Nat) : Statement (.containerVerify addr size) := of_none rfl
theorem thermalRead (temps : List (List Int)) : Statement (.thermalRead temps) := of_none rfl
theorem powerStateChange (die : Nat) : Statement (.powerStateChange die) := of_none rfl
theorem d2FieldRestart (die : Nat) : Statement (.d2FieldRestart die) := of_none rfl
theorem functionLevelReset (fn : Nat) : Statement (.functionLevelReset fn) := of_none rfl
theorem commandCompletion (cmd : Nat) : Statement (.commandCompletion cmd) := of_none rfl
theorem powerStateReached (die : Nat) : Statement (.powerStateReached die) := of_none rfl
theorem dmaWrite (engine : Nat) (src : Nat) (dst : Nat) (bytes : Nat) : Statement (.dmaWrite engine src dst bytes) := of_none rfl
theorem pwrgood : Statement (.pwrgood) := of_none rfl
theorem mapOut : Statement (.mapOut) := of_none rfl
theorem tamper : Statement (.tamper) := of_none rfl
theorem holdover : Statement (.holdover) := of_none rfl
theorem lifecycleFuseBlow : Statement (.lifecycleFuseBlow) := of_none rfl
theorem pwrgoodFall : Statement (.pwrgoodFall) := of_none rfl
theorem powerStateRequest (slot : Nat) (die : Nat) (p : Power) : Statement (.powerStateRequest slot die p) := of_none rfl
theorem debugToken (bytes : List Byte) : Statement (.debugToken bytes) := of_none rfl
theorem brkResume (lane : Nat) : Statement (.brkResume lane) := of_none rfl
theorem sync (m : SyncMsg) : Statement (.sync m) := of_none rfl
theorem announce (m : AnnMsg) : Statement (.announce m) := of_none rfl
theorem peerDelay (port : Nat) (delay : Nat) : Statement (.peerDelay port delay) := of_none rfl
theorem getVersion (fn : Nat) : Statement (.getVersion fn) := of_none rfl
theorem getCapabilities (fn : Nat) : Statement (.getCapabilities fn) := of_none rfl
theorem negotiateAlgorithms (fn : Nat) (algs : List Nat) : Statement (.negotiateAlgorithms fn algs) := of_none rfl
theorem getDigests (fn : Nat) : Statement (.getDigests fn) := of_none rfl
theorem getCertificate (fn : Nat) : Statement (.getCertificate fn) := of_none rfl
theorem challenge (fn : Nat) (nonce : Nat) : Statement (.challenge fn nonce) := of_none rfl
theorem getMeasurements (fn : Nat) (nonce : Nat) : Statement (.getMeasurements fn nonce) := of_none rfl
theorem keyExchange (fn : Nat) (pub : Nat) : Statement (.keyExchange fn pub) := of_none rfl
theorem finish (fn : Nat) (mac : Nat) : Statement (.finish fn mac) := of_none rfl
theorem endSession (fn : Nat) : Statement (.endSession fn) := of_none rfl
theorem vendorDefinedRequest (fn : Nat) (req : List Byte) : Statement (.vendorDefinedRequest fn req) := of_none rfl
theorem ideKm (fn : Nat) (stream : Nat) (key : Nat) : Statement (.ideKm fn stream key) := of_none rfl
theorem tdispRequest (fn : Nat) (goal : Tdi) : Statement (.tdispRequest fn goal) := of_none rfl
theorem reedCoreAccess (core : Nat) (op : ReedOp) : Statement (.reedCoreAccess core op) := of_none rfl
theorem hostAccess (fn : Nat) (op : ReedOp) : Statement (.hostAccess fn op) := of_none rfl
theorem debugRequest (die : Nat) (op : DebugOp) : Statement (.debugRequest die op) := of_none rfl
theorem recoveryImage (kind : Nat) (bytes : List Byte) : Statement (.recoveryImage kind bytes) := of_none rfl

end Sys2Proof.Laws.Sizes
end

