-- ==== Sys2Proof/Safety.lean ====
section
/-! DEFINITION. What a safe run is: one that no step stops. -/

namespace Sys2Proof

/-- A run of `k` steps from a state never stops. -/
def Safe (k : Nat) (s : Machine.State) : Prop := ∃ t, core.run k s = .next t

end Sys2Proof
end

