-- ==== Sys2Proof/Tests/Slice0.lean ====
section
/-! SUPPORT. Tests of the model: ill-formed terms that WellFormed refuses, words composed from the spec's encoding tables,
results of the spec's own worked examples, and for each statement of Obligations a state and operands that meet its
hypotheses. Every expected value is the spec's. -/

open Sys2Proof Sys2Proof.Machine Sys2Proof.Slice0

namespace Sys2Proof.Tests

/-! ## Ill-formed terms, one for each check -/

/-- A header without a guard. -/
def h0 : Hdr := ⟨0, false, 7, false⟩
/-- One under predicate p0, which no lane holds at reset. -/
def hNo : Hdr := ⟨0, false, 0, false⟩
def eh : EHdr := ⟨0, false⟩
def row0 : OpRow :=
  ⟨0, false, 16, 16, 96, some .int8, some .int8, .s32, .rne, true, false, false, false, 0, 1, 0, 64, 1, 0, 8, none⟩
def port0 : OpPort := ⟨h0, .int .i32, 0, 0, .el, 1, true, 0, .rne⟩

/-- R58 to R62, R66 to R69: headers, selectors, destinations, TY and numbers of element entries. -/
theorem test_wf_elements : ([.nop ⟨4096, false, 7, false⟩, .nop ⟨0, false, 8, false⟩, .nop ⟨0, false, 7, true⟩,
    .add ⟨h0, .i8, .file 32, .L, .L, .any⟩, .add ⟨h0, .i8, .latch, .file 32, .L, .any⟩, .add ⟨h0, .i8, .latch, .k 16, .L, .any⟩,
    .add ⟨h0, .i8, .latch, .L, .imm 32, .any⟩, .neg ⟨h0, .n8, .latch, .L, .any⟩, .dot4 ⟨h0, .i16, .latch, .L, .L, .L, .any⟩,
    .cmp ⟨h0, .i8, 7, .L, .L, .any, .eq⟩, .movk ⟨h0, .i8, 16, .L⟩, .li ⟨h0, .i8, .latch, 268435456⟩, .tri5 ⟨h0, .latch, .L, 5⟩,
    .fdot2 ⟨h0, .f32, .latch, .L, .L, .L, .rne, .any⟩, .fclass ⟨h0, .f32, 0, .L, 256⟩, .quant ⟨h0, .f32, .latch, .L, 0, .rne, .fp32⟩,
    .mxsc ⟨h0, .f32, .latch, .L, .int8⟩, .rndn ⟨h0, .f32, .latch, .sr, .any⟩, .pand ⟨h0, 7, 0, 0⟩, .bcast ⟨h0, .i16, .latch, .L, 8⟩,
    .drnCut ⟨hNo, .f32, .latch⟩, .dseed ⟨h0, .i8, .latch, .L, 5⟩, .dzero ⟨h0, .n8, .latch⟩, .tokw ⟨h0, 0⟩, .toke ⟨h0, 256⟩,
    .barArrive ⟨⟨0, true, 7, false⟩, 0⟩, .barWait ⟨h0, 0⟩, .fence ⟨h0, .co⟩, .fenceSc ⟨⟨0, true, 7, false⟩, .co⟩,
    .brk ⟨⟨0, true, 7, false⟩, 0⟩] : List Instr).all (fun i => !i.wf) = true := by decide +kernel

/-- R71 to R74, R269, R281, R293, R321: ports, generators and engines. -/
theorem test_wf_tiles : ([.ld { port0 with scope := .co }, .ld { port0 with rm := .sr }, .ld { port0 with size := 3 }, .ldg { port0 with size := 0 },
    .aadd { port0 with ty := .flt .f32, scope := .co }, .aadd port0, .acas { port0 with size := 0, scope := .co }, .cnt ⟨h0, 4, 0, 0⟩, .cnt ⟨h0, 0, 0, -1⟩,
    .step ⟨h0, 0, 0, 2147483648⟩, .mm { row0 with k := 769 }, .mm { row0 with m := 17 }, .mm { row0 with rm := .rup }, .mm { row0 with rep := 4097 },
    .mm { row0 with ax := 1 }, .mm { row0 with repq := some 3 }, .epc eh ⟨.tri5, false, .rne, 0, 0, 0, false, 0, 0⟩,
    .epc eh ⟨.int8, false, .rne, 6, 0, 0, false, 0, 0⟩, .epi eh 16 0 false, .epw eh 0 false false 16 0, .copy ⟨eh, 0, 0, 0, true⟩, .fill ⟨eh, 0, 1, 0, false⟩ 0,
    .prefetch ⟨eh, 0, 0, 1, false⟩, .drain eh 0, .fldt eh 0 0 0 4000 97, .feval eh 0 0, .fxin ⟨eh, 0, 0, 0, 5, 4, 0⟩, .fxout ⟨eh, 0, 0, 3, 0, 64, 8129⟩,
    .fpop eh 0 0 0 4096 3 6, .fpop eh 0 0 0 1 4 7, .fpopLat eh 0 1 9 0, .fclr eh 8191 2, .fclrCtx eh 4] : List Instr).all (fun i => !i.wf) = true := by
  decide +kernel

/-- R77 to R79: sequencer steps. -/
theorem test_wf_steps : ([.cfg 4 0 0, .cfgx 0 0 0 128, .swap 4, .run 0 16, .waitRegion 4, .mode 256, .brs 0 .z 0 0, .loop 0 1024, .setq 0 2097152,
    .addqImm 0 0 65536, .ldq 0 0 4, .sysr 0 0x33, .sysw 0 0x10, .claim 255 2, .claim 0 0, .barInit 0 0, .stepFenceSc .co,
    .trap 65536] : List Instr).all (fun i => !i.wf) = true := by decide +kernel

/-! ## Words composed from the tables of R58 to R79, R254, R269, R281, R293 and R321 -/

/-- The decoder reads the word as the instruction, whose word the encoder writes. -/
def reads (n : Nat) (d : Nat → Dec Instr) (x : Nat × Instr) : Bool :=
  (match d x.1 with
   | .ok i => decide (i = x.2)
   | .error _ => false) && encode x.2 == some (n, x.1) && x.2.wf

/-- R58 to R67: words of class 00. -/
theorem test_decode_class00 : ([
    (0x005100D948518008, .add ⟨⟨5, false, 1, false⟩, .n16, .both 10, .N, .S, .unscaled⟩),
    (0x02A4816112D98000, .sub ⟨⟨42, false, 4, true⟩, .n32, .file 8, .imm 11, .k 3, .any⟩),
    (0x04F0018401520010, .adds ⟨⟨79, false, 0, false⟩, .i8, .latch, .file 5, .W, .scaled⟩),
    (0x07438223E8518000, .subs ⟨⟨116, false, 3, true⟩, .i32, .file 31, .N, .S, .any⟩),
    (0x099603C412D98010, .min ⟨⟨153, false, 6, false⟩, .n8, .latch, .imm 11, .k 3, .scaled⟩),
    (0x0BE2845948120008, .max ⟨⟨190, false, 2, true⟩, .n16, .both 10, .L, .W, .unscaled⟩),
    (0x0E3504F108518000, .avg ⟨⟨227, false, 5, false⟩, .n64, .file 8, .N, .S, .any⟩),
    (0x1081859952D98008, .mul ⟨⟨264, false, 1, true⟩, .i16, .both 10, .imm 11, .k 3, .unscaled⟩),
    (0x12D4062108120000, .mulh ⟨⟨301, false, 4, false⟩, .i32, .file 8, .L, .W, .any⟩),
    (0x15208944085F8010, .xor ⟨⟨338, false, 0, true⟩, .n8, .latch, .N, .k 15, .scaled⟩),
    (0x177309E3F2D98000, .andn ⟨⟨375, false, 3, false⟩, .n32, .file 31, .imm 11, .k 3, .any⟩),
    (0x19C68A8408120010, .shl ⟨⟨412, false, 6, true⟩, .i8, .latch, .L, .W, .scaled⟩),
    (0x1C120B1947DF8008, .shr ⟨⟨449, false, 2, false⟩, .i16, .both 10, .file 31, .k 15, .unscaled⟩),
    (0x1E658BB112D98000, .sha ⟨⟨486, false, 5, true⟩, .i64, .file 8, .imm 11, .k 3, .any⟩),
    (0x20B10C5948120008, .rot ⟨⟨523, false, 1, false⟩, .n16, .both 10, .L, .W, .unscaled⟩),
    (0x2304916107DF8000, .sel ⟨⟨560, false, 4, true⟩, .n32, .file 8, .file 31, .k 15, .any⟩),
    (0x2550080412FE8010, .and ⟨⟨597, false, 0, false⟩, .i8, .latch, .imm 11, .imm (-3), .scaled⟩),
    (0x27A388A3E8120000, .or ⟨⟨634, false, 3, true⟩, .i32, .file 31, .L, .W, .any⟩),
    (0x29F6028407C00000, .neg ⟨⟨671, false, 6, false⟩, .i8, .latch, .file 31, .any⟩),
    (0x2C4283041F400000, .abs ⟨⟨708, false, 2, true⟩, .i8, .latch, .imm (-3), .any⟩),
    (0x2E950A594CC00010, .not ⟨⟨745, false, 5, false⟩, .n16, .both 10, .k 3, .scaled⟩),
    (0x30E18C9948000010, .clz ⟨⟨782, false, 1, true⟩, .i16, .both 10, .L, .scaled⟩),
    (0x33340D63EFC00008, .pop ⟨⟨819, false, 4, false⟩, .n32, .file 31, .k 15, .unscaled⟩),
    (0x35808DA108C00008, .brev ⟨⟨856, false, 0, true⟩, .i32, .file 8, .S, .unscaled⟩),
    (0x3C720504085FA108, .clamp ⟨⟨967, false, 2, false⟩, .i8, .latch, .N, .k 15, .N, .unscaled⟩),
    (0x3EC586F10CD13310, .mad ⟨⟨1004, false, 5, true⟩, .n64, .file 8, .k 3, .E, .k 3, .scaled⟩),
    (0x41110763E14FBF00, .sad ⟨⟨1041, false, 1, false⟩, .n32, .file 31, .file 5, .file 31, .k 15, .any⟩),
    (0x43648E5948FECB00, .bfx ⟨⟨1078, false, 4, true⟩, .n16, .both 10, .S, .imm (-3), .imm 11, .any⟩),
    (0x45B00EC408902408, .bfi ⟨⟨1115, false, 0, false⟩, .n8, .latch, .E, .L, .W, .unscaled⟩),
    (0x480387A107DFA110, .dot4 ⟨⟨1152, false, 3, true⟩, .i32, .file 8, .file 31, .k 15, .N, .scaled⟩),
    (0x4A56000000000000, .nop ⟨1189, false, 6, false⟩),
    (0x4CA2906CA9208014, .cmp ⟨⟨1226, false, 2, true⟩, .n32, 5, .W, .imm 1, .scaled, .gt⟩),
    (0x4EF5109CC0D80008, .test ⟨⟨1263, false, 5, false⟩, .i16, 6, .file 3, .k 0, .unscaled⟩),
    (0x5141947868C00000, .mov ⟨⟨1300, false, 1, true⟩, .n64, .both 3, .S⟩),
    (0x539414C00880000D, .movk ⟨⟨1337, false, 4, false⟩, .n8, 13, .E⟩),
    (0x55E095323FFFFFF9, .li ⟨⟨1374, false, 0, true⟩, .i64, .file 17, -7⟩),
    (0x5833180128000004, .tri5 ⟨⟨1411, false, 3, false⟩, .file 9, .L, 4⟩),
    (0x5A8698C12081800D, .pack ⟨⟨1448, false, 6, true⟩, .nat4, .file 9, .file 2, .file 3⟩),
    (0x5CD219040080000F, .unpk ⟨⟨1485, false, 2, false⟩, .bin1, .latch, .file 2⟩),
    (0x5F2599D040000000, .idx ⟨⟨1522, false, 5, true⟩, .n16, .file 2⟩)] : List (Nat × Instr)).all (reads 64 decodeElement) = true := by decide +kernel

/-- R58 to R68: words of class 01. -/
theorem test_decode_class01 : ([
    (0x617120195F658068, .fadd ⟨⟨1559, false, 1, false⟩, .f16, .both 10, .imm (-3), .imm 11, .rdn, .unscaled⟩),
    (0x63C4A0A401520090, .fsub ⟨⟨1596, false, 4, true⟩, .bf16, .latch, .file 5, .W, .rna, .scaled⟩),
    (0x6610213108FE80A0, .fmul ⟨⟨1633, false, 0, false⟩, .f19, .file 8, .S, .imm (-3), .sr, .any⟩),
    (0x6863A6C3E8900000, .fscl ⟨⟨1670, false, 3, true⟩, .f8e4, .file 31, .E, .L, .rne, .any⟩),
    (0x6AB62A5947DF8008, .scl ⟨⟨1707, false, 6, false⟩, .f8e5, .both 10, .file 31, .k 15, .rne, .unscaled⟩),
    (0x6D02AA841F658030, .uscl ⟨⟨1744, false, 2, true⟩, .f32, .latch, .imm (-3), .imm 11, .rtz, .scaled⟩),
    (0x6F55218108120530, .fma ⟨⟨1781, false, 5, false⟩, .f32, .file 8, .L, .W, .file 5, .rtz, .scaled⟩),
    (0x71A1A2010851FD30, .fms ⟨⟨1818, false, 1, true⟩, .f32, .file 8, .N, .S, .imm (-3), .rtz, .scaled⟩),
    (0x73F4228108902430, .fnma ⟨⟨1855, false, 4, false⟩, .f32, .file 8, .E, .L, .W, .rtz, .scaled⟩),
    (0x7640A7410FD0A330, .fdot2 ⟨⟨1892, false, 0, true⟩, .f8e4, .file 8, .k 15, .N, .S, .rtz, .scaled⟩),
    (0x789323010CD10000, .fmin ⟨⟨1929, false, 3, false⟩, .f32, .file 8, .k 3, .E, .any⟩),
    (0x7AE6A399414F8008, .fmax ⟨⟨1966, false, 6, true⟩, .f16, .both 10, .file 5, .file 31, .unscaled⟩),
    (0x7D32242412C00000, .fabs ⟨⟨2003, false, 2, false⟩, .bf16, .latch, .imm 11, .any⟩),
    (0x7F85A4C3E8000008, .fneg ⟨⟨2040, false, 5, true⟩, .f8e4, .file 31, .L, .unscaled⟩),
    (0x81D12B0407C00000, .amax ⟨⟨2077, false, 1, false⟩, .f32, .latch, .file 31, .any⟩),
    (0x8424A61948C00090, .frnd ⟨⟨2114, false, 4, true⟩, .f16, .both 10, .S, .rna, .scaled⟩),
    (0x867027B108000000, .lsumf ⟨⟨2151, false, 0, false⟩, .f19, .file 8, .L, .rne, .any⟩),
    (0x88C3B05947C00030, .fnExp2 ⟨⟨2188, false, 3, true⟩, .f8e5, .both 10, .file 31, .rtz, .scaled⟩),
    (0x8B16308108C00068, .fnLog2 ⟨⟨2225, false, 6, false⟩, .f32, .file 8, .S, .rdn, .unscaled⟩),
    (0x8D62B124080000A0, .fnRcp ⟨⟨2262, false, 2, true⟩, .bf16, .latch, .L, .sr, .any⟩),
    (0x8FB531C3E7C00008, .fnRsq ⟨⟨2299, false, 5, false⟩, .f8e4, .file 31, .file 31, .rne, .unscaled⟩),
    (0x9201B20408C00040, .fnSin ⟨⟨2336, false, 1, true⟩, .f32, .latch, .S, .rup, .any⟩),
    (0x945432994CC00090, .fnTanh ⟨⟨2373, false, 4, false⟩, .f16, .both 10, .k 3, .rna, .scaled⟩),
    (0x96A0B33107C00000, .fnSig ⟨⟨2410, false, 0, true⟩, .f19, .file 8, .file 31, .rne, .any⟩),
    (0x98F333D948C00030, .fnGelu ⟨⟨2447, false, 3, false⟩, .f8e5, .both 10, .S, .rtz, .scaled⟩),
    (0x9B46A51C481D000E, .fcmp ⟨⟨2484, false, 6, true⟩, .f16, 2, .L, .k 10, .unscaled, .unordered⟩),
    (0x9D9225BC090000A5, .fclass ⟨⟨2521, false, 2, false⟩, .f19, 0, .W, 0xA5⟩),
    (0x9FE5A821881A0032, .cvt ⟨⟨2558, false, 5, true⟩, .int .i32, .flt .bf16, .file 12, .L, 4, .rtz⟩),
    (0xA23128C1881F9B0E, .cvtsr ⟨⟨2595, false, 1, false⟩, .flt .f8e4, .int .n32, .file 12, .L, 15, .file 27⟩),
    (0xA484A910E19880A7, .quant ⟨⟨2632, false, 4, true⟩, .f16, .file 7, .file 6, 1, .sr, .fp6e2⟩),
    (0xA6D02980E1990070, .dequ ⟨⟨2669, false, 0, false⟩, .f32, .file 7, .file 6, 2, .rdn, .tri5⟩),
    (0xA923ABA0E1800015, .mxsc ⟨⟨2706, false, 3, true⟩, .bf16, .file 7, .file 6, .mx4⟩),
    (0xAB762C09C0000000, .rnd ⟨⟨2743, false, 6, false⟩, .both 14⟩),
    (0xADC2ACB1C0000090, .rndn ⟨⟨2780, false, 2, true⟩, .f19, .file 14, .rna, .scaled⟩)] : List (Nat × Instr)).all (reads 64 decodeElement) = true := by decide +kernel

/-- R58 to R69, R254: words of class 10. -/
theorem test_decode_class10 : ([
    (0x37D345F108800000, .lsum ⟨⟨893, false, 3, false⟩, .n64, .file 8, .E, .any⟩),
    (0x3A26C64409000000, .lmax ⟨⟨930, false, 6, true⟩, .n8, .latch, .W, .any⟩),
    (0xB015400C40028000, .pand ⟨⟨2817, false, 5, false⟩, 2, 0, 5⟩),
    (0xB261C08C60430000, .por ⟨⟨2854, false, 1, true⟩, 3, 1, 6⟩),
    (0xB4B4410C80838000, .pxor ⟨⟨2891, false, 4, false⟩, 4, 2, 7⟩),
    (0xB700C18CA0C00000, .pnot ⟨⟨2928, false, 0, true⟩, 5, 3⟩),
    (0xB953420CC1000000, .pmov ⟨⟨2965, false, 3, false⟩, 6, 4⟩),
    (0xBBA6C4082080000F, .bcast ⟨⟨3002, false, 6, true⟩, .i8, .both 1, .file 2, 15⟩),
    (0xBDF2450820800003, .lrot ⟨⟨3039, false, 2, false⟩, .i8, .both 1, .file 2, 3⟩),
    (0xC045C4E020818000, .shuf ⟨⟨3076, false, 5, true⟩, .n32, .file 1, .file 2, .file 3⟩),
    (0x09A7481180000000, .drnCut ⟨⟨154, false, 7, false⟩, .f16, .file 12⟩),
    (0x09B748518C600540, .drnLin ⟨⟨155, false, 7, false⟩, .f8e5, .file 12, .k 1, .imm 0, .file 5⟩),
    (0xC73048A0C1C00001, .dseed ⟨⟨3187, false, 0, false⟩, .i32, .file 6, .file 7, 1⟩),
    (0xC983C920C1C00004, .dget ⟨⟨3224, false, 3, true⟩, .i32, .file 6, .file 7, 4⟩),
    (0xCBD649A0C1C00003, .dput ⟨⟨3261, false, 6, false⟩, .i32, .file 6, .file 7, 3⟩),
    (0xCE22CA30C0000000, .dzero ⟨⟨3298, false, 2, true⟩, .i64, .file 6⟩),
    (0xD07D4C00000000C8, .tokw ⟨⟨3335, true, 5, false⟩, 200⟩),
    (0xD2C1CC80000000FF, .toke ⟨⟨3372, false, 1, true⟩, 255⟩),
    (0xD514500000000009, .barArrive ⟨⟨3409, false, 4, false⟩, 9⟩),
    (0xD768D080000000FE, .barWait ⟨⟨3446, true, 0, true⟩, 254⟩),
    (0xD9BB510000000011, .barAw ⟨⟨3483, true, 3, false⟩, 17⟩),
    (0xDC06DF800000007F, .brk ⟨⟨3520, false, 6, true⟩, 127⟩),
    (0xDE5A540000000007, .fence ⟨⟨3557, true, 2, false⟩, .im⟩),
    (0xE0ADD48000000006, .fenceSc ⟨⟨3594, true, 5, true⟩, .sy⟩)] : List (Nat × Instr)).all (reads 64 decodeElement) = true := by decide +kernel

/-- R71, R72. -/
theorem test_decode_ports : ([
    (0xE2F1009410C6D800, .ld ⟨⟨3631, false, 1, false⟩, .int .i32, 4, 1, .el, 1, true, 27, .rdn⟩),
    (0xE544815050C6E000, .st ⟨⟨3668, false, 4, true⟩, .flt .bf16, 0, 5, .el, 1, true, 27, .rna⟩),
    (0xE790018C90BFC000, .ldg ⟨⟨3705, false, 0, false⟩, .int .i16, 4, 9, .el, 1, false, 255, .rne⟩),
    (0xE9E3821280C00800, .stg ⟨⟨3742, false, 3, true⟩, .int .i32, 2, 8, .el, 1, true, 0, .rtz⟩),
    (0xEC360819693FD000, .aadd ⟨⟨3779, false, 6, false⟩, .int .i64, 1, 6, .di, 2, false, 255, .rup⟩),
    (0xEE8288920AC6D800, .amin ⟨⟨3816, false, 2, true⟩, .int .i32, 2, 0, .pk, 1, true, 27, .rdn⟩),
    (0xF0D5090C9C392000, .atomicMax ⟨⟨3853, false, 5, false⟩, .int .i16, 4, 9, .sy, 0, false, 228, .rna⟩),
    (0xF321898D25400800, .aand ⟨⟨3890, false, 1, true⟩, .int .i16, 5, 2, .co, 2, true, 0, .rtz⟩),
    (0xF5740A3EB686D000, .aor ⟨⟨3927, false, 4, false⟩, .int .n64, 6, 11, .gp, 1, false, 27, .rup⟩),
    (0xF7C08AB748391800, .axor ⟨⟨3964, false, 0, true⟩, .int .n32, 7, 4, .di, 0, false, 228, .rdn⟩),
    (0xFA130B28DA402000, .axch ⟨⟨4001, false, 3, false⟩, .int .n16, 0, 13, .pk, 0, true, 0, .rna⟩),
    (0xFC668B9964C00000, .acas ⟨⟨4038, false, 6, true⟩, .int .i64, 1, 6, .co, 1, true, 0, .rne⟩),
    (0xFEB20C65A73FC800, .radd ⟨⟨4075, false, 2, false⟩, .flt .f8e4, 5, 10, .gp, 2, false, 255, .rtz⟩),
    (0x01058CDE48C6D000, .rmin ⟨⟨16, false, 5, true⟩, .flt .f19, 6, 4, .di, 1, true, 27, .rup⟩),
    (0x03510D50DA391800, .rmax ⟨⟨53, false, 1, false⟩, .flt .bf16, 0, 13, .pk, 0, false, 228, .rdn⟩)] : List (Nat × Instr)).all (reads 64 decodePort) = true := by decide +kernel

/-- R73, R74. -/
theorem test_decode_generators : ([
    (0x05A480F4FFFFFFFE, .cnt ⟨⟨90, false, 4, true⟩, 3, 5, 0xFFFFFFFE⟩),
    (0x07F0013CFFFFFFF0, .step ⟨⟨127, false, 0, false⟩, 1, 7, -16⟩),
    (0x0A438180000000C8, .tokgo ⟨⟨164, false, 3, true⟩, 200⟩),
    (0x0C96020000000007, .tokend ⟨⟨201, false, 6, false⟩, 7⟩)] : List (Nat × Instr)).all (reads 64 decodeGen) = true := by decide +kernel

/-- R75, R76, R268, R269. -/
theorem test_decode_matrix : ([
    (0x00000000000000000EE7008000000100, .mmz ⟨238, false⟩ .s32),
    (0xC88103647E00000B113F01C787E30235, .mms ⟨275, true, 9, 16, 64, some .fp16, none, .f32, .rdn, true, false, false, true, 200, -64, 3, 100, 63, 0, 1, some 11⟩),
    (0x00020040FE000070138F01780BEA510E, .mm ⟨312, true, 16, 1, 96, some .int8, some .int8, .s32, .rne, true, true, true, false, 0, 1, 0, 64, -1, 0, 8, none⟩),
    (0x000000000000000015D7020000000000, .radv ⟨349, false⟩)] : List (Nat × Instr)).all (reads 128 (decodeEngine 0)) = true := by decide +kernel

/-- R75, R76, R281. -/
theorem test_decode_epilogue : ([
    (0x3F8000019C0000001827082857A00000, .epc ⟨386, false⟩ ⟨.int8, false, .rtz, 5, 3, 2, true, 0x3F800001, 0x9C⟩),
    (0x00000000000000001A7708EE80000000, .epi ⟨423, false⟩ 13 6 true),
    (0x0000000000ABCDEF1CC7097F32000000, .epw ⟨460, false⟩ 254 false true 9 0xABCDEF),
    (0x00000000000000001F1F098000000000, .epd ⟨497, true⟩),
    (0x000000000000000021670A40C0000000, .epb ⟨534, false⟩ 129 true)] : List (Nat × Instr)).all (reads 128 (decodeEngine 1)) = true := by decide +kernel

/-- R75, R76, R321. -/
theorem test_decode_copy : ([
    (0x000000000000000023BF101007FC0000, .copy ⟨⟨571, true⟩, 2, 0, 255, true⟩),
    (0x0000000000000000260710F818200000, .copyc ⟨⟨608, false⟩, 15, 3, 4, false⟩),
    (0x000000000000000D2857110800380000, .fill ⟨⟨645, false⟩, 1, 0, 7, false⟩ 13),
    (0x00000000000000002AA711B7F8000000, .prefetch ⟨⟨682, false⟩, 6, 255, 0, false⟩),
    (0x00000000000000002CF7123040000000, .wld ⟨⟨719, false⟩, 6, 8, 0, false⟩),
    (0x00000000000000002F4F12E000000000, .drain ⟨756, true⟩ 3)] : List (Nat × Instr)).all (reads 128 (decodeEngine 2)) = true := by decide +kernel

/-- R75, R76, R293. -/
theorem test_decode_felt : ([
    (0x00000000000000003197186857F400BE, .fldt ⟨793, false⟩ 3 0x42 11 4000 96),
    (0x000000000000000033E718C000000000, .fctx ⟨830, false⟩ 2),
    (0x00000000000000003637197FF8000000, .feval ⟨867, false⟩ 4095 1),
    (0x0000000000000000388719829F42FFD0, .fxin ⟨⟨904, false⟩, 5, 3, 3, 40, 24, 4072⟩),
    (0x00000000000000003AD71A029A01FFF0, .fxout ⟨⟨941, false⟩, 5, 3, 1, 0, 16, 8176⟩),
    (0xFF000200000000003D271A82980C8012, .fpop ⟨978, false⟩ 5 3 100 10 256 512),
    (0x07F80000000000003F771A8007E8002E, .fpopLat ⟨1015, false⟩ 8000 24 8 0xF8),
    (0x000000000000000041C71B2000FFF000, .fclr ⟨1052, false⟩ 4096 4096),
    (0x000000000000000044171B7000000000, .fclrCtx ⟨1089, false⟩ 3)] : List (Nat × Instr)).all (reads 128 (decodeEngine 3)) = true := by decide +kernel

/-- R77, R78. -/
theorem test_decode_steps : ([
    (0x00000000, .stepNop),
    (0x0680BEEF, .cfg 2 1 0xBEEF),
    (0x0B650007, .cfgx 3 0 7 101),
    (0x0D000000, .swap 1),
    (0x13E00000, .run 3 14),
    (0x14000003, .waitRegion 3),
    (0x150000C8, .waitFrame 200),
    (0x16000011, .waitBarrier 17),
    (0x1A6AF3FF, .brs 9 .neg 700 1023),
    (0x1FC003E8, .loop 15 1000),
    (0x213FFFFB, .setq 4 (-5)),
    (0x24486000, .addq 1 2 3),
    (0x244BFFF8, .addqImm 1 2 (-8)),
    (0x2959E000, .cmpq .ltu 5 6 7),
    (0x2CE3FFF0, .ldq 3 8 (-16)),
    (0x30E00018, .stq 3 8 24),
    (0x37000000, .tick 12),
    (0x3800001F, .mode 31),
    (0x3DC00000, .spawn 7),
    (0x40000000, .yield),
    (0x44000000, .retire),
    (0x48001234, .trap 0x1234),
    (0x4E000000, .freeze 2),
    (0x53000000, .thaw 3),
    (0x54800200, .sysr 2 0x200),
    (0x59800450, .sysw 6 0x450),
    (0x5C200800, .claim 8 4),
    (0x60020000, .free 0 256),
    (0x64000007, .pub 7),
    (0x68440FFF, .barInit 17 4095),
    (0x6FFC0000, .stepBarArrive 255),
    (0x70440000, .stepBarWait 17),
    (0x74000003, .frame 3),
    (0x78000004, .stepFence .di),
    (0x7C000005, .stepFenceSc .pk),
    (0x80000003, .stepBrk 3)] : List (Nat × Instr)).all (reads 32 decodeStep) = true := by decide +kernel

/-! ## Worked results of the spec, each of one step -/

/-- Lane 0 of core 0 with these file words in the element under way, unit 0. -/
def elemSt (fs : List (Nat × Nat)) : State :=
  State.reset.setCore 0 ((({} : Core)).setElem 0 { file := fs.map fun x => (x.1, { bits := BitVec.ofNat 128 x.2 }) })

/-- What the one result in flight writes, and the flags it carries. -/
def written : Res → Option (Nat × Nat)
  | .next t =>
    match (t.lane 0).flights with
    | [f] => match f.land with | .elem _ _ _ m (some b) _ _ => some ((m &&& b).toNat, f.nflags) | _ => none
    | _ => none
  | _ => none

/-- R200's example: lane 0 of `dot4.i32 v12, v9, k2, v12`, and of the same as `dot4.n32`. -/
theorem test_dot4 :
    let s := State.reset.setCore 0 ((({} : Core)).setElem 0 { file := [(9, { bits := 0x8007FE03 }), (12, { bits := 1000 })], consts := [(2, { bits := 0x01FF050A })] })
    (written (exec (.dot4 ⟨h0, .i32, .file 12, .file 9, .k 2, .file 12, .any⟩) s)).map (fun x => x.1 % 2 ^ 32) = some 0x375 ∧
    (written (exec (.dot4 ⟨h0, .n32, .file 12, .file 9, .k 2, .file 12, .any⟩) s)).map (fun x => x.1 % 2 ^ 32) = some 0x1075 := by decide +kernel

/-- R202's table: shifts and rotations of 0xB6 by 3, 9 and 255. -/
theorem test_shifts :
    ([(3, 0xB0, 0x16, 0xF6, 0xB5), (9, 0, 0, 0xFF, 0x6D), (255, 0, 0, 0xFF, 0x5B)] : List (Nat × Nat × Nat × Nat × Nat)).all (fun x =>
      let s := elemSt [(1, 0xB6), (2, x.1)]
      let r (i : Instr) : Option Nat := (written (exec i s)).map fun y => y.1 % 256
      decide (r (.shl ⟨h0, .i8, .file 3, .file 1, .file 2, .any⟩) = some x.2.1 ∧ r (.shr ⟨h0, .i8, .file 3, .file 1, .file 2, .any⟩) = some x.2.2.1 ∧
        r (.sha ⟨h0, .i8, .file 3, .file 1, .file 2, .any⟩) = some x.2.2.2.1 ∧ r (.rot ⟨h0, .i8, .file 3, .file 1, .file 2, .any⟩) = some x.2.2.2.2)) = true := by
  decide +kernel

/-- R211's example: relative row 2, column 1 of a 4 by 4 region. -/
theorem test_idx :
    let s := { (State.reset.setLane 0 { banks := [(0, { rows := 4, cols := 4 })] }) with cur := { lane := 0, unit := 17, idx := 0 } }
    written (exec (.idx ⟨h0, .i16, .file 9⟩) s) = some (0x004F004E004D004C004B004A00490048, 0) := by decide +kernel

/-- R214's example. -/
theorem test_tri5 : written (exec (.tri5 ⟨h0, .file 9, .file 8, 0⟩) (elemSt [(8, 0x00F779A7)])) = some (0xFF0000000000000000000001FFFF0001, 0x40) := by
  decide +kernel

/-- R217's example. -/
theorem test_pack : (written (exec (.pack ⟨h0, .int4, .file 9, .file 8, .file 10⟩) (elemSt [(8, 0x64F705)]))).map (fun x => (x.1 % 2 ^ 12, x.2)) = some (0x785, 0x20) := by
  decide +kernel

/-- R231's example, under the policies 0xAA and 0x22. -/
theorem test_cvt :
    let s (p : Nat) : State := State.reset.setCore 0 ((({} : Core)).setElem 0
      { file := [(9, { bits := 0x7FC00000_43FA0000_43960000_3F800000 })], consts := [(4, { bits := BitVec.ofNat 128 p })] })
    written (exec (.cvt ⟨h0, .flt .f8e4, .flt .f32, .file 10, .file 9, 4, .rne⟩) (s 0xAA)) = some (0x7F7F7938, 0x15) ∧
    (written (exec (.cvt ⟨h0, .flt .f8e4, .flt .f32, .file 10, .file 9, 4, .rne⟩) (s 0x22))).map (·.1) = some 0x7E7E7938 := by decide +kernel

/-- R244's examples: 2 to the 3.5 exactly, and 1/3 in FP16 under RNE and RUP. -/
theorem test_functions :
    (written (exec (.fnRcp ⟨h0, .f16, .file 1, .file 2, .rne, .any⟩) (elemSt [(2, 0x4200)]))).map (fun x => x.1 % 2 ^ 16) = some 0x3555 ∧
    (written (exec (.fnRcp ⟨h0, .f16, .file 1, .file 2, .rup, .any⟩) (elemSt [(2, 0x4200)]))).map (fun x => x.1 % 2 ^ 16) = some 0x3556 := by decide +kernel

/-- R45, R225: 1 + 2^−24 is a tie that rounds to even; R362's order of the tree depends on it. -/
theorem test_fadd_tie : (written (exec (.fadd ⟨h0, .f32, .file 1, .file 2, .file 3, .rne, .any⟩) (elemSt [(2, 0x3F800000), (3, 0x33800000)]))).map
    (fun x => (x.1 % 2 ^ 32, x.2)) = some (0x3F800000, 0x01) := by decide +kernel

/-- R61: −1 in an n8 lane is 255, and 31 in FP8E4 rounds to 32. -/
theorem test_immediates : (written (exec (.mov ⟨h0, .n8, .file 1, .imm (-1)⟩) State.reset)).map (fun x => x.1 % 256) = some 255 ∧
    lDecode (.flt .f8e4) (laneOfV 8 (readF State.reset .f8e4 (.imm 31)).bits 0) = .fin false ⟨32, 1⟩ := by decide +kernel

/-- R40's byte. -/
theorem test_trits : (List.range 5).map (trit 0xA7) = [1, 0, -1, -1, 1] := by decide +kernel

/-- R52's example: the scale code is 0x7F, 470 becomes 448 with SAT, 300 becomes 288 and 0.001 becomes 2^−9. -/
theorem test_mx8e4 :
    (convertBlock .mx8e4 0xAA .rne (fun _ => 0) 0 (Q.ofInt 0)
      ([.fin false ⟨470, 1⟩, .fin false ⟨300, 1⟩, .fin false ⟨1, 1000⟩] ++ List.replicate 29 (.fin false ⟨0, 1⟩))).map
      (fun o => (o.scale, o.codes, o.flags.testBit 5)) = some (0x7F, [0x7E, 0x79, 0x01] ++ List.replicate 29 0, true) := by decide +kernel

/-- R140's example, with four live dies. -/
theorem test_hash : dramChannel 4 0x123456700 = 31 := by decide +kernel

/-- R178's program, one loop step: the inner loop is popped and the outer repeats in the same step. -/
theorem test_loop_end :
    let l : Lane := { sp := 5, loops := [⟨4, 5, 5, 1⟩, ⟨2, 3, 5, 2⟩] }
    (l.stepDone.sp, l.stepDone.loops) = (3, [⟨2, 3, 5, 1⟩]) := by decide +kernel

/-- R386's example: 27 bytes. -/
theorem test_coder : (codeWords 9 [0, 0, 0, 7, 7, 7, 7, 5, 9]).map BitVec.toNat =
    [0x42, 0x83, 7, 0, 0, 0, 0, 0, 0, 0, 0x01, 5, 0, 0, 0, 0, 0, 0, 0, 9, 0, 0, 0, 0, 0, 0, 0] := by decide +kernel

/-- R204's table, in an 8-bit lane with A = 0xB6. -/
theorem test_fields :
    ([(1, 3, 0x03, 0x03), (4, 4, 0xFB, 0x0B), (6, 5, 0xFE, 0x02), (8, 1, 0x00, 0x00)] : List (Nat × Nat × Nat × Nat)).all (fun x =>
      let s := elemSt [(1, 0xB6), (2, x.1), (3, x.2.1)]
      let r (i : Instr) : Option Nat := (written (exec i s)).map fun y => y.1 % 256
      decide (r (.bfx ⟨h0, .i8, .file 4, .file 1, .file 2, .file 3, .any⟩) = some x.2.2.1 ∧
        r (.bfx ⟨h0, .n8, .file 4, .file 1, .file 2, .file 3, .any⟩) = some x.2.2.2)) = true ∧
    ([(2, 0x32, 0xAA), (1, 0x46, 0x76)] : List (Nat × Nat × Nat)).all (fun x =>
      decide ((written (exec (.bfi ⟨h0, .i8, .file 4, .file 1, .file 2, .file 3, .any⟩) (elemSt [(1, 0xB6), (2, x.1), (3, x.2.1)]))).map (fun y => y.1 % 256) =
        some x.2.2)) = true := by decide +kernel

/-! ## Witnesses: a state and operands for the hypotheses of each statement -/

abbrev s0 : State := State.reset
abbrev a8 : OpI2 := ⟨h0, .i8, .file 1, .file 2, .L, .any⟩
/-- An element whose latch holds a scaled value, whose k0 says FAULT to every case, and whose file word 2 is an FP32 NaN. -/
def oddSt : State := State.reset.setCore 0 ((({} : Core)).setElem 0 { latch := { bits := 1, scaled := true }, consts := [(0, { bits := 0xFF })], file := [(2, { bits := 0x7FC00000 })] })

theorem some_lane (s : State) (n : Nat) (h : 0 < n) : SomeLane s h0 n := ⟨0, h, by simp [guardBit, State.myGuard, guardOf, h0, Elem.pred]⟩
theorem tags_any (vs : List Val) : TagsAgree .any vs := ⟨nofun, nofun⟩
theorem draws_none (s : State) (h : Hdr) (n : Nat) (qs : Nat → List Nat) : DrawsOk s .rne h n qs := fun h => by cases h

/-- LaneSums, ProductLanes, LaneLogic, LaneMoves, LaneReductions: a lane executes and the tags agree, each expectation. -/
theorem wit_lanes : SomeLane s0 h0 (laneCount 8) ∧ SomeLane s0 h0 (laneCount 64) ∧ TagsAgree .any [readI s0 .i8 .L] ∧
    TagsAgree .unscaled [readI s0 .i8 (.file 2), readI s0 .i8 (.imm 1)] ∧ TagsAgree .scaled [readI oddSt .i8 .L] ∧ ITy.i32.width = 32 ∧ ITy.n32.width = 32 :=
  ⟨some_lane _ _ (by decide), some_lane _ _ (by decide), tags_any _, ⟨fun _ => by decide +kernel, nofun⟩,
    ⟨nofun, fun _ => by decide +kernel⟩, rfl, rfl⟩

/-- LaneSums, saturating: a sum and a difference as the statement takes them. -/
theorem wit_saturating : ∃ (v : Nat → Int) (e : Entry1), (e = of2 .adds a8 1 ∧ ∀ j, v j = e.num s0 0 j + e.num s0 1 j) ∧
    ∃ (v' : Nat → Int) (e' : Entry1), e' = of2 .subs a8 1 ∧ ∀ j, v' j = e'.num s0 0 j - e'.num s0 1 j :=
  ⟨_, _, ⟨rfl, fun _ => rfl⟩, _, _, rfl, fun _ => rfl⟩

/-- IntegerPredicates, SelectLanes, NarrowElements: guards, tags and the greatest trit group. -/
theorem wit_predicates : SomeLane s0 h0 (laneCount 32) ∧ (∃ j, j < 16 ∧ guardBit (s0.myGuard h0) j = true) ∧ TagsAgree .any [readI s0 .i8 .L, readI s0 .i8 .N] ∧
    (4 < 5 ∧ SomeLane s0 h0 16) := ⟨some_lane _ _ (by decide), ⟨15, by decide, rfl⟩, tags_any _, by decide, some_lane _ _ (by decide)⟩

/-- EntriesNotRun: no lane executes under p0 at reset; a tag that is not the one expected, no fault standing. -/
theorem wit_not_run : NoLane s0 hNo (laneCount 8) ∧ NoLane s0 hNo (laneCount 64) ∧ SomeLane oddSt h0 (laneCount 8) ∧ FirstFault oddSt ∧
    ¬ TagsAgree .unscaled [readI oddSt .i8 .L, readI oddSt .i8 .L] ∧ SomeLane oddSt h0 (fLanes .f32) ∧
    ¬ TagsAgree .scaled (([.file 2, .L] : List Src).map (readF oddSt .f32)) := by
  refine ⟨?_, ?_, some_lane _ _ (by decide), ?_, ?_, some_lane _ _ (by decide), ?_⟩
  · unfold NoLane; decide +kernel
  · unfold NoLane; decide +kernel
  · intro e he; cases he
  · intro h; exact absurd (h.1 rfl _ (List.mem_cons_self ..)) (by decide +kernel)
  · intro h; exact absurd (h.2 rfl _ (List.mem_cons_self ..)) (by decide +kernel)

/-- A work of one seed, and the release of it that lane 0 runs, with draws of 64 × 2^16 local indices. -/
def entry0 : Entry := { (default : Entry) with workid := 1, fblock := 0xFFFF, ctrlen := 64 }
def rel0 : Release := { (default : Release) with entry := entry0, kind := .firm }
def launch0 : Launch := { (default : Launch) with seeds := [⟨5, 0x10000000, 0x1FFFFFFF, false⟩], budget := 4 }
def work0 : Work := { (default : Work) with workid := 1, launch := launch0, entries := [entry0] }
def drawSt : State := { State.reset.setLane 0 { rel := some rel0 } with works := [work0] }

/-- FloatLaneSums, FloatLaneProducts, FloatMinMaxSign, FloatLaneReductions, FunctionLanes: ready under RNE. -/
theorem wit_float (ty : FTy) (vs : List Val) (qs : Nat → List Nat) : FloatReady s0 h0 (fLanes ty) .any vs .rne qs :=
  ⟨some_lane _ _ (by cases ty <;> decide), tags_any _, rfl, draws_none _ _ _ _⟩

/-- The same under SR, where every lane draws in the entry's range; and the types of `fdot2`. -/
theorem wit_float_sr : FloatReady drawSt h0 (fLanes .f32) .any [] .sr (laneDraw .sr) ∧ (FTy.f16 = .f16 ∨ FTy.f16 = .bf16 ∨ FTy.f16 = .f8e4 ∨ FTy.f16 = .f8e5) :=
  ⟨⟨some_lane _ _ (by decide), tags_any _, rfl, fun _ => ⟨_, _, _, _, _, rfl, by decide +kernel⟩⟩, .inl rfl⟩

/-- FloatPredicates. -/
theorem wit_float_predicates : SomeLane s0 h0 (fLanes .f16) ∧ TagsAgree .any [readF s0 .f16 .L, readF s0 .f16 .N] := ⟨some_lane _ _ (by decide), tags_any _⟩

/-- RoundingAndPolicies: a magnitude in the narrowest format's range, at its top, and ranges that hold zero. -/
theorem wit_rounding : ffFP4 ∈ [ffFP32, ffFP19, ffBF16, ffFP16, ffFP8E4, ffFP8E5, ffFP6E3, ffFP6E2, ffFP4] ∧ 0 < (⟨6, 1⟩ : Q).num ∧ 0 < (⟨6, 1⟩ : Q).den ∧
    Q.rat ⟨6, 1⟩ ≤ Q.rat ffFP4.maxMag ∧ (∀ sg m, (XR.inf true) = .fin sg m → 0 ≤ m.num ∧ 0 < m.den) ∧ (-128 : Int) ≤ 0 ∧ (0 : Int) ≤ 127 :=
  ⟨by decide, by decide, by decide, by decide +kernel, nofun, by decide, by decide⟩

/-- LaneConversions and PackedConversions: ready, with every lane convertible, and with one that its policy faults. -/
theorem wit_conversions : FloatReady s0 h0 4 .any [readL s0 (.flt .f16) .L] .rne (laneDraw .rne) ∧ SomeLane s0 h0 4 ∧ drnFor s0.myElem h0 = none ∧
    (∀ j, j < 4 → guardBit (s0.myGuard h0) j = true → (convertL (.flt .f16) 0 .rne 0 (lDecode (.flt .f32) (laneOfV 32 (readL s0 (.flt .f16) .L).bits j))).isSome = true) ∧
    (convertL (.flt .f16) 0xFF .rne 0 (lDecode (.flt .f32) (laneOfV 32 (readL oddSt (.flt .f16) (.file 2)).bits 0))).isSome = false ∧
    Fmt.fp6e2.isQuant = true ∧ FloatReady s0 h0 1 .any [readF s0 .f16 .L] .rne (fun _ => []) ∧ FloatReady oddSt h0 1 .any [readF oddSt .f32 (.file 2)] .rne (fun _ => []) ∧
    (convertElem .int8 0xFF .rne 0 (farg oddSt .f32 (.file 2) 0)).isSome = false ∧ (convertF ffFP16 0xFF .rne 0 .nan).isSome = false :=
  ⟨⟨some_lane _ _ (by decide), tags_any _, rfl, draws_none _ _ _ _⟩, some_lane _ _ (by decide), rfl, by decide +kernel, by decide +kernel, by decide,
    ⟨some_lane _ _ (by decide), tags_any _, rfl, draws_none _ _ _ _⟩, ⟨some_lane _ _ (by decide), tags_any _, rfl, draws_none _ _ _ _⟩, by decide +kernel, by decide +kernel⟩

theorem out_none (q : Nat) : OutOfRange s0 q := fun _ _ _ _ _ h => absurd h (by simp [show s0.drawRange = none from rfl])

/-- RandomLanes: lanes that draw in range; the first draw of an entry without a range, for either instruction; and
entries with no lane to execute. -/
theorem wit_random : SomeLane drawSt h0 4 ∧ drnFor drawSt.myElem h0 = none ∧ Draws drawSt h0 4 (fun j => [j]) ∧ Draws drawSt h0 (fLanes .f16) (fun j => [2 * j, 2 * j + 1]) ∧
    SomeLane drawSt h0 (fLanes .f16) ∧ FirstBadDraw s0 h0 4 (fun j => [j]) 0 ∧ FirstBadDraw s0 h0 (fLanes .f32) (fun j => [2 * j, 2 * j + 1]) 0 ∧
    NoLane s0 hNo 4 ∧ NoLane s0 hNo (fLanes .f16) ∧ drnFor s0.myElem hNo = none := by
  refine ⟨some_lane _ _ (by decide), rfl, ⟨_, _, _, _, _, rfl, by decide +kernel⟩, ⟨_, _, _, _, _, rfl, by decide +kernel⟩, some_lane _ _ (by decide),
    ⟨[], [1, 2, 3], by decide +kernel, out_none _, nofun⟩, ⟨[], [1, 2, 3, 4, 5, 6, 7], by decide +kernel, out_none _, nofun⟩, ?_, ?_, rfl⟩
  all_goals (unfold NoLane; decide +kernel)

/-- DroneEntries and TangentRules: with no prefix, and with a `drn.cut` captured for the stamp. -/
def cutSt : State := State.reset.setCore 0 ((({} : Core)).setElem 0 { drn := some ⟨false, 0, 0, 0, 0⟩ })
theorem wit_drone : SomeLane s0 h0 (laneCount 16) ∧ SomeLane s0 h0 (fLanes .f32) ∧ TagsAgree .any ([.L, .N].map (readF s0 .f32)) ∧ RMode.rne ≠ .sr ∧
    drnFor s0.myElem h0 = none ∧ ∃ c, drnFor cutSt.myElem ⟨1, false, 7, false⟩ = some c ∧ c.lin = false :=
  ⟨some_lane _ _ (by decide), some_lane _ _ (by decide), tags_any _, by decide, rfl, _, rfl, rfl⟩

/-- TakingAFault: no fault stands. -/
theorem wit_first_fault : FirstFault s0 := nofun

/-- ResultsLand: one result whose time has come, of each of the three kinds, to the file and the latch, of a block that is
neither saved nor restored. -/
def landSt (x : Land) : State := State.reset.setLane 0 { flights := [{ id := 1, due := 3, land := x }], pos := 3 }
theorem wit_lands : ((landSt (.elem 0 (some 8) true 0xFF (some 5) (some true) [])).lane 0).flights = [⟨1, 3, .elem 0 (some 8) true 0xFF (some 5) (some true) [], 0, 0, 0, 0, false⟩] ∧
    3 ≤ ((landSt .none).lane 0).pos ∧ ((landSt .none).lane 0).stop = .none ∧ ((landSt (.pred 0 6 1 1)).lane 0).flights.length = 1 ∧ ((landSt (.token 255)).lane 0).flights.length = 1 := by
  decide +kernel

/-- The word of a `tokw` of channel 3. -/
def tokWord : Nat := ((encode (.tokw ⟨⟨0, true, 7, false⟩, 3⟩)).map (·.2)).getD 0
/-- TokenEntries: the guard true and false, room for a token and none, and a sequence before its end and at it. -/
def tokSt : State := { State.reset.setCore 0 ((({} : Core)).setElem 0 { tokens := [(3, 255)] }) with cur := { lane := 0, unit := 0, idx := 0 } }
def genSt (st : GenSt) (go fin_ : Bool) : State := { State.reset.setCore 0 { gens := [(0, { st, goSent := go, endSent := fin_ })] } with cur := { lane := 0, unit := 72, idx := 0 } }
/-- A `tokw` of channel 3 in the active list of element 0, which the region's slot owns and which holds 255 tokens. -/
def fullSt (ended : Bool) : State :=
  { (State.reset.setLane 0 { banks := [(0, { st := .ready, rows := 8, cols := 8 })] }).setCore 0
      { (({} : Core).setElem 0 { tokens := [(3, 255)] }).setList 0 0 [tokWord] with owner := [(0, 1)], gens := [(0, { st := if ended then .ended else .run })] } with
    cur := { lane := 0, unit := 72, idx := 0 } }
theorem wit_tokens : guardBit (s0.myGuard h0) 0 = true ∧ guardBit (s0.myGuard hNo) 0 = false ∧ FirstFault s0 ∧ genGuard (genSt .run false false) h0 = true ∧
    ((genSt .run false false).core 0).gen 0 ≠ {} ∧ ((((genSt .run false false).core 0).gen 0).st ≠ .ended ∧ (((genSt .run false false).core 0).gen 0).goSent = false) ∧
    ((((genSt .ended true false).core 0).gen 0).st = .ended ∧ (((genSt .ended true false).core 0).gen 0).endSent = false) ∧
    (∀ u ∈ listeners (s0.core 0) (s0.lane 0) 0 3, tblGet 0 ((s0.core 0).elem u).tokens 3 + tokensInFlight (s0.lane 0) 3 + 1 ≤ 255) ∧
    genGuard (genSt .run false false) hNo = false ∧ FirstFault (fullSt false) ∧ genGuard (fullSt false) h0 = true ∧
    (∃ u ∈ listeners ((fullSt false).core 0) ((fullSt false).lane 0) 0 3, ¬ (tblGet 0 (((fullSt false).core 0).elem u).tokens 3 + tokensInFlight ((fullSt false).lane 0) 3 + 1 ≤ 255)) ∧
    (((fullSt true).core 0).gen 0).st = .ended :=
  ⟨rfl, by decide +kernel, nofun, by decide +kernel, by decide +kernel, by decide +kernel, by decide +kernel, by decide +kernel, by decide +kernel, nofun,
    by decide +kernel, ⟨0, by decide +kernel, by decide +kernel⟩, by decide +kernel⟩

/-- BarrierEntries: a barrier that the slot owns, one that it does not, and an element's wait; fences that stand and that
do not, by their guards and HOLD; and a `bar.aw` that has arrived and one that has not. -/
def barSt : State := State.reset.setCore 0 { bars := [(255, { init := true, owner := 0, cnt := 1, pend := 1 })] }
theorem wit_barriers : guardBit (barSt.myGuard h0) 0 = true ∧ guardBit (barSt.myGuard hNo) 0 = false ∧ (((barSt.core (core0 barSt)).bar 255).init = true ∧
    ((barSt.core (core0 barSt)).bar 255).owner = slotOf (lane0 barSt)) ∧ ((barSt.core (core0 barSt)).bar 0).init = false ∧ FirstFault barSt ∧ barSt.cur.unit < 256 :=
  ⟨rfl, by decide +kernel, by decide +kernel, by decide +kernel, (nofun), by decide⟩
/-- A lane with a load outstanding, and one that an element's `bar.aw` of barrier 255 has arrived for. -/
def standSt : State :=
  { barSt.setCore 0 { reqs := [{ (default : Req) with lane := 0, id := 0, pieces := [{ va := 0x1000, pa := 0x1000, n := 4 }] }] } with nextId := 1 }
def arrivedSt : State := barSt.setCore 0 (({ bars := [(255, { init := true, owner := 0, cnt := 1, pend := 1 })] } : Core).setElem 0 { recs := [(255, { arrived := true, stood := some 0 })] })
theorem wit_barriers_stand : guardBit (guardOf h0 ((standSt.core 0).elem 0)) 0 = true ∧
    fenceWaits standSt 0 2 standSt.nextId false = true ∧ fenceWaits barSt 0 2 barSt.nextId false = false ∧
    (recOf barSt 0 0 255).arrived = false ∧ barOwned barSt 0 255 = true ∧
    (recOf arrivedSt 0 0 255).arrived = true ∧ (recOf arrivedSt 0 0 255).stood ≠ none := by decide +kernel

/-- Generators: counts of one and more, the guard true and false, and counter 3. -/
theorem wit_generators : (∀ k, k < 4 → 1 ≤ (genCtr (genRun { ctrs := [(0, { n := 3, s := 16 }), (1, { n := 2, s := 256 })] }) k).n) ∧ 5 < 3 * 2 * 1 * 1 ∧
    genGuard (genSt .run false false) h0 = true ∧ genGuard (genSt .run false false) hNo = false ∧ 3 < 4 := by decide +kernel

/-! ### A running region: one window on the scratchpad of core 0, one port binding and one engine binding -/

/-- A valid window at virtual 0x1000 to 0x8FFF that reads, writes and takes atomics, of a format and a policy. -/
def winOf (fmt pol : Nat) : Win := ⟨0x1000, 0x9000, 0x4002000000000, 2 ^ 63 + 2 ^ 62 + 2 ^ 61 + 2 ^ 60 + pol * 2 ^ 48 + fmt⟩
def buf0 : Buf := { (default : Buf) with id := 5, mode := 2, size := 0x4000, vaddr := 0x1000 }
def bind0 : Bind := { (default : Bind) with buf := 5, dir := 2 }
def block0 : Block := { (default : Block) with bindCount := 2, engCount := 1 }
def image0 : Image := { (default : Image) with rows := 8, cols := 8, ii := 4, frameInt := 1, size := 128 }
/-- Its program is a `cfg` of image 0 and a `retire`. -/
def cont0 : Container := { (default : Container) with blocks := [block0], bufs := [buf0], binds := [bind0, { bind0 with img := 0xFFFF }],
                                                      images := [image0], progs := [[0x04000000, 0x44000000]] }
def lane0Run (w : Win) : Lane := { rel := some rel0, cwin := [w], hwin := [w], act := 0, banks := [(0, { st := .ready, rows := 8, cols := 8, img := 0 })] }
def crown0 : Crown := { up := true, live := 1, portLive := 1, mapped := true, sec := 2 }
/-- Unit 64, the port tile of row 0, is under way. -/
def runSt (fmt pol : Nat) (v : Val) : State :=
  { (State.reset.setLane 0 (lane0Run (winOf fmt pol))).setCore 0 ((({} : Core)).setElem 0 { latch := v }) with
    works := [work0], conts := [cont0], crown := crown0, cur := { lane := 0, unit := 64, idx := 0 } }

def goes (s : State) (o : OpPort) (indexed : Bool) (acc : Acc3) (f : List Piece → Bool) : Bool :=
  (List.range (portLanes o)).any (guardBit (guardOf o.h (portElem s))) &&
  match genTake (s.myCore.gen (s.myLane.org.1 + o.agen)), s.portBnd (lane0 s) (s.cur.unit - 64) o.bsel with
  | some (off, _), some x =>
    match portPrep s (lane0 s) (s.cur.unit - 64) o indexed acc x off ((List.range (portLanes o)).filter (guardBit (guardOf o.h (portElem s))))
      (portElem s).latch.bits with
    | .ok _ ps => f ps
    | _ => false
  | _, _ => false

theorem port_goes {s : State} {o : OpPort} {indexed : Bool} {acc : Acc3} {f : List Piece → Bool} (h : goes s o indexed acc f = true) :
    ∃ x off g' s1 ps, PortGoes s o indexed acc x off g' s1 ps ∧ f ps = true := by
  unfold goes at h
  rw [Bool.and_eq_true] at h
  obtain ⟨hl, h⟩ := h
  split at h
  · next off g' x ht hb =>
    split at h
    · next s1 ps hp =>
      obtain ⟨j, hj, hg⟩ := List.any_eq_true.mp hl
      exact ⟨x, off, g', s1, ps, ⟨⟨j, List.mem_range.mp hj, hg⟩, ht, hb, hp⟩, h⟩
    · cases h
  · cases h

def rawAll (o : OpPort) (ps : List Piece) : Bool := ps.all fun p => match pairFmt o.ty p.fmt with | .raw => true | _ => false
def storesAll (o : OpPort) (v : Val) (ps : List Piece) : Bool := ps.all fun p => (storeBits o p v).isSome
def portF : OpPort := { port0 with ty := .flt .f32, size := 0 }

/-- PortLoads: a load and an indexed load go ahead; nullified; its sequence ended; and one that leaves the face. -/
theorem wit_loads : goes (runSt 0 0 {}) port0 false .read (fun _ => true) = true ∧ goes (runSt 0 0 {}) { port0 with ty := .flt .f32 } true .read (fun _ => true) = true ∧
    (∀ j, j < portLanes port0 → guardBit (guardOf hNo (portElem (runSt 0 0 {}))) j = false) ∧ genTake { ctrs := [], st := .ended } = none ∧
    (match portPrep (runSt 0 0 {}) 0 0 port0 false .read ⟨0, bind0, buf0⟩ 0x4000 [0] 0 with | .bad _ c _ => decide (c = .window) | _ => false) = true := by decide +kernel

/-- PortStores: a store goes ahead with every lane convertible, and with one that its policy faults. -/
theorem wit_stores : goes (runSt 0 0 {}) portF false .write (storesAll portF {}) = true ∧
    goes (runSt 0x0A 0xFF { bits := 0x7FC00000 }) portF false .write (fun ps => !storesAll portF { bits := 0x7FC00000 } ps) = true ∧
    goes (runSt 0 0 {}) { port0 with ty := .int .i16 } true .write (fun _ => true) = true := by decide +kernel

/-- Atomics: one goes ahead raw, one meets a stored format other than its lanes'; and operands in range of the type. -/
theorem wit_atomics : goes (runSt 0 0 {}) port0 false .atomic (rawAll port0) = true ∧
    goes (runSt 0x0A 0 {}) { port0 with ty := .int .i16 } false .atomic (fun ps => !rawAll { port0 with ty := .int .i16 } ps) = true ∧
    0xFFFFFFFF < 2 ^ ITy.i32.width ∧ 0 < 2 ^ ITy.n8.width := by decide +kernel

/-- PortReductions: an integer and a floating-point reduction go ahead raw; no entry waits, one that merges waits; and few partials. -/
theorem wit_reductions : goes (runSt 0 0 {}) port0 false .atomic (rawAll port0) = true ∧ port0.ty.isInt = true ∧ portF.ty = .flt .f32 ∧
    goes (runSt 0 0 {}) portF false .atomic (fun ps => rawAll portF ps && decide (((ps.map fun p => p.pa / 64).eraseDups).length ≤ 64)) = true ∧
    ((((runSt 0 0 {}).core 0).port 0).queue.getLast? = none) ∧
    mergesWith ⟨1, 0, 0, .rmin, port0.ty, .rne, 0, 1, [{ va := 0x1000, pa := 0x4002000001000 }], 0, 0, none, none, none, false⟩ .rmin port0 0
      [{ va := 0x1004, pa := 0x4002000001004 }] = true := by decide +kernel

/-! ### Engines -/

def rowSt (full : Nat) : State :=
  { runSt 0 0 {} with cur := { lane := 0, unit := 80, idx := 0 } }.setCore 0
    { full, ring := (List.range 32).map fun k => (k, { mode := .s32, m := 16, n := 16 }),
      opm := [(0, { st := .full, sfmt := 0x0A }), (1, { st := .full, sfmt := 0x0A })] }
def rowI : OpRow := { row0 with bs := 1, astep := 0, bstep := 0, rep := 1, adv := true }
def instI (j : Nat) : RowInst := ⟨7, 0, 0, 0, rowI, false, 3, j, 0, true, false, false, false, false, []⟩

/-- MatrixEngine: an advance with room and with none; a row of count zero, one that no check fails, and one that fails each check; a row
under way; a step that lands, by both kinds of format; and each landing of the ring. -/
theorem wit_matrix : (ringRoom (rowSt 0).myCore (rowSt 0).myLane = true ∧ (ringView (rowSt 0).myCore (rowSt 0).myLane).mode ≠ .unset) ∧
    ringRoom (rowSt 31).myCore (rowSt 31).myLane = false ∧ FirstFault (rowSt 0) ∧ currentInst (rowSt 0).myCore 0 0 0 = none ∧
    rowCount (rowSt 0) { rowI with repq := some 3 } = 0 ∧ rowCount (rowSt 0) rowI = 1 ∧ (∀ e, ¬ RowFails (rowSt 0) rowI false 0 1 e) ∧
    RowFails (rowSt 0) { rowI with afmt := none, bfmt := some .fp16 } false 0 1 .reservedCombo ∧ RowFails (rowSt 0) { rowI with as := 9 } false 0 1 .slotClaim ∧
    RowFails (rowSt 31) rowI false 0 1 .ring ∧ (∀ x ∈ (rowSt 0).myCore.rows, x.id ≠ (rowSt 0).nextId) := by
  refine ⟨by decide +kernel, by decide +kernel, ?_, by decide +kernel, by decide +kernel, by decide +kernel, ?_, ?_, ?_, ?_, by decide +kernel⟩
  · unfold FirstFault; decide +kernel
  · intro e; cases e <;> (unfold RowFails; decide +kernel)
  all_goals (unfold RowFails; decide +kernel)

def stepSt (r : RowInst) : State := State.reset.setCore 3 { landing := [(7, r.j)], rows := [r] }
theorem wit_matrix_lands : ((stepSt (instI 2)).core 3).inst 7 = some (instI 2) ∧ ((stepSt (instI 2)).core 3).landing = [(7, 2)] ∧ rowI.m ≤ 16 ∧ rowI.n ≤ 16 ∧
    rowI.afmt = some .int8 ∧ fmtOf (nth5 [] 0 : OpSlot).sfmt = some .fp32 ∧ currentInst { rows := [instI 1] } 0 0 0 = some (instI 1) ∧
    ((landSt (.mmz .f32)).lane 0).flights.length = 1 ∧ ((landSt .radv).lane 0).flights.length = 1 ∧ ((landSt (.pop 1)).lane 0).flights.length = 1 := by decide +kernel

/-! ### The agents around the compute dies, and the Crown -/

def spdmSt (algs fin_ : Bool) : State :=
  { State.reset with crown := { crown0 with attest := true }, fns := [(0, { version := true, caps := true, algs, session := some 5, finished := fin_ })] }

/-- AttestationRequests: requests in order and out of order, of a function that responds and of one that does not. -/
theorem wit_attestation : fnUp (spdmSt true false) 0 = true ∧ (spdmSt true false).crown.attest = true ∧ { spdmSt true false with crown := crown0 }.crown.attest = false ∧ ((spdmSt true false).fn 0).version = true ∧ ((spdmSt true false).fn 0).algs = true ∧
    (((spdmSt true false).fn 0).caps = true ∧ ∀ k, k < 4 → k ∈ [0, 1, 2, 3]) ∧ ((spdmSt true false).fn 0).session ≠ none ∧
    (State.reset.fn 3).version = false ∧ (State.reset.fn 3).session = none ∧ ¬ (∀ k, k < 4 → k ∈ [0, 1, 2]) ∧
    fnUp State.reset 0 = false ∧
    ((spdmSt true true).fn 0).finished = true ∧ ((spdmSt true true).fn 0).tdi = .configUnlocked := by decide +kernel
theorem wit_attestation_finish : ∃ mac k, ((spdmSt true false).fn 0).session = some k ∧ mac = Config.finishMac k ((spdmSt true false).fn 0).transcript :=
  ⟨_, 5, by decide +kernel, rfl⟩

def ptSt (st good : Nat) (epoch : Nat) : State := { State.reset with ptime := { synced := true, st, good, epoch, port := some 0, lastSync := 0 }, now := 3600000000 }
def syncM (g : Nat) : SyncMsg := ⟨0, 0, 0, g, 7⟩

/-- PackageTime: an Announce taken and one of another domain; a first Sync; one within 50 ns, one at the edge of FAR in
either state, one in HOLDOVER; holdover due and not due. -/
theorem wit_package_time : ((⟨3, 0, 5, 7⟩ : AnnMsg).domain = 0 ∧ (⟨3, 0, 5, 7⟩ : AnnMsg).port < 4) ∧ (⟨0, 1, 5, 7⟩ : AnnMsg).domain ≠ 0 ∧
    ({ State.reset with ptime := { port := some 0 } } : State).ptime.synced = false ∧ (syncM 9).domain = 0 ∧ -5 ≤ (syncM 9).logInt ∧ (syncM 9).logInt ≤ 0 ∧
    (ptSt 1 7 0).ptime.port = some (syncM 9).port ∧ (ptSt 1 7 0).ptime.synced = true ∧
    ((ptSt 2 8 0).ptime.st = 2 ∧ (1000000 : Int) < (BitVec.ofInt 64 (((1000001 + stampNs (ptSt 2 8 0) : Nat) : Int) - ((ptSt 2 8 0).ptime.epoch : Int) - stampNs (ptSt 2 8 0))).toInt) ∧
    (ptSt 3 0 0).ptime.st = 3 ∧ (ptSt 2 8 0).ptime.lastSync + 3600000000 ≤ (ptSt 2 8 0).now ∧
    ¬ ({ ptSt 2 8 0 with now := 3599999999 }.ptime.lastSync + 3600000000 ≤ ({ ptSt 2 8 0 with now := 3599999999 } : State).now) := by decide +kernel

def upSt (busy : Bool) (power : Power) : State :=
  { State.reset with crown := crown0, mail := [(2, { busy })], dies := [(0, { power })] }

/-- OutsideAgents: agents up and not; a store and a load of DRAM, of a sleeping die's buffer, and of an address that takes
none; a register of a live die and of one that is not; a free slot and a busy one, and a command that waits for the
map-out, one that acts, and one that is reserved; a packet of 576 bytes before and after the map-out; and a DMA write
refused, asleep at its source or its destination, and made. -/
theorem wit_agents_packet : (List.replicate 576 (0 : Byte)).length = 576 := List.length_replicate
theorem wit_agents_up : reedUp { upSt false .run with now := 600000 * 120 } = true ∧ reedUp (upSt false .run) = false ∧ fnUp (upSt false .run) 0 = true ∧ fnUp (upSt false .run) 1 = false ∧
    (agentReach (upSt false .run) 0x100 8 = true ∧ agentReach (upSt false .hold) 0x4000000000000 8 = true ∧ agentReach (upSt false .run) 0x4020000000000 8 = false) ∧
    (waitsMap (.modereq 1) = false ∧ waitsMap (.aset 0 0 []) = true ∧ (cmdEvent 2 7 (.reserved 0x50)).isNone = true) ∧
    (upSt false .run).crown.live.testBit (dieOf 0) = true ∧ (upSt false .run).crown.live.testBit (dieOf 64) = false ∧ (upSt false .run).homeOf 0x4003000002000 = .sys 0 0x2000 := by
  decide +kernel
theorem wit_agents : ((upSt false .run).crown.up = true ∧ storable (upSt false .run) 0x100 8 = true ∧ (upSt false .run).asleep 0x100 = false) ∧
    (storable (upSt false .hold) 0x4000000000000 8 = true ∧ (upSt false .hold).asleep 0x4000000000000 = true) ∧ storable (upSt false .run) 0x4020000000000 8 = false ∧
    ((upSt false .run).fn 0).responds = true ∧ ((upSt false .run).homeOf 0x4003000001000 = .sys 0 0x1000 ∧ (upSt false .run).crown.live.testBit 0 = true) ∧
    (tblGet {} (upSt true .run).mail 2).busy = true ∧ ((tblGet {} (upSt false .run).mail 2).busy = false ∧ (cmdEvent 2 7 (.modereq 1)).isSome = true ∧ (upSt false .run).crown.mapped = true) ∧
    ({ upSt false .run with crown := { crown0 with mapped := false } } : State).crown.mapped = false ∧
    ((upSt false .run).homeOf 0x40 = .dram 0 ∧ storable (upSt false .run) 0x80 64 = true ∧ (upSt false .run).asleep 0x80 = false) := by decide +kernel

def secSt (sec debug : Nat) (power : Power) (halted : Bool) : State :=
  { State.reset.setLane 1 { halted } with crown := { crown0 with sec, live := 15 }, dies := [(0, { power, debug })], tset := some default }

/-- CrownSecurity: a token too short is refused; one for die 0, and one for a Crown, whose fields fit; a granted session in
each state of the package; a parked die that a request wakes; a request for another die's lane; a halted context; and a
FIELD restart with a table set and without. What a verified image or token needs of the signatures is a premise: the
checks of a signature are constants without a body. -/
theorem wit_crown (image : List Byte) (v : Nat) (hi : imageOk 1 0 image = some v) (tok : List Byte) (ht : tokenSigned 2 tok = true)
    (hf : tokenSigned 0 tok = true) :
    tokenSigned 2 [] = false ∧ ((secSt 3 0 .off false).crown.sec = 3 ∧ (secSt 3 0 .off false).crown.up = true ∧ (1 = 1 ∨ 1 = 3) ∧ imageOk 1 0 image = some v) ∧
    (tokenSigned (secSt 2 0 .run false).crown.sec tok = true ∧ tokenSigned (secSt 0 0 .run false).crown.sec tok = true) ∧
    (cellOk 2 2 .run = true ∧ cellOk 2 2 .off = false ∧ cellOk 0 2 .run = true ∧ (secSt 0 0 .run false).tset ≠ none ∧ { secSt 0 0 .run false with tset := none }.tset = none) ∧
    (dieOf 1 = 0 ∧ 2 ≤ ((secSt 2 2 .hold true).die 0).debug ∧ ((secSt 2 2 .hold true).die 0).power = .hold ∧ (secSt 2 2 .hold true).crown.sec ≠ 0) ∧
    (((secSt 2 1 .park true).die 0).power = .park ∧ (secSt 2 1 .park true).crown.sec = 2 ∧ 1 ≤ ((secSt 2 1 .park true).die 0).debug) ∧
    ((secSt 0 2 .run true).isFirm 1 = false ∧ ((secSt 0 2 .run true).die 0).power = .run) ∧ dieOf 64 ≠ 0 ∧ ((secSt 2 2 .run true).lane 1).halted = true := by
  refine ⟨by decide +kernel, ⟨rfl, rfl, .inl rfl, hi⟩, ⟨ht, hf⟩, ?_, ?_⟩ <;> decide +kernel

theorem sum_bytes (x : Nat) (f : Nat → Nat) (n : Nat) (h : ∀ k, k < n → f k = x / 2 ^ (8 * k) % 256) :
    (List.range n).foldl (fun a k => a + 2 ^ (8 * k) * f k) 0 = x % 2 ^ (8 * n) := by
  induction n with
  | zero => simp [Nat.mod_one]
  | succ n ih =>
    rw [List.range_succ, List.foldl_append, ih fun k hk => h k (by omega)]
    simp only [List.foldl_cons, List.foldl_nil, h n (by omega)]
    rw [show 8 * (n + 1) = 8 * n + 8 by omega, Nat.pow_add, Nat.mod_mul]

/-- The fields of a token of a level for DEVELOPMENT that names dies or Crowns by `mask` and is bound to boot `n`. -/
def tokByte (level mask n k : Nat) : Byte :=
  if k = 8 then BitVec.ofNat 8 level else if k = 9 then 2 else if k = 10 then BitVec.ofNat 8 mask else if k = 11 then 1
  else if 0x50 ≤ k then BitVec.ofNat 8 ((Config.bootNonce n).toNat / 2 ^ (8 * (k - 0x50))) else 0
def tokBytes (level mask n : Nat) : List Byte := (List.range 0x70).map (tokByte level mask n)

theorem tok_at (level mask n k : Nat) (h : k < 0x70) : ((tokBytes level mask n)[k]?).getD 0 = tokByte level mask n k := by
  simp [tokBytes, List.getElem?_map, List.getElem?_range h]

/-- Tokens: a token of level 2 for die 0 and one of level 3 for Crown 0, both bound to the boot under way. -/
theorem wit_token_fields (n : Nat) :
    let b (level mask : Nat) : Bytes := fun (o : Nat) => ((tokBytes level mask n)[o]?).getD 0
    (rd (b 2 1) 8 1 = 2 ∧ rd (b 2 1) 9 1 = (secSt 2 0 .run false).crown.sec ∧ rd (b 2 1) 0x0A 1 = 2 ^ 0 ∧ rd (b 2 1) 0x0B 1 = 1) ∧
    (rd (b 3 16) 8 1 = 3 ∧ rd (b 3 16) 0x0A 1 = 16 * 1) ∧ rd (b 2 1) 0x50 32 = (Config.bootNonce n).toNat := by
  refine ⟨⟨?_, ?_, ?_, ?_⟩, ⟨?_, ?_⟩, (sum_bytes _ _ 32 fun k hk => ?_).trans (Nat.mod_eq_of_lt (Config.bootNonce n).isLt)⟩
  iterate 6 simp [rd, tok_at, tokByte]; try rfl
  show (((tokBytes 2 1 n)[0x50 + k]?).getD 0).toNat = _
  rw [tok_at _ _ _ _ (by omega)]
  simp [tokByte, show 0x50 + k ≠ 8 by omega, show 0x50 + k ≠ 9 by omega, show 0x50 + k ≠ 10 by omega, show 0x50 + k ≠ 11 by omega]

theorem noImage (kind sec : Nat) : imageOk kind sec [] = none := by
  have h : (rd (ofBytes ([] : List Byte)) 0 8 == 0x474D494C41525942) = false := by decide +kernel
  unfold imageOk
  simp only [h, Bool.false_and, Bool.false_eq_true, if_false]

theorem noBoot (c : Crown) (ha : c.slotA = []) (hb : c.slotB = []) : bootSlot 0 c = none := by
  unfold bootSlot
  rw [ha, hb, noImage]; rfl
theorem bootA (c : Crown) (image : List Byte) (v : Nat) (ha : c.slotA = image) (hi : imageOk 1 0 image = some v) : bootSlot 0 c = some (0, v) := by
  unfold bootSlot
  rw [ha, hi]

def bootSt (a b : List Byte) : State := { State.reset with crown := { slotA := a, slotB := b } }
def pwrSt (p : Power) (req : Option Power) : State := { State.reset with crown := crown0, dies := [(0, { power := p, powerReq := req, debug := 2, d1 := true })], fns := [(0, {})] }

/-- PowerAndStart: a supply fault; a PD0 that failed; no image at all, and one that verifies in slot A, the firmware none
or an image that fails; a map-out due and not, its training results none or failing, of dies that are good and that are
not; requests refused and taken, of one die and of all; each state requested, and none; a change to RUN complete and not;
readings at each threshold; and a reset received and due. -/
theorem wit_power (image : List Byte) (v : Nat) (hi : imageOk 1 0 image = some v) : ({ State.reset with rails := false } : State).rails = false ∧
    (State.reset.rails = true ∧ State.reset.crown.pd0Ok = true ∧ bootSlot 0 State.reset.crown = none) ∧ bootSlot 0 (bootSt image []).crown = some (0, v) ∧
    ((bootSt image []).crown.firmware = [] ∧ (∀ x y, [(0 : Byte)] ≠ [] ∧ imageOk x y [] ≠ some 0)) ∧
    (({ State.reset with crown := { pd0Ok := false } } : State).crown.pd0Ok = false) ∧
    (({ State.reset with crown := { up := true } } : State).crown.pd0Ok = true ∧ ({ State.reset with crown := { up := true } } : State).crown.mapped = false ∧
      ({ State.reset with crown := { up := true } } : State).crown.up = true ∧ ({ State.reset with crown := { up := true } } : State).crown.training = [] ∧
      ((State.reset.die 0).bist = true ∧ (State.reset.die 0).dramTrain = true ∧ 0 ∉ linkOut State.reset) ∧
      1 ∈ linkOut { State.reset with crown := { up := true, badLinks := [0] } }) ∧
    (((pwrSt .off none).die 0).power = .off ∧ (pwrSt .run none).crown.live.testBit 1 = false) ∧
    (((pwrSt .run none).die 0).power = .run ∧ (pwrSt .run none).live = [0] ∧ (pwrSt .run none).tset = none ∧ (pwrSt .run none).crown.sec ≠ 3) ∧
    ((pwrSt .run none).die 0).powerReq = none ∧ (∀ p ∈ [Power.run, .hold, .park, .off], ((pwrSt .hold (some p)).die 0).powerReq = some p) ∧
    (({ pwrSt .hold none with dies := [(0, { power := .hold, waking := true, reachAt := 0 })] } : State).die 0).waking = true ∧
    (∃ x ∈ [(104 : Int), 115], 115 ≤ x) ∧ (∀ x ∈ [(114 : Int), 105], x < 115) ∧ (∃ x ∈ [(105 : Int)], 105 ≤ x) ∧ (∀ x ∈ [(104 : Int)], x < 105) ∧
    ((pwrSt .run none).die 0).flrReset = false ∧ (({ State.reset with dies := [(0, { flrReset := true })] } : State).die 0).flrReset = true := by
  refine ⟨rfl, ⟨rfl, rfl, noBoot _ rfl rfl⟩, bootA _ image v rfl hi, ⟨rfl, fun x y => ⟨by decide, by rw [noImage]; decide⟩⟩, ?_⟩
  decide +kernel

/-! ### Commands, registers and queues -/

/-- A Crown up on one live die, with container 0 and a work installed from it. -/
def cmdSt : State := { State.reset with conts := [cont0], crown := crown0, works := [{ work0 with launch := { launch0 with modes := 1 } }], tset := some { (default : TSet) with mode := 1 } }

/-- AddressCommands: a root that is placed and two that are not; a window that may be written and one that may not; a
range that no page covers and one that has none; TLBs that name a page once; and the first host slot. -/
theorem wit_address_commands : (0x2000 % 8192 = 0 ∧ cmdSt.homeOf 0x2000 = .dram 0) ∧ 0x2100 % 8192 ≠ 0 ∧ cmdSt.homeOf 0x6000000000000 = .none ∧
    winOk cmdSt none (winOf 0 0) = true ∧ (Win.valid { winOf 0 0 with offset := 1 } = true ∧ winOk cmdSt none { winOf 0 0 with offset := 1 } = false) ∧
    pinPages cmdSt 1 0x100000 4096 false = none ∧ (pinPages cmdSt 1 0 0 false).isSome = true ∧ lockedCount cmdSt 0 + ([] : List Pre).length ≤ 6144 ∧ ((cmdSt.die 0).tlb.map fun e => (e.workid, e.va)).Nodup ∧ cmdSt.live = [0] := by decide +kernel

/-- OtherCommands: an image that is resident, one that has room and one that has none; an index past the images; an
image pinned and one not; a mode to ask for, the mode in force and one of no work; works and counters found and not; and
destinations of a snapshot. -/
theorem wit_other_commands : cmdSt.conts[0]? = some cont0 ∧ (cont0.reject.isSome = false ∨ cont0.images[1]? = none) ∧ cont0.images[0]? = some image0 ∧
    isResident { cmdSt with resident := [⟨0, 0, 0, 128⟩] } 0 0 = true ∧ (isResident cmdSt 0 0 = false ∧ imageOffset cmdSt image0.size = some 0) ∧
    imageOffset { cmdSt with conts := [{ cont0 with copied := true, copyBytes := 0x400000 }] } image0.size = none ∧ cont0.images[1]? = none ∧
    imagePinned { cmdSt with conts := [{ cont0 with blocks := [{ block0 with imgCount := 1 }] }] } 0 0 = true ∧ imagePinned cmdSt 0 0 = false ∧
    modeInstalled cmdSt 0 = true ∧ modeInstalled cmdSt 1 = false ∧ cmdSt.tset ≠ none ∧ cmdSt.workById 1 ≠ none ∧ cmdSt.workById 2 = none ∧
    (counted cmdSt (laneOf 0 0) 0 0).isSome = true ∧ counted cmdSt (laneOf 0 1) 0 0 = none ∧
    (0x3000 % 4096 = 0 ∧ cmdSt.homeOf 0x3000 = .dram 0) ∧ 0x3040 % 4096 ≠ 0 := by decide +kernel

/-- OtherCommands: container 0 as it stands has no rejection. -/
theorem wit_not_rejected : ({ cont0 with reject := none } : Container).reject = none := rfl

def pendSt (c : Cmd) : State := { cmdSt with pends := [{ (default : Pend) with id := 7, cmd := c }] }
def queueSt (size staged : Nat) : State := { cmdSt with fq := { base := 0x1000, size, staged := List.replicate staged [] } }

/-- CompletionsAndRegisters: a command of each kind pending; an INVAL whose accesses have performed and one with a write
still on its way; a queue empty and not, each size at the bounds of what is legal; room and none. -/
theorem wit_completions : (∀ c ∈ [Cmd.resync 0x3000, .endwork 1, .reserved 0x50, .reside 0 0 true, .inval 1 0x1000 4096 false false],
      (pendSt c).pends.find? (fun q => q.id == 7) = some { (default : Pend) with id := 7, cmd := c }) ∧
    stillOut cmdSt 7 1 0x1000 4096 = false ∧
    stillOut { (cmdSt.setLane 0 { rel := some rel0 }) with flits := [{ (default : Flit) with id := 1, lane := 0, pieces := [{ va := 0x1000, pa := 0x1000, n := 4 }] }] } 7 1 0x1000 4096 = true ∧
    (∃ w ∈ cmdSt.works, w.cont = 0) ∧ (∀ w ∈ cmdSt.works, w.cont ≠ 1) ∧
    ((queueSt 64 0).queue 0).tail = ((queueSt 64 0).queue 0).head ∧ ((64 : Nat) = 2 ^ (6 + 0) ∧ (65536 : Nat) = 2 ^ (6 + 10)) ∧
    (∀ k, k ≤ 10 → (32 : Nat) ≠ 2 ^ (6 + k)) ∧ (0x3000 % 4096 = 0 ∧ cmdSt.homeOf 0x3000 = .dram 0) ∧
    ((queueSt 64 1).queue 0).staged = [[]] ∧ ((queueSt 64 1).queue 0).room = true ∧ ((queueSt 0 1).queue 0).room = false ∧ ((queueSt 64 0).queue 0).staged = [] := by decide +kernel

/-- CompletionsAndRegisters: a container of too few bytes fails; one of 4,096 bytes that names nothing before its signature
block and holds the digest of no bytes fits; whether its signatures fail rests on constants without a body. -/
theorem wit_verify (P : Prop) : ¬ ((4096 : Nat) ≤ 4095 ∧ P) := by omega
def sumSt : State := { State.reset with crown := crown0, mem := memWrite [] 0x10020 (sha512 []) }
theorem wit_verify_fits : (4096 ≤ 4096 ∧ rd (fun (o : Nat) => sumSt.readByte 0 (0x10000 + o)) 0x18 8 ≤ 4096 ∧
    bytesAt (fun (o : Nat) => sumSt.readByte 0 (0x10000 + o)) (4096 - 4096 + 0x20) 64 = sha512 (bytesAt (fun (o : Nat) => sumSt.readByte 0 (0x10000 + o)) 0 0)) ∧
    (∀ k ∈ sumSt.conts, k.digest ≠ leNat (sha512 [])) := by decide +kernel

/-! ### Sequencer steps -/

def laneSt (l : Lane) : State := { State.reset.setLane 0 { l with rel := some rel0 } with works := [work0], conts := [cont0], crown := crown0, cur := { lane := 0, unit := 255, idx := 0 } }
def qOf (v : W64) : Tbl W64 := [(1, v)]

/-- StepFlow: no loop ends here, one repeats, one is over; within an arm and at its end; each condition of `brs` at the
edge of its range; a count of zero and others, with and without an entry of the same `loop`. -/
theorem wit_step_flow : ({ sp := 5 } : Lane).arm = none ∧ (({ sp := 5, loops := [⟨2, 3, 5, 2⟩] } : Lane).loops = [⟨2, 3, 5, 2⟩] ∧ 1 < (⟨2, 3, 5, 2⟩ : LoopEnt).n) ∧
    (⟨2, 3, 5, 1⟩ : LoopEnt).n ≤ 1 ∧ ({ sp := 5, arm := some (3, 5) } : Lane).arm = some (3, 5) ∧ ({ sp := 4, arm := some (3, 5) } : Lane).sp ≠ 5 ∧
    ((laneSt {}).lane 0).getQ 1 = 0 ∧ (((laneSt { q := qOf (-1) }).lane 0).getQ 1).toInt < 0 ∧ 0 ≤ (((laneSt {}).lane 0).getQ 1).toInt ∧
    (((laneSt { q := qOf 3 }).lane 0).getQ 1).toNat ≠ 0 ∧ (∃ x ∈ ((laneSt { sp := 2, loops := [⟨2, 3, 5, 1⟩] }).lane 0).loops, x.src = 2) ∧
    (∀ x ∈ ((laneSt { sp := 2 }).lane 0).loops, x.src ≠ 2) := by decide +kernel

/-- RegisterSteps: banks empty and not; a barrier link at each bound and beside it; a window that is valid, one that is
not, and an attribute that may be written and one that may not. -/
theorem wit_register_steps : ((((laneSt {}).lane 0).bank 0).st = .empty ∧ (((laneSt {}).lane 0).bank 1).st = .empty) ∧
    (((laneSt { banks := [(1, { st := .ready })] }).lane 0).bank 1).st ≠ .empty ∧
    (2 ≤ 0x102 % 8 ∧ 0x102 % 8 ≤ 5 ∧ 1 ≤ 0x102 / 256 % 128 ∧ 0x102 / 256 % 128 ≤ 64) ∧ (0x4005 % 8 ≤ 5 ∧ 0x4005 / 256 % 128 ≤ 64) ∧ ¬ (1 ≤ 0x002 / 256 % 128) ∧
    ((laneSt { hwin := [winOf 0 0] }).lane 0).hwin[0]? = some (winOf 0 0) ∧ Win.valid (winOf 0 0) = true ∧ Win.valid { winOf 0 0 with attr := 0 } = false ∧
    winOk (laneSt {}) (some 0) (winOf 0 0) = true ∧ winOk (laneSt {}) (some 1) (winOf 0 0) = false ∧ (0x101 < 0x600 ∧ 0x600 ≤ 0x600) := by decide +kernel

def emptySt : State := laneSt { hwin := List.replicate 64 (winOf 0 0), banks := [(0, { st := .ready, rows := 8, cols := 8 })] }
/-- ConfigSteps: each reason to wait, no image, an image that is found and fits, one outside the array, one that another
owns; a prefetched bank; a swap and a run in each state of the banks; and what a prefetch finds. -/
theorem wit_config_steps :
    (({ run := true, act := 1 } : Lane).run = true ∧ ({ armed := true } : Lane).armed = true ∧ (({ banks := [(0, { st := .loading })] } : Lane).bank 0).st = .loading) ∧
    (laneSt {}).workRec 0 = some work0 ∧ (work0.cont = 0 ∧ (laneSt {}).conts[0]? = some cont0 ∧ cont0.images[0]? = some image0 ∧ cont0.images[1]? = none) ∧
    (laneSt {}).isFirm 0 = true ∧ (outOfArray ((laneSt {}).lane 0).org image0 = false ∧ (∀ x ∈ loadRects image0 none, ∀ u ∈ rectUnits ((laneSt {}).lane 0).org x.2, unitTaken (laneSt {}) 0 u = false)) ∧
    outOfArray (1, 0) image0 = true ∧ ((laneSt { prefetched := some 0 }).lane 0).prefetched ≠ none ∧ ((laneSt {}).lane 0).prefetched = none ∧
    (((laneSt {}).lane 0).bank 1).st = .empty ∧ ((laneSt { banks := [(1, { st := .ready })] }).lane 0).act = 0 ∧ ((laneSt {}).lane 0).hdr.st = .empty ∧ (emptySt.lane 0).hdr.st = .ready ∧
    (windowsBad (emptySt.lane 0).hwin = false ∧ runCombo emptySt 0 = false) := by decide +kernel
def preEnt : Entry := { entry0 with lane := 0 }
def preWork : Work := { work0 with entries := [preEnt] }
def preSt : State := { laneSt {} with works := [preWork], tset := some default, resident := [⟨0, 0, 0, 128⟩] }
theorem wit_prefetches : Prefetches preSt 0 (entryKey preEnt) 0 0 0 cont0 image0 ∧ isResident preSt 0 0 = true ∧
    ({ preSt.lane 0 with retired := true } : Lane).retired = true ∧ (preSt.lane 0).stop = .none ∧ ((preSt.lane 0).bank 0).st = .empty ∧ outOfArray (0, 0) image0 = false ∧
    (∀ x ∈ loadRects image0 none, ∀ u ∈ rectUnits (0, 0) x.2, tblGet 0 (preSt.core 0).owner u = 0 ∧ unitTaken preSt 0 u = false) :=
  ⟨⟨preWork, preEnt, block0, 0x04000000, 0, [0x44000000], by rfl, rfl, rfl, by rfl, rfl, by rfl, rfl⟩, by decide +kernel, by decide +kernel, by decide +kernel, by decide +kernel, by decide +kernel, by decide +kernel⟩

def trOk (s : State) (ag : Agent) (va n : Nat) (acc : Acc3) (home : Home → Bool) : Bool :=
  match s.translate 0 ag (s.lane 0).hwin 0xFF va n acc false with
  | (s', .ok pa at_ _ _ _) => home (s'.homeOf pa) && !at_.wblk
  | _ => false
def seqSt (l : Lane) : State := laneSt { l with hwin := [winOf 0 0], cwin := [winOf 0 0], banks := [(0, { st := .ready, rows := 8, cols := 8 })] }

/-- OrderingSteps: a step that stands and one that does not, with and without an event since; a barrier that may be set
and one that may not; an arrival at a barrier owned and not; a phase over and not; a fence with nothing before it and
one with an access of its scope; and a publish at once, pending, and of a single-die buffer. -/
theorem wit_ordering_steps : (∃ u, ((seqSt { seq := .wait 3 }).lane 0).seq = .wait u) ∧ ((seqSt {}).lane 0).seq ≠ .wait 0 ∧
    ((seqSt { seq := .wait 3 }).lane 0).waitGen < ({ (default : Group) with count := 1, evAt := 4 } : Group).count ∧
    ((barSt.core 0).bar 255).init = true ∧ ((barSt.core 0).bar 254).init = false ∧ (((barSt.lane 0).barLink.2 = 2 → (barSt.lane 0).barLink.1 = 1) ∧ (barSt.lane 0).barLink.1 ≤ scopeCores barSt 2) ∧
    (({ arr := true, ap := true } : ArrRec).ap ≠ ((barSt.core 0).bar 255).phv) ∧ (0 : Nat) < ({ rels := 1 } : Bar).rels ∧
    fenceWaits (seqSt {}) 0 7 0 true = false ∧
    fenceWaits ((seqSt {}).setCore 0 { reqs := [{ (default : Req) with lane := 0, id := 1, pieces := [{ va := 0x1000, pa := 0x1000, n := 4 }] }] }) 0 7 2 false = true ∧
    (pubBnd (seqSt {}) 0 9 = none ∧ (pubBnd (seqSt {}) 0 5).isSome = true) ∧ pubWaits (seqSt {}) 0 { buf0 with mode := 0 } 1 = false ∧
    ((seqSt { pubSt := some (1, some 0) }).lane 0).pubSt = some (1, some 0) ∧ ((seqSt {}).lane 0).rel = some rel0 := by
  refine ⟨⟨3, by rfl⟩, ?_⟩
  decide +kernel

/-- MemorySteps: an address aligned and one not; a read and a write that translate, the write to a core's scratchpad, with
companions and without; a translation that faults; a store that a blocked page holds; and a request that has come. -/
theorem wit_bytes_written : (upSt false .run).memOff = false ∧ (upSt false .run).homeOf 0x40 = .dram 0 ∧
    ({ upSt false .run with memOff := true } : State).homeOf 0x40 = .dram 0 ∧ (∀ d, (laneSt {}).homeOf 0x4000000000000 ≠ .dram d) := by
  refine ⟨rfl, by decide +kernel, by decide +kernel, ?_⟩
  rw [show (laneSt {}).homeOf 0x4000000000000 = .buf 0 0 by decide +kernel]; nofun

theorem wit_memory_steps : (((laneSt { q := qOf 0x1008 }).lane 0).getQ 1 + BitVec.ofInt 64 0).toNat % 8 = 0 ∧ (((laneSt { q := qOf 0x1008 }).lane 0).getQ 1 + BitVec.ofInt 64 4).toNat % 8 ≠ 0 ∧
    ((laneSt { q := qOf 0x1008 }).lane 0 |>.getQ 1).toNat % 64 ≠ 0 ∧ trOk (seqSt {}) .seq 0x1008 8 .read (fun _ => true) = true ∧
    trOk (seqSt {}) .seq 0x1008 8 .write (fun h => match h with | .ws _ _ => false | _ => true) = true ∧ trOk (seqSt {}) .seq 0x1040 64 .read (fun _ => true) = true ∧
    ([({ (default : Req) with id := 3, ready := true, readyAt := 4 } : Req)].find? (fun x => x.id == 3)).isSome = true ∧ (576 ≤ 512 + (List.replicate 64 (0 : Byte)).length) ∧
    ((seqSt { blockedVa := some 0x1008 }).lane 0).blockedVa ≠ none ∧ ((seqSt {}).lane 0).blockedVa = none ∧ ((seqSt {}).lane 0).heldReq = none ∧
    (match (seqSt {}).translate 0 .seq [winOf 0 0] 0xFF 0xA000 8 .read false with | (_, .fault _ _) => true | _ => false) = true ∧
    (match companionPieces (seqSt {}) 0 8 (companionVas (seqSt {}) 0 0x1008 8) with | (_, .inl c) => c.isEmpty | _ => false) = true ∧
    (match companionPieces (seqSt {}) 0 8 [0x2000] with | (_, .inl [c]) => decide (c.n = 8) | _ => false) = true := by decide +kernel

def mxSt (full : Nat) (opm : Tbl OpSlot) : State := { (laneSt {}).setCore 0 { full, opm } with conts := [{ cont0 with engs := [{ (default : EngRec) with eng := 1, slots := 2 }] }] }
def dbgSt (debug sec : Nat) : State := { laneSt {} with dies := [(0, { debug })], crown := { crown0 with sec } }
/-- BlockSteps: a mode asked for and the mode in force; slots that may be claimed and freed and that may not; a die that
does nothing, halts and traces; and a retirement that waits, that finds work left, and that goes through. -/
theorem wit_block_steps : (∃ m, cmdSt.tset.map (·.mode) = some m ∧ m ≠ 0) ∧ (laneSt {}).isFirm 0 = true ∧
    (0 + 2 ≤ slotLimit ((mxSt 0 []).lane 0).width ∧ (∀ j ∈ [0, 1], ((mxSt 0 []).core 0 |>.slot j).st = .free) ∧ heldSlots ((mxSt 0 []).core 0) + 2 ≤ (engsOf (mxSt 0 []) 0).foldl (fun a e => max a e.slots) 0) ∧
    ((∀ j ∈ [0, 1], ((mxSt 0 [(0, { st := .full }), (1, { st := .empty })]).core 0 |>.slot j).st ≠ .free) ∧ ((mxSt 0 [(0, { st := .filling })]).core 0 |>.slot 0).st = .filling) ∧
    ((dbgSt 0 0).die 0).debug = 0 ∧ 2 ≤ ((dbgSt 2 2).die 0).debug ∧ (2 ≤ ((dbgSt 2 0).die 0).debug ∧ (dbgSt 2 0).crown.sec = 0 ∧ (dbgSt 2 0).isFirm 0 = true) ∧ ((dbgSt 1 2).die 0).debug = 1 ∧
    ((∃ e ∈ engsOf (mxSt 1 []) 0, e.eng.testBit 0 = true) ∧ ((mxSt 1 []).core 0).full ≠ 0) ∧ ((mxSt 0 []).core 0).full = 0 ∧ unpublished (laneSt {}) 0 = false ∧
    unpublished { (seqSt {}).setLane 0 { (seqSt {}).lane 0 with rel := some { rel0 with wrote := [5] } } with conts := [{ cont0 with bufs := [{ buf0 with mode := 0 }] }] } 0 = true := by
  refine ⟨⟨1, by decide +kernel, by decide⟩, ?_⟩
  decide +kernel

/-! ### The epilogue, copies and the Felt -/

def epSt (full : Nat) : State :=
  { (runSt 0 0 {}).setCore 0 { full, ring := [(0, { mode := .s32, m := 16, n := 16 })], opm := [(0, { st := .full, sfmt := 0x0A })] } with cur := { lane := 0, unit := 81, idx := 0 } }
theorem wit_epilogue : ((ringView (epSt 1).myCore (epSt 1).myLane).avail ≠ 0 ∧ (ringView (epSt 0).myCore (epSt 0).myLane).avail = 0) ∧ FirstFault (epSt 0) ∧
    (((epSt 1).myCore.slot 0).st = .full ∧ 0 < slotLimit (epSt 1).myLane.width) ∧ ((epSt 1).myCore.slot 1).st ≠ .full ∧
    (epCfg (epSt 1).myCore).raw = true ∧ ((epSt 1).engBnd (epSt 1).cur.lane 1).isSome = true := by
  refine ⟨by decide +kernel, ?_, by decide +kernel⟩
  unfold FirstFault; decide +kernel

/-- A descriptor of 64 bytes in one dimension, at the address that q1 names, in the core's own scratchpad. -/
def descBytes : List Byte := List.replicate 16 0 ++ [1] ++ List.replicate 15 0 ++ [64] ++ List.replicate 95 0
def copySt (desc : List Byte) : State :=
  { (runSt 0 0 {}).setLane 0 { lane0Run (winOf 0 0) with q := qOf 0x1080 } with
    cur := { lane := 0, unit := 84, idx := 0 }, mem := memWrite [] 0x4002000001080 desc }
def readsAs (s : State) (op : Nat) (dop : Bool) (f : CopyDesc → Bool) (g : Code → Bool) : Bool :=
  match readDesc s 0 op dop 1 with
  | (_, .inl (d, _)) => f d
  | (_, .inr (.inl (c, _))) => g c
  | _ => false
def checkAs (s : State) (op : Nat) (dop : Bool) (f : List Nat → Bool) (g : Code → Bool) : Bool :=
  match copyBnd s 0 1, readDesc s 0 op dop 1 with
  | some x, (s', .inl (d, _)) => match copyCheck s' 0 op d x x dop 0 0 with | .inr ks => f ks | .inl (c, _) => g c
  | _, _ => false

/-- CopyEngine: bindings that stand; a descriptor that is read and one that its check fails; a copy that joins the queue,
one that fills operand slots that are free, and a `wld` to memory that no weight store holds; and a copy that is over. -/
theorem wit_copies : (copyBnd (copySt descBytes) 0 1).isSome = true ∧ (copyBnd (copySt descBytes) 0 0xFF).isSome = true ∧
    readsAs (copySt descBytes) 0 false (fun d => decide (d.total = 64)) (fun _ => false) = true ∧
    readsAs (copySt []) 0 false (fun _ => false) (fun c => decide (c = .reservedCombo)) = true ∧
    checkAs (copySt descBytes) 0 false (fun ks => decide (ks = [])) (fun _ => false) = true ∧
    checkAs ((copySt descBytes).setCore 0 { (copySt descBytes).core 0 with opm := [(0, { st := .empty })] }) 0 true (fun ks => decide (ks.Nodup ∧ ks = [0])) (fun _ => false) = true ∧
    checkAs (copySt descBytes) 4 false (fun _ => false) (fun c => decide (c = .permission)) = true ∧
    (∀ op ∈ [1, 2, 3], readsAs (copySt descBytes) op false (fun _ => true) (fun _ => true) = true) ∧
    ({ (default : CopyOp) with desc := ⟨0, 0, 0, false, 0, 0, [(64, 0, 0)]⟩, st := .running, outIdx := 64 } : CopyOp).outIdx =
      (⟨0, 0, 0, false, 0, 0, [(64, 0, 0)]⟩ : CopyDesc).total := by decide +kernel

def feltSt (f : Felt) (q : Nat) : State :=
  { ((runSt 0 0 {}).setLane 0 { lane0Run (winOf 0 0) with q := qOf (BitVec.ofNat 64 q) }).setCore 0 { (({} : Core)) with felt := f } with cur := { lane := 0, unit := 86, idx := 0 } }
def fx0 : OpFx := { (default : OpFx) with bsel := 1, oq := 1 }

/-- FeltEngine: a load that may start, one whose context is in use and one beyond its buffer; an active context that is
ready and none; a context that loads; samples that are aligned and within their buffer, and not; a write that is
prepared; a region at the array's last row and one above it; and a load that is over, with a bad cell and with none. -/
theorem wit_felt : ((feltSt {} 0).engBnd 0 1).isSome = true ∧ (((feltSt {} 0).felt 0).active ≠ some 0 ∧ ((feltSt {} 0).felt 0).pendAct ≠ some 0 ∧ ((feltSt {} 0).felt 0).ctx 0 ≠ .loading) ∧
    (∀ x, (feltSt {} 0).engBnd 0 1 = some x → sclAt (feltSt {} 0) 0 x 0 (pageOffs 0 32) = false ∧ x.f.mode = 2) ∧
    sclAt ((runSt 0 0 {}).setLane 0 (lane0Run { winOf 0x18 0 with attr := (winOf 0 0).attr + 2 ^ 32 })) 0 ⟨1, bind0, buf0⟩ 0 [0] = true ∧
    ((feltSt { active := some 0, ctxs := [(0, .ready)] } 0).felt 0).active = some 0 ∧ ((feltSt { active := some 0, ctxs := [(0, .ready)] } 0).felt 0).ctx 0 = .ready ∧
    buf0.size < 0x4000 - 32 + 32 * 2 ∧ 0x4000 - 32 + 32 ≤ buf0.size ∧ FirstFault (feltSt {} 0) ∧
    ((feltSt { ctxs := [(0, .loading)] } 0).felt 0).ctx 0 = .loading ∧
    (((feltSt {} 64).myLane.getQ 1).toNat % 64 = 0 ∧ ((feltSt {} 64).myLane.getQ 1).toNat + 256 * 2 ^ 0 ≤ buf0.size) ∧ ((feltSt {} 65).myLane.getQ 1).toNat % 64 ≠ 0 ∧
    (match (feltSt {} 0).engBnd 0 1 with
     | some x => (match engRows (feltSt {} 0) 0 .felt x (feltRows x (feltSt {} 0).myLane.width [(0, [1, 2])]) (feltSt {} 0) with | .ok _ _ => true | _ => false)
     | none => false) = true ∧
    8 ≤ (feltSt {} 0).myLane.org.1 + (feltSt {} 0).myLane.hdr.rows ∧
    ({ (feltSt {} 0).myLane with banks := [(0, { st := .ready, rows := 7 })] } : Lane).hdr.rows + (feltSt {} 0).myLane.org.1 < 8 ∧
    (¬ ∃ y ∈ ({} : Felt).cells, y.1 / 4096 = 0 ∧ y.2.bad = true) := by
  refine ⟨by decide +kernel, by decide +kernel, ?_, by decide +kernel, by decide +kernel, by decide +kernel, by decide +kernel, by decide +kernel, ?_, ?_⟩
  · intro x hx
    obtain rfl : (⟨1, { bind0 with img := 0xFFFF }, buf0⟩ : Bnd) = x := Option.some.inj (by rw [← hx]; decide +kernel)
    decide +kernel
  · unfold FirstFault; decide +kernel
  · decide +kernel

/-! ### Events of a running package -/

def regSt (l : Lane) : State := laneSt l
def wEnt (kind : WKind) (pa : Nat) : WEnt := ⟨1, 0, 0, kind, .int .i32, .rne, 0, 0, [{ va := 0x1000, pa, n := 4 }], 0, 0, some 0, none, none, false⟩
def hotEnt : TlbEnt := { workid := 1, va := 0x1000, size := 4096, leaf := 0, heat := 256 }
/-- A request of port 0 for one piece at `pa`, due now, with an atomic on the same bytes queued before it or none. -/
def replySt (pa : Nat) (queue : List WEnt) : State :=
  (laneSt {}).setCore 0 { reqs := [{ (default : Req) with id := 4, unit := 0, pieces := [{ va := 0x1000, pa, n := 4, due := some 0 }] }],
                          ports := [(0, { tlb := [hotEnt], queue, ahead := [⟨0, 0, 0x3000, 0⟩] })], owner := [(64, 1)] }
def flip0 : Flip := ⟨6, 1, 5, 0, 0, false, false, 2, none, [0]⟩

/-- RegionEvents: a load due and none; intervals in, at the end of and beyond the trips, with and without a frame's end and
a swap armed; a lane of the group that has arrived, and a flip the event makes; a flip under way; a reply whose bytes may
come, one that is not due, one whose memory sleeps and one behind an atomic; a page that a port's lookahead awaits and one
that none does; and a page that is hot and one that is not. -/
theorem wit_region_events : (((regSt { banks := [(0, { st := .loading, readyAt := 0 })] }).lane 0).bank 0).st = .loading ∧ (((regSt {}).lane 0).bank 0).st = .empty ∧
    ((regSt { ended := true }).lane 0).ended = true ∧ ((regSt { intdone := 1, trips := 2 }).lane 0).intdone + 1 = ((regSt { intdone := 1, trips := 2 }).lane 0).trips ∧
    ((regSt { frameLeft := 1, armed := true }).lane 0).frameLeft = 1 ∧ ((regSt { frameLeft := 1, armed := true }).lane 0).armed = true ∧
    laneGroup ((regSt { arrived := true }).lane 0) = some (1, rel0.entry.fgroup) ∧ ((regSt { arrived := true }).lane 0).arrived = true ∧
    (({ laneSt {} with flips := [flip0] } : State).flips.find? (fun x => x.id == 6) = some flip0 ∧ flip0.when_ = none ∧ flip0.done ≤ ({ (default : Group) with last := 2 } : Group).last) ∧
    (((replySt 0x1000 []).findReq 4).map fun x => (x.1, x.2.away, x.2.pieces.all fun p => dueNow (replySt 0x1000 []) p && !(replySt 0x1000 []).asleep p.pa &&
      !pieceWaits (replySt 0x1000 []) 0 x.2 p && ((replySt 0x1000 []).farDie 0 p.pa).isNone)) = some (0, 0, true) ∧
    dueNow (replySt 0x1000 []) { va := 0x1000, pa := 0x1000, n := 4 } = false ∧
    (dueNow { replySt 0x4000000000000 [] with dies := [(0, { power := .hold })] } { va := 0x1000, pa := 0x4000000000000, n := 4, due := some 0 } = true ∧
      ({ replySt 0x4000000000000 [] with dies := [(0, { power := .hold })] } : State).asleep 0x4000000000000 = true) ∧
    pieceWaits (replySt 0x1000 [wEnt .aadd 0x1000]) 0 { (default : Req) with id := 4, unit := 0 } { va := 0x1000, pa := 0x1000, n := 4, due := some 0 } = true ∧
    (aheadWaits (replySt 0x1000 []) 0 0x3000 = true ∧ aheadWaits (replySt 0x1000 []) 0 0x5000 = false) ∧
    (((replySt 0x1000 []).core 0).port 0).tlb.find? (fun e => e.va == 0x1000 && decide (((replySt 0x1000 []).die 0).hotThresh ≤ e.heat)) = some hotEnt ∧
    (((replySt 0x1000 []).core 0).port 0).tlb.find? (fun e => e.va == 0x2000 && decide (((replySt 0x1000 []).die 0).hotThresh ≤ e.heat)) = none := by decide +kernel

def wqSt (kind : WKind) (pa : Nat) : State := { (laneSt {}).setCore 0 { ports := [(0, { queue := [wEnt kind pa] })] } with now := 240 }
def flit0 : Flit := ⟨9, 0, 4, 0, 0, false, .step 0, 0, [{ va := 0x1000, pa := 0x1000, n := 8, data := [1, 2, 3, 4, 5, 6, 7, 8] }], []⟩
def barLandSt (pend : Nat) : State := (laneSt {}).setCore 0 { bars := [(3, { init := true, owner := 0, cnt := 2, pend, scope := 2 })], arrivals := [⟨8, 0, 0, 3, 0⟩] }
def round0 : Round := ⟨5, 3, 2, 0, 1, [0], 0, some 2, false⟩

/-- WriteAndBarrierEvents: a store sent to the die's own buffer; an atomic 240 cycles on, and one answered; a flit of a
sequencer that nothing overtook and one that a later flit of its route did; an arrival that counts, one that ends a round, and one at a barrier of no owner; and a round. -/
theorem wit_writes_and_barriers : ((((wqSt .store 0x4000000000000).core 0).port 0).queue = [wEnt .store 0x4000000000000]) ∧ (wEnt .store 0).sent ≠ none ∧
    (∀ p ∈ (wEnt .store 0x4000000000000).pieces, p.done = false ∧ (wqSt .store 0).homeOf p.pa = .buf 0 0) ∧
    ((wEnt .aadd 0).kind ≠ .store ∧ 0 + 240 ≤ (wqSt .aadd 0).now ∧ ∃ p ∈ (wEnt .aadd 0).pieces, p.done = false) ∧
    ({ laneSt {} with flits := [flit0] } : State).flits.find? (fun x => x.id == 9) = some flit0 ∧ (∀ p ∈ flit0.pieces, (laneSt {}).asleep p.pa = false) ∧ flit0.overtaken = [] ∧
    (0x4000000000000 ∈ ({ flit0 with overtaken := [0x4000000000000] } : Flit).overtaken ∧ ∀ b, (laneSt {}).homeOf 0x4000000000000 ≠ .dram b) ∧
    (((barLandSt 2).core 0).arrivals.find? (fun x => x.id == 8)).isSome = true ∧ (((barLandSt 2).core 0).bar 3).pend ≠ 1 ∧
    (((barLandSt 1).core 0).bar 3).pend = 1 ∧ (((barLandSt 0).core 0).bar 3).pend = 0 ∧ (barLandSt 1).faults = [] ∧
    ({ laneSt {} with rounds := [round0] } : State).rounds.find? (fun x => x.id == 5) = some round0 ∧ round0.cores.Nodup := by
  refine ⟨by decide +kernel, by decide +kernel, by decide +kernel, by decide +kernel, by decide +kernel, by decide +kernel, by decide, ⟨by decide, fun b => ?_⟩, ?_⟩
  · rw [show (laneSt {}).homeOf 0x4000000000000 = .buf 0 0 by decide +kernel]; nofun
  · decide +kernel

def ev0 : FaultEv :=
  { (default : FaultEv) with id := 3, lane := 0, unit := 0, code := Code.convert.num, workid := 1, precise := true, time := 0, decideAt := 0 }
def faultSt (policy : Nat) (l : Lane) : State :=
  { (laneSt l) with faults := [ev0], works := [{ work0 with launch := { launch0 with levels := [{ (default : Level) with domain := 0, policy }] } }] }

/-- Containment: an event its die may decide, under each policy of the one level it climbs to; one whose block is gone;
a retry due of a step and of an entry; and a block that is doomed and one that is not. -/
theorem wit_containment : (faultSt 0 {}).faults.find? (fun x => x.id == ev0.id) = some ev0 ∧ (∀ x ∈ (faultSt 0 {}).faults, x = ev0) ∧
    ((faultSt 0 {}).die (dieOf ev0.lane)).decided ≠ (faultSt 0 {}).now + 1 ∧ overtaken (faultSt 0 { retired := true }) ev0 = true ∧
    ({ (default : Release) with entry := { entry0 with deadline := 4 }, kind := .firm } : Release).kind = .firm ∧
    (((regSt { retry := [(255, 0, 0)] }).lane 0).retry.filter fun r => r.2.2 ≤ (regSt {}).tick) = [(255, 0, 0)] ∧
    (((regSt { retry := [(0, 0, 0)] }).lane 0).retry.filter fun r => r.2.2 ≤ (regSt {}).tick) = [(0, 0, 0)] ∧
    isDoomed ((regSt { doom := [(0, 0)] }).lane 0) = true ∧ isDoomed ((regSt {}).lane 0) = false ∧ ((regSt {}).workById rel0.entry.workid).isSome = true := by decide +kernel

def farSt (policy dom : Nat) : State :=
  { laneSt {} with works := [{ work0 with launch := { launch0 with levels := [{ (default : Level) with domain := dom, policy }] } }] }.setLane 0
    { rel := some { rel0 with entry := { entry0 with deadline := 100, elastic := true } } }
/-- Containment: the events that are ignored, tried again and restarted, none of them overtaken. -/
theorem wit_decisions : (overtaken (farSt 0 0) ev0 = false ∧ decisionOf (farSt 0 0) ev0 = .ignore 0) ∧ decisionOf (farSt 1 4) ev0 = .retry 0 ∧
    decisionOf (farSt 1 0) ev0 = .restart 0 := by decide +kernel

def elEnt : Entry := { entry0 with elastic := true }
def erel0 : ERel := { id := 2, entry := elEnt, rel := { rel0 with entry := elEnt, kind := .elastic } }
def entSt (e : Entry) (es : List ERel) (l : Lane) : State := { laneSt l with works := [{ work0 with entries := [e] }], tset := some default, elastics := es, queues := [(0, es.map (·.id))] }
def sav0 : Saved := { (default : Saved) with lane := {} }

/-- An elastic block that binds the matrix engine, which slot 1 of the core holds. -/
def heldSt : State := { (entSt elEnt [erel0] {}).setCore 0 { owner := [(uEng 0, 2)] } with
  conts := [{ cont0 with engs := [{ (default : EngRec) with eng := 1 }] }] }
/-- A saved block with a load of an address that no page covers. -/
def savAway : Saved :=
  { sav0 with core := { reqs := [{ (default : Req) with id := 9, lane := 0, unit := 0, pieces := [{ va := 0x100000, pa := 0x1000, n := 4 }] }] } }

/-- BlockEvents: a firm entry and an elastic one of the mode in force, released and not, prefetched, another prefetched
and none; an engine that is free and one that another slot holds; a queue with an entry admitted later; a block that runs,
in a tick and at its start, its stop due and not; one being saved; one that may resume, and one whose page is away; and
releases of each kind that have not retired. -/
theorem wit_block_events : erelOf (entSt entry0 [] {}) 0 (entryKey entry0) = none ∧ (entryAt (entSt entry0 [] {}) 0 (entryKey entry0)).isSome = true ∧
    (erelOf (entSt elEnt [erel0] {}) 0 (entryKey elEnt)).isSome = true ∧ (entryAt (entSt elEnt [] {}) 0 (entryKey elEnt)).isSome = true ∧
    ((entSt elEnt [erel0] { erun := some 2 }).lane 0).erun ≠ none ∧ ((entSt elEnt [erel0] { erun := some 2 }).lane 0).stop = .none ∧
    ({ entSt elEnt [erel0] {} with now := 1 } : State).now % 120 ≠ 0 ∧ (entSt elEnt [erel0] {}).now % 120 = 0 ∧ ((entSt elEnt [] {}).lane 0).erun = none ∧
    (((entSt elEnt [erel0] { erun := some 2, stop := .saving 0 .yielded }).lane 0).stop = .saving 0 .yielded ∧ (entSt elEnt [erel0] {}).elastics.find? (fun e => e.id == 2) = some erel0) ∧
    pickElastic (entSt elEnt [{ erel0 with saved := some sav0 }] {}) 0 = some { erel0 with saved := some sav0 } ∧
    (∀ b ∈ [sav0.lane.bank 0, sav0.lane.bank 1], b.st = .empty) ∧
    (engineTaken (entSt elEnt [erel0] {}) 0 erel0 = false ∧ engineTaken heldSt 0 erel0 = true) ∧
    (((entSt entry0 [] { prefetched := some (entryKey entry0) }).lane 0).prefetched = some (entryKey entry0) ∧
      ((entSt entry0 [] { prefetched := some 77 }).lane 0).prefetched ≠ some (entryKey entry0) ∧ ((entSt entry0 [] {}).lane 0).prefetched = none) ∧
    (admitted (entSt elEnt [{ erel0 with entry := { elEnt with idx := 3 } }] {}) elEnt = (0, 0) ∧
      admitted (entSt elEnt [{ erel0 with entry := { elEnt with idx := 3 } }] {}) { elEnt with idx := 3 } = (0, 3)) ∧
    ((entSt elEnt [erel0] { erun := some 2, stop := .due .page }).lane 0).stop = .due .page ∧
    (redoBlock ((entSt elEnt [erel0] {}).setLane 0 (resumedLane (entSt elEnt [erel0] {}) 0 erel0 sav0)) 0 sav0).1.absent = none ∧
    (redoBlock ((entSt elEnt [erel0] {}).setLane 0 (resumedLane (entSt elEnt [erel0] {}) 0 erel0 savAway)) 0 savAway).1.absent = some (0, 0x100000) ∧
    ((laneSt {}).lane 0).retired = false ∧ rel0.kind = .firm ∧ ({ rel0 with kind := .fallback } : Release).kind = .fallback := by decide +kernel

def modeSt : State := { cmdSt with modeReqs := [⟨0, 3, 0, 0, 0, 0, 1⟩, ⟨0, 2, 9, 0, 0, 0, 1⟩], now := 8 * 120 }
def item0 : Item := { (default : Item) with id := 4, packet := some [] }

/-- TableEvents: works named once, requests due and not due; a packet whose container is copied, has no room, and is to be
copied; a packet under judgement whose container is not known; and
a work installed and none. -/
theorem wit_table_events : (cmdSt.works.map (·.workid)).Nodup ∧ (modeSt.tset.map fun x => ((modeSt.modeReqs.filter fun r => decide (r.tick + 8 ≤ modeSt.tick) && r.mode != x.mode).length, x.mode)) = some (1, 1) ∧
    ((modeSt.modeReqs.filter fun r => decide (r.tick + 8 ≤ cmdSt.tick) && r.mode != 1) = []) ∧ modeSt.tset ≠ none ∧ State.reset.tset = none ∧
    ({ cmdSt with stream := [item0], conts := [] } : State).stream.find? (fun y => y.id == item0.id) = some item0 ∧ item0.packet = some [] ∧
    cmdSt.workById 1 ≠ none ∧ cmdSt.workById 7 = none ∧
    (((cmdSt.conts.find? fun c => c.digest == field [] 0x48 64).map fun c => (c.copied, c.reject, copyOffset cmdSt c.copyBytes, c.copyBytes, (c.copySecs.map (·.2)).sum)) =
      some (false, none, some 0x400000, 0, 0)) ∧ copyOffset cmdSt 0x400001 = none := by decide +kernel

/-! ### Encodings and steps -/

/-- DecodeOfEncode, EncodeOfDecode: a step, an element, a port, a generator and an engine entry of the spec's own words. -/
theorem wit_encodings : (Instr.setq 4 64).wf = true ∧ encode (.setq 4 64) = some (32, 0x21000040) ∧ decodeStep 0x21000040 = .ok (.setq 4 64) ∧
    (∃ i, decodeElement 0x000F009109108000 = .ok i ∧ i.wf = true ∧ encode i = some (64, 0x000F009109108000)) ∧
    (∃ i, decodePort 0x002700C900400000 = .ok i ∧ i.wf = true ∧ encode i = some (64, 0x002700C900400000)) ∧
    (∃ i, decodeGen 0x002700A000000002 = .ok i ∧ i.wf = true ∧ encode i = some (64, 0x002700A000000002)) ∧
    (∃ o, decodeEngine 0 0x0002004002000070002F017F8BEA510E = .ok (.mm o) ∧ (Instr.mm o).wf = true ∧ o.combo false = false ∧
      encode (.mm o) = some (128, 0x0002004002000070002F017F8BEA510E)) := by
  refine ⟨by decide +kernel, by decide +kernel, rfl, ⟨_, rfl, by decide +kernel, by decide +kernel⟩, ⟨_, rfl, by decide +kernel, by decide +kernel⟩,
    ⟨_, rfl, by decide +kernel, by decide +kernel⟩, ⟨_, rfl, by decide +kernel, by decide +kernel, by decide +kernel⟩⟩

def agendaSt (x : Todo) : State := { laneSt { prog := [0x21000040], banks := [(0, { st := .ready })] } with agenda := [x] }
/-- StepRunsTheDecoded: a step that stands in the program, one past its end, an entry of a timed list, an event, and a
table word. MemoryStaysCanonical: a memory in its form, a step and what it leaves. -/
theorem wit_step : ((agendaSt (.issue 0)).lane 0).prog[((agendaSt (.issue 0)).lane 0).sp]? = some 0x21000040 ∧ ((agendaSt (.issue 0)).lane 0).sp < 1 ∧
    ({ ((agendaSt (.issue 0)).lane 0) with sp := 1 } : Lane).prog.length ≤ 1 ∧
    ((({} : Core)).setList 0 0 [0x000F009109108000]).list 0 0 = [0x000F009109108000] ∧ (agendaSt (.event .mapOut)).agenda = [.event .mapOut] ∧
    (decodeTableWord 32 0x21000040).isSome = true ∧ Memory.wf [(1, 5), (2, 7)] = true ∧
    (match step { agendaSt (.issue 0) with mem := [(1, 5), (2, 7)] } with | .next t => Memory.wf t.mem | _ => false) = true := by decide +kernel

/-! ### A packet that passes every check -/

/-- A launch record of one level, die 0 and mode 0 of table set 1, with no entries; and its packet, for tick 100. -/
def recBytes : List Byte :=
  leBytes 8 0x31524C4C41525942 ++ List.replicate 64 0 ++ [1, 0, 1, 1, 1, 0, 0, 0] ++ List.replicate 32 0 ++ [0, 5, 2, 0, 1] ++ List.replicate 395 0
def packet0 : List Byte := leBytes 8 0x31504C4C41525942 ++ leBytes 8 100 ++ [9, 0, 0xFF, 0xFF] ++ List.replicate 44 0 ++ recBytes
def contP : Container := { (default : Container) with frags := [{ (default : Frag) with tset := 1, dies := 1, period := 1000 }], template := recBytes, copied := true }
def admitSt : State := { State.reset with crown := crown0, conts := [contP], stream := [{ item0 with packet := some packet0 }] }

/-- TableEvents: a packet that its checks and its placement pass. -/
theorem wit_admission_length : packet0.length = 576 ∧ contP.copied = true := by decide +kernel
theorem wit_admission : matchesTemplate (packet0.drop 64) contP.template = true ∧ (check2 admitSt (packetOf packet0 0 contP) packet0).isNone = true ∧
    (check3 admitSt (packetOf packet0 0 contP)).isNone = true ∧ (check4 (packetOf packet0 0 contP)).isNone = true ∧
    (match placePacket admitSt (packetOf packet0 0 contP) with | .inl _ => true | .inr _ => false) = true ∧
    (check5 admitSt (packetOf packet0 0 contP) []).isNone = true ∧ (check6 admitSt (packetOf packet0 0 contP) [0] []).isNone = true ∧
    (check7 admitSt (packetOf packet0 0 contP) []).isNone = true ∧ (check8 admitSt (packetOf packet0 0 contP) [] false).isLeft = true ∧
    (check9 admitSt (packetOf packet0 0 contP) []).isNone = true ∧ (packetOf packet0 0 contP).entries = [] := by decide +kernel
end Sys2Proof.Tests
end

section
/-! Element entries, said once for every instruction that computes lanes: what clearing FRESH bits changes (R183), what
the result of an entry is (R185 to R189), and when the common rules R191 to R196 give what the statements ask. -/

open Sys2Proof Sys2Proof.Machine Sys2Proof.Slice0

namespace Sys2Proof.ElementEntries

/-! ## FRESH bits (R183) -/

/-- One step of `clearFresh`: the FRESH bit of the edge a source names falls, where the slot owns that edge. -/
def dropFresh (slot u : Nat) (c : Core) (a : Src) : Core :=
  match Src.dir a with
  | some d => if edgeUnit c slot u d then setEdge c u d { edgeLatch c u d with fresh := false } else c
  | none => c

theorem clearFresh_eq (s : State) (h : Hdr) (srcs : List Src) :
    clearFresh s h srcs =
      if h.hold then s.modCore (coreOf s.cur.lane) fun c => srcs.foldl (dropFresh (slotOf s.cur.lane) s.cur.unit) c else s := rfl

/-- A core from which only FRESH bits may have fallen. -/
structure FreshFalls (c c' : Core) : Prop where
  core : c' = { c with north := c'.north, south := c'.south, gens := c'.gens, ports := c'.ports }
  gens : ∀ r, c'.gen r = { c.gen r with latch := (c'.gen r).latch }
  ports : ∀ r, c'.port r = { c.port r with latch := (c'.port r).latch }
  edges : ∀ u dir, (edgeLatch c' u dir).val = (edgeLatch c u dir).val

theorem FreshFalls.refl (c : Core) : FreshFalls c c := ⟨rfl, fun _ => rfl, fun _ => rfl, fun _ _ => rfl⟩

theorem FreshFalls.trans {a b c : Core} (hab : FreshFalls a b) (hbc : FreshFalls b c) : FreshFalls a c where
  core := by rw [hbc.core, hab.core]
  gens r := by rw [hbc.gens r, hab.gens r]
  ports r := by rw [hbc.ports r, hab.ports r]
  edges u dir := (hbc.edges u dir).trans (hab.edges u dir)

/-- The cases are the directions of `edgeLatch`: 0 north, 1 east, 2 south, and any other west. -/
theorem setEdge_falls (c : Core) (u d : Nat) :
    FreshFalls c (setEdge c u d { edgeLatch c u d with fresh := false }) := by
  match d with
  | 0 =>
    refine ⟨rfl, fun _ => rfl, fun _ => rfl, fun v dir => ?_⟩
    match dir with
    | 0 => by_cases h : v % 8 = u % 8 <;> simp [setEdge, edgeLatch, h]
    | 1 | 2 | _ + 3 => rfl
  | 1 =>
    refine ⟨rfl, fun r => ?_, fun _ => rfl, fun v dir => ?_⟩
    · by_cases h : r = u / 8 <;> simp [setEdge, edgeLatch, h]
    · match dir with
      | 1 => by_cases h : v / 8 = u / 8 <;> simp [setEdge, edgeLatch, h]
      | 0 | 2 | _ + 3 => rfl
  | 2 =>
    refine ⟨rfl, fun _ => rfl, fun _ => rfl, fun v dir => ?_⟩
    match dir with
    | 2 => by_cases h : v % 8 = u % 8 <;> simp [setEdge, edgeLatch, h]
    | 0 | 1 | _ + 3 => rfl
  | _ + 3 =>
    refine ⟨rfl, fun _ => rfl, fun r => ?_, fun v dir => ?_⟩
    · by_cases h : r = u / 8 <;> simp [setEdge, edgeLatch, h]
    · match dir with
      | _ + 3 => by_cases h : v / 8 = u / 8 <;> simp [setEdge, edgeLatch, h]
      | 0 | 1 | 2 => rfl

theorem edgeLatch_setEdge_same (c : Core) (u d : Nat) (e : EdgeLatch) : edgeLatch (setEdge c u d e) u d = e := by
  match d with
  | 0 | 1 | 2 | _ + 3 => simp [setEdge, edgeLatch]

theorem edgeLatch_setEdge_other (c : Core) (u : Nat) (e : EdgeLatch) {d dir : Nat} (hd : d < 4) (hdir : dir < 4) (h : dir ≠ d) :
    edgeLatch (setEdge c u d e) u dir = edgeLatch c u dir := by
  match d, dir with
  | 0, 1 | 0, 2 | 0, 3 | 1, 0 | 1, 2 | 1, 3 | 2, 0 | 2, 1 | 2, 3 | 3, 0 | 3, 1 | 3, 2 => rfl
  | 0, 0 | 1, 1 | 2, 2 | 3, 3 => exact absurd rfl h

@[simp] theorem edgeUnit_setEdge (c : Core) (u d : Nat) (e : EdgeLatch) (slot v dir : Nat) :
    edgeUnit (setEdge c u d e) slot v dir = edgeUnit c slot v dir := by
  match d with
  | 0 | 1 | 2 | _ + 3 => rfl

theorem dir_lt_four {a : Src} {d : Nat} (h : Src.dir a = some d) : d < 4 := by
  cases a <;> simp [Src.dir] at h <;> omega

/-- `Names`, as a test. -/
def namesDir (srcs : List Src) (dir : Nat) : Bool := srcs.any fun a => Src.dir a == some dir

theorem namesDir_iff (srcs : List Src) (dir : Nat) : namesDir srcs dir = true ↔ Names srcs dir := by
  simp [namesDir, Names]

theorem dropFresh_falls (slot u : Nat) (c : Core) (a : Src) : FreshFalls c (dropFresh slot u c a) := by
  unfold dropFresh
  split
  · split
    · exact setEdge_falls c u _
    · exact .refl c
  · exact .refl c

@[simp] theorem edgeUnit_dropFresh (slot u : Nat) (c : Core) (a : Src) (k v dir : Nat) :
    edgeUnit (dropFresh slot u c a) k v dir = edgeUnit c k v dir := by
  unfold dropFresh
  split
  · split <;> simp
  · rfl

/-- What one source does to an edge latch of its own unit. -/
theorem edgeLatch_dropFresh (slot u : Nat) (c : Core) (a : Src) {dir : Nat} (hdir : dir < 4) :
    edgeLatch (dropFresh slot u c a) u dir =
      if Src.dir a = some dir ∧ edgeUnit c slot u dir = true then { edgeLatch c u dir with fresh := false }
      else edgeLatch c u dir := by
  unfold dropFresh
  cases hd : Src.dir a with
  | none => simp
  | some d =>
    by_cases he : dir = d
    · subst he
      by_cases hu : edgeUnit c slot u dir = true <;> simp [hu, edgeLatch_setEdge_same]
    · have hne : d ≠ dir := Ne.symm he
      by_cases hu : edgeUnit c slot u d = true <;> simp [hu, hne, edgeLatch_setEdge_other c u _ (dir_lt_four hd) hdir he]

theorem foldl_dropFresh_falls (slot u : Nat) (srcs : List Src) : ∀ c : Core, FreshFalls c (srcs.foldl (dropFresh slot u) c) := by
  induction srcs with
  | nil => exact .refl
  | cons a srcs ih => exact fun c => (dropFresh_falls slot u c a).trans (ih _)

theorem edgeLatch_foldl_dropFresh (slot u : Nat) {dir : Nat} (hdir : dir < 4) (srcs : List Src) : ∀ c : Core,
    edgeLatch (srcs.foldl (dropFresh slot u) c) u dir =
      if namesDir srcs dir = true ∧ edgeUnit c slot u dir = true then { edgeLatch c u dir with fresh := false }
      else edgeLatch c u dir := by
  induction srcs with
  | nil => simp [namesDir]
  | cons a srcs ih =>
    intro c
    rw [List.foldl_cons, ih, edgeLatch_dropFresh slot u c a hdir, edgeUnit_dropFresh]
    have hn : namesDir (a :: srcs) dir = (Src.dir a == some dir || namesDir srcs dir) := rfl
    by_cases hu : edgeUnit c slot u dir = true <;> by_cases ha : Src.dir a = some dir <;> simp [hn, hu, ha]

/-! ## clearFresh and send together -/

@[simp] theorem clearFresh_cur (s : State) (h : Hdr) (srcs : List Src) : (clearFresh s h srcs).cur = s.cur := by
  rw [clearFresh_eq]; split <;> rfl

@[simp] theorem clearFresh_lane (s : State) (h : Hdr) (srcs : List Src) (l : Nat) : (clearFresh s h srcs).lane l = s.lane l := by
  rw [clearFresh_eq]; split <;> rfl

@[simp] theorem clearFresh_myLane (s : State) (h : Hdr) (srcs : List Src) : (clearFresh s h srcs).myLane = s.myLane := by
  simp [State.myLane]

theorem clearFresh_only (s : State) (h : Hdr) (srcs : List Src) : clearFresh s h srcs = { s with cores := (clearFresh s h srcs).cores } := by
  rw [clearFresh_eq]; split <;> rfl

theorem clearFresh_core_other (s : State) (h : Hdr) (srcs : List Src) {c : Nat} (hc : c ≠ core0 s) :
    (clearFresh s h srcs).core c = s.core c := by
  rw [clearFresh_eq]; split
  · rw [core_modCore, if_neg hc]
  · rfl

theorem clearFresh_core_own (s : State) (h : Hdr) (srcs : List Src) :
    (clearFresh s h srcs).core (core0 s) =
      if h.hold then srcs.foldl (dropFresh (slotOf (lane0 s)) s.cur.unit) (s.core (core0 s)) else s.core (core0 s) := by
  rw [clearFresh_eq]; split
  · rw [core_modCore, if_pos rfl]
  · rfl

theorem clearFresh_falls (s : State) (h : Hdr) (srcs : List Src) :
    FreshFalls (s.core (core0 s)) ((clearFresh s h srcs).core (core0 s)) := by
  rw [clearFresh_core_own]; split
  · exact foldl_dropFresh_falls _ _ _ _
  · exact .refl _

/-- What an entry does to the edge latches of its own unit (R183). -/
theorem edgeLatch_clearFresh (s : State) (h : Hdr) (srcs : List Src) {dir : Nat} (hdir : dir < 4) :
    edgeLatch ((clearFresh s h srcs).core (core0 s)) s.cur.unit dir =
      if h.hold = true ∧ namesDir srcs dir = true ∧ edgeUnit (s.core (core0 s)) (slotOf (lane0 s)) s.cur.unit dir = true then
        { edgeLatch (s.core (core0 s)) s.cur.unit dir with fresh := false }
      else edgeLatch (s.core (core0 s)) s.cur.unit dir := by
  rw [clearFresh_core_own]
  cases hh : h.hold with
  | true => simpa using edgeLatch_foldl_dropFresh _ _ hdir srcs _
  | false => simp

/-- An entry that clears its FRESH bits and sends one result changes nothing else. -/
theorem onlySends_send (s : State) (h : Hdr) (srcs : List Src) (lat nf tf : Nat) (x : Land) :
    OnlySends s (send (clearFresh s h srcs) lat nf tf x) h srcs := by
  have hf := clearFresh_falls s h srcs
  constructor
  case rest =>
    rw [clearFresh_only]
    rfl
  case bytes => intro a; rw [send_mem, clearFresh_only]
  case lanes => intro l hl; rw [lane_send, clearFresh_cur, if_neg hl, clearFresh_lane]
  case own => simp [lane_send]
  case cores => exact fun c hc => clearFresh_core_other s h srcs hc
  case core => exact hf.core
  case gens => exact hf.gens
  case ports => exact hf.ports
  case edges => exact hf.edges
  case stays =>
    intro dir hdir hno
    rw [core_send, edgeLatch_clearFresh s h srcs hdir, if_neg]
    rintro ⟨hh, hn, hu⟩
    rcases hno with hno | hno | hno
    · simp [hh] at hno
    · exact hno ((namesDir_iff srcs dir).1 hn)
    · simp [hu] at hno
  case falls =>
    intro dir hdir hh hn hu
    rw [core_send, edgeLatch_clearFresh s h srcs hdir, if_pos ⟨hh, (namesDir_iff srcs dir).2 hn, hu⟩]

theorem sends_send (s : State) (h : Hdr) (srcs : List Src) (lat nf tf : Nat) (x : Land) :
    Sends s (send (clearFresh s h srcs) lat nf tf x) lat x nf tf := by
  have hl : ((send (clearFresh s h srcs) lat nf tf x).lane (lane0 s)).flights = (s.lane (lane0 s)).flights ++
      [⟨(clearFresh s h srcs).nextId, (s.lane (lane0 s)).pos + lat, x, nf, tf, s.cur.idx, s.cur.unit, false⟩] := by
    rw [lane_send, clearFresh_cur, if_pos rfl, clearFresh_lane]
  exact ⟨_, hl, rfl, rfl, rfl, rfl, rfl, rfl⟩

end Sys2Proof.ElementEntries
end

section
/-! Results of element entries and the common rules of the integer instructions. -/

open Sys2Proof Sys2Proof.Machine Sys2Proof.Slice0

namespace Sys2Proof.ElementEntries

/-! ## The result sent (R185 to R189) -/

/-- What `sendElem` puts in flight. -/
def elemLand (s : State) (w : Nat) (g : Nat → Bool) (d : Dst) (bits : V128) (tag : Bool) (planes : List (Nat × V128)) : Land :=
  .elem s.cur.unit (dstOf s.myLane.base d).1 (dstOf s.myLane.base d).2 (maskOf w g) (some bits) (some tag) planes

theorem sendElem_clearFresh (s : State) (h : Hdr) (srcs : List Src) (lat w : Nat) (g : Nat → Bool) (d : Dst) (bits : V128)
    (tag : Bool) (planes : List (Nat × V128)) (nf tf : Nat) :
    sendElem (clearFresh s h srcs) lat w g d bits tag planes nf tf =
      send (clearFresh s h srcs) lat nf tf (elemLand s w g d bits tag planes) := by
  simp [sendElem, elemLand]

theorem onlySends_sendElem (s : State) (h : Hdr) (srcs : List Src) (lat w : Nat) (g : Nat → Bool) (d : Dst) (bits : V128)
    (tag : Bool) (planes : List (Nat × V128)) (nf tf : Nat) :
    OnlySends s (sendElem (clearFresh s h srcs) lat w g d bits tag planes nf tf) h srcs := by
  rw [sendElem_clearFresh]
  exact onlySends_send s h srcs lat nf tf _

/-- The lanes of an integer type fill the 128 bits of a value (R32). -/
theorem width_mul_laneCount (t : ITy) : t.width * laneCount t.width = 128 := by cases t <;> rfl

theorem laneOfV_lt (w : Nat) (v : V128) (j : Nat) : laneOfV w v j < 2 ^ w := Nat.mod_lt _ (Nat.two_pow_pos w)

@[simp] theorem laneOfV_zero (w j : Nat) : laneOfV w 0 j = 0 := by simp [laneOfV]

theorem laneOfV_maskOf {w : Nat} (hw : w * laneCount w ≤ 128) (g : Nat → Bool) {j : Nat} (hj : j < laneCount w) :
    laneOfV w (maskOf w g) j = if g j then 2 ^ w - 1 else 0 := by
  have hlt : 2 ^ w - 1 < 2 ^ w := Nat.sub_lt (Nat.two_pow_pos w) Nat.one_pos
  rw [maskOf, laneOfV_ofLanes w _ _ j hj hw]
  split
  · exact Nat.mod_eq_of_lt hlt
  · exact Nat.zero_mod _

/-- The planes of a result, each given by what stands in it. -/
def planesOf (s : State) (v : Nat → V128) : List (Nat × V128) := (planeNums s.myLane.width).map fun p => (p, v p)

theorem result_sendElem {s : State} {h : Hdr} {srcs : List Src} {lat w : Nat} {g : Nat → Bool} {d : Dst} {bits : V128} {tag : Bool}
    {v : Nat → V128} {nf tf : Nat} {val : Nat → Nat} {plane : Nat → Nat → Nat} (hw : w * laneCount w ≤ 128)
    (hval : ∀ j, j < laneCount w → g j = true → laneOfV w bits j = val j)
    (hplane : ∀ p j, j < laneCount w → g j = true → laneOfV w (v p) j = plane p j) :
    Result s (sendElem (clearFresh s h srcs) lat w g d bits tag (planesOf s v) nf tf) lat w d g val tag plane nf tf
      (elemLand s w g d bits tag (planesOf s v)) (maskOf w g) bits (planesOf s v) where
  sent := by rw [sendElem_clearFresh]; exact sends_send s h srcs lat nf tf _
  land := rfl
  masked j hj := laneOfV_maskOf hw g hj
  lanes := hval
  which := by simp [planesOf, Function.comp_def]
  tangents p x hp j hj hg := by
    obtain ⟨q, -, hq⟩ := List.mem_map.1 hp
    obtain ⟨rfl, rfl⟩ := Prod.mk.inj hq
    exact hplane q j hj hg

/-! ## Guards, tags and flags (R53, R65, R188, R189) -/

theorem nullified_eq_false_iff (s : State) (h : Hdr) (n : Nat) : nullified (s.myGuard h) n = false ↔ SomeLane s h n := by
  simp [nullified, SomeLane]

theorem tagOk_iff (t : TagExp) (vs : List Val) : tagOk t vs = true ↔ TagsAgree t vs := by
  cases t <;> simp [tagOk, TagsAgree]

theorem tagsAgree_any (vs : List Val) : TagsAgree .any vs := ⟨nofun, nofun⟩

theorem anyScaled_iff (vs : List Val) : anyScaled vs = true ↔ ∃ v ∈ vs, v.scaled = true := by
  simp [anyScaled]

theorem testBit_fAll (l : List Nat) (b : Nat) : (fAll l).testBit b = true ↔ ∃ f ∈ l, f.testBit b = true := by
  induction l with
  | nil => simp [fAll]
  | cons f l ih => simp [fAll, ih]

theorem unionOf_fAll (s : State) (h : Hdr) (n : Nat) (raised : Nat → Nat) :
    UnionOf s h n (fAll (((List.range n).filter (guardBit (s.myGuard h))).map raised)) raised := by
  intro b
  simp only [testBit_fAll, List.mem_map, List.mem_filter, List.mem_range]
  constructor
  · rintro ⟨_, ⟨j, ⟨hj, hg⟩, rfl⟩, hb⟩
    exact ⟨j, hj, hg, hb⟩
  · rintro ⟨j, hj, hg, hb⟩
    exact ⟨_, ⟨j, ⟨hj, hg⟩, rfl⟩, hb⟩

theorem unionOf_congr {s : State} {h : Hdr} {n nf : Nat} {r r' : Nat → Nat} (hu : UnionOf s h n nf r)
    (hr : ∀ j, j < n → r j = r' j) : UnionOf s h n nf r' := by
  intro b
  rw [hu b]
  exact exists_congr fun j => and_congr_right fun hj => by rw [hr j hj]

theorem eq_zero_of_unionOf {s : State} {h : Hdr} {n nf : Nat} (hu : UnionOf s h n nf noFlags) : nf = 0 := by
  refine Nat.eq_of_testBit_eq fun b => ?_
  rw [Nat.zero_testBit, ← Bool.not_eq_true, hu b]
  simp [noFlags]

/-! ## The common rules (R191 to R196, R250) -/

/-- The test for TCUT in `laneOp`. -/
def cutsTangent (s : State) (h : Hdr) (w : Nat) (vs : List Val) (reads : Nat → Nat → Nat → Bool) : Bool :=
  ((List.range (laneCount w)).filter (guardBit (s.myGuard h))).any fun j => (List.range vs.length).any fun k =>
    (List.range (laneCount w)).any fun i => reads j k i && tanNonzero s.myLane.width w ((vs[k]?).getD ({} : Val)) i

theorem tanNonzero_iff (width w : Nat) (v : Val) (i : Nat) :
    tanNonzero width w v i = true ↔ ∃ p ∈ planeNums width, laneOfV w (v.plane p) i ≠ 0 := by
  simp [tanNonzero]

theorem laneOp_next {s : State} {h : Hdr} {w lat : Nat} {d : Dst} {srcs : List Src} {vs : List Val} {tag : TagExp} {rtag : Bool}
    {f : LaneFn} {reads : Nat → Nat → Nat → Bool} (hsome : SomeLane s h (laneCount w)) (htags : TagsAgree tag vs) :
    laneOp s h w lat d srcs vs tag rtag f reads =
      .next (sendElem (clearFresh s h srcs) lat w (guardBit (s.myGuard h)) d (ofLanes w (laneCount w) fun j => (f vs j).1) rtag
        (planesOf s fun _ => 0) (fAll (((List.range (laneCount w)).filter (guardBit (s.myGuard h))).map fun j => (f vs j).2))
        (fIf (cutsTangent s h w vs reads) tCUT)) := by
  simp only [laneOp, (nullified_eq_false_iff s h _).2 hsome, (tagOk_iff tag vs).2 htags]
  rfl

/-- An entry under the common rules that has a lane to execute and meets its tags sends its lanes, with zero tangents,
the flags its executing lanes raise, and TCUT by `cutsTangent`. -/
theorem laneOp_sends {s : State} {h : Hdr} {w lat : Nat} {d : Dst} {srcs : List Src} {vs : List Val} {tag : TagExp} {rtag : Bool}
    {f : LaneFn} {reads : Nat → Nat → Nat → Bool} {val raised : Nat → Nat} (hw : w * laneCount w = 128)
    (hsome : SomeLane s h (laneCount w)) (htags : TagsAgree tag vs)
    (hval : ∀ j, j < laneCount w → (f vs j).1 % 2 ^ w = val j) (hraised : ∀ j, j < laneCount w → (f vs j).2 = raised j) :
    ∃ t nf tf x m b ps, laneOp s h w lat d srcs vs tag rtag f reads = .next t ∧ OnlySends s t h srcs ∧
      Result s t lat w d (guardBit (s.myGuard h)) val rtag (fun _ _ => 0) nf tf x m b ps ∧
      UnionOf s h (laneCount w) nf raised ∧ tf = fIf (cutsTangent s h w vs reads) tCUT := by
  have hlanes : ∀ j, j < laneCount w → guardBit (s.myGuard h) j = true →
      laneOfV w (ofLanes w (laneCount w) fun j => (f vs j).1) j = val j := fun j hj _ => by
    rw [laneOfV_ofLanes w _ _ j hj (Nat.le_of_eq hw), hval j hj]
  exact ⟨_, _, _, _, _, _, _, laneOp_next hsome htags, onlySends_sendElem ..,
    result_sendElem (Nat.le_of_eq hw) hlanes fun _ _ _ _ => laneOfV_zero .., unionOf_congr (unionOf_fAll s h _ _) hraised, rfl⟩

/-- `cutsTangent` says of an entry what the statements ask (R250). -/
theorem cutsTangent_iff (e : Entry1) (s : State) (test : Nat → Nat → Nat → Bool) (reads : Nat → Nat → Prop)
    (htest : ∀ j k i, test j k i = true ↔ reads j i) :
    cutsTangent s e.h e.ty.width (e.vals s) test = true ↔ e.Cuts s reads := by
  simp only [cutsTangent, Entry1.Cuts, List.any_eq_true, List.mem_filter, List.mem_range, Bool.and_eq_true, htest, tanNonzero_iff]
  constructor
  · rintro ⟨j, ⟨hj, hg⟩, k, hk, i, hi, hr, hp⟩
    rw [List.getElem?_eq_getElem hk] at hp
    exact ⟨j, i, hj, hi, hg, hr, _, List.getElem_mem hk, hp⟩
  · rintro ⟨j, i, hj, hi, hg, hr, v, hv, hp⟩
    obtain ⟨k, hk, rfl⟩ := List.getElem_of_mem hv
    refine ⟨j, ⟨hj, hg⟩, k, hk, i, hi, hr, ?_⟩
    rw [List.getElem?_eq_getElem hk]
    exact hp

/-- The entry's meaning is the common rules (R191 to R196) under the lane function `f`. -/
def Runs (e : Entry1) (s : State) (f : LaneFn) (test : Nat → Nat → Nat → Bool := ownLane) : Prop :=
  exec e.i s = laneOp s e.h e.ty.width e.lat e.d e.srcs (e.vals s) e.tag (anyScaled (e.vals s)) f test

theorem computes_of_runs {e : Entry1} {s : State} {f : LaneFn} {test : Nat → Nat → Nat → Bool} {val raised : Nat → Nat}
    {reads : Nat → Nat → Prop} (hrun : Runs e s f test)
    (hval : ∀ j, j < laneCount e.ty.width → (f (e.vals s) j).1 % 2 ^ e.ty.width = val j)
    (hraised : ∀ j, j < laneCount e.ty.width → (f (e.vals s) j).2 = raised j)
    (htest : ∀ j k i, test j k i = true ↔ reads j i) : e.Computes s val raised reads := by
  intro hsome htags
  obtain ⟨t, nf, tf, x, m, b, ps, hnext, honly, hres, hflags, htf⟩ := laneOp_sends (lat := e.lat) (d := e.d) (srcs := e.srcs)
    (rtag := anyScaled (e.vals s)) (reads := test) (width_mul_laneCount e.ty) hsome htags hval hraised
  have htag : anyScaled (e.vals s) = decide (∃ v ∈ e.vals s, v.scaled = true) := by
    rw [Bool.eq_iff_iff, anyScaled_iff, decide_eq_true_iff]
  rw [htag] at hres
  refine ⟨t, nf, tf, x, m, b, ps, Eq.trans hrun hnext, honly, hres, hflags, ?_⟩
  have hcut := cutsTangent_iff e s test reads htest
  cases hc : cutsTangent s e.h e.ty.width (e.vals s) test with
  | true => exact .inl ⟨by rw [htf, hc]; rfl, hcut.1 hc⟩
  | false => exact .inr ⟨by rw [htf, hc]; rfl, fun h => by simp [hcut.2 h] at hc⟩

/-! ## The lanes of an entry's sources, as the model and as the statements name them -/

theorem lv_vals {e : Entry1} {s : State} {k w : Nat} (hk : k < e.srcs.length) (hw : e.ty.width = w) (j : Nat) :
    lv w (e.vals s) k j = e.arg s k j := by
  subst hw
  simp [lv, Entry1.vals, Entry1.arg, hk]

theorem arg_lt (e : Entry1) (s : State) (k j : Nat) : e.arg s k j < 2 ^ e.ty.width := laneOfV_lt ..

theorem ownLane_iff (j k i : Nat) : ownLane j k i = true ↔ own j i := by simp [ownLane, own]

theorem everyLane_iff (j k i : Nat) : everyLane j k i = true ↔ every j i := by simp [everyLane, every]

end Sys2Proof.ElementEntries
end

section
/-! The sums, products and other arithmetic of the integer lanes (R198 to R200). -/

open Sys2Proof Sys2Proof.Machine Sys2Proof.Slice0 Sys2Proof.ElementEntries

namespace Sys2Proof.IntegerLanes

/-! ## Numbers of lanes (R191) -/

theorem width_pos (t : ITy) : 0 < t.width := by cases t <;> decide

theorem wrapI_eq_wrapTo (w : Nat) (v : Int) : wrapI w v = wrapTo w v := by
  simp [wrapI, ofSigned, wrapTo]

theorem wrapTo_lt (w : Nat) (v : Int) : wrapTo w v < 2 ^ w := BitVec.isLt _

@[simp] theorem wrapTo_mod (w : Nat) (v : Int) : wrapTo w v % 2 ^ w = wrapTo w v := Nat.mod_eq_of_lt (wrapTo_lt w v)

theorem wrapTo_natCast (w n : Nat) : wrapTo w (n : Int) = n % 2 ^ w := by
  rw [wrapTo, BitVec.ofInt_natCast, BitVec.toNat_ofNat]

theorem sgn_eq_toInt {w x : Nat} (hw : 0 < w) (hx : x < 2 ^ w) : sgn w x = (BitVec.ofNat w x).toInt := by
  have hhalf : 2 ^ w = 2 * 2 ^ (w - 1) := by rw [← Nat.pow_succ']; congr 1; omega
  have hiff : x < 2 ^ (w - 1) ↔ 2 * x < 2 ^ w := by omega
  simp only [sgn, toSigned, BitVec.toInt_eq_toNat_cond, BitVec.toNat_ofNat, Nat.mod_eq_of_lt hx, hiff]
  split <;> simp

theorem ival_eq_valOf (t : ITy) {x : Nat} (hx : x < 2 ^ t.width) : ival t x = valOf t x := by
  simp only [ival, valOf, sgn_eq_toInt (width_pos t) hx, BitVec.toNat_ofNat, Nat.mod_eq_of_lt hx]

theorem ival_lv {e : Entry1} {s : State} {k : Nat} (hk : k < e.srcs.length) (j : Nat) :
    ival e.ty (lv e.ty.width (e.vals s) k j) = e.num s k j := by
  rw [lv_vals hk rfl, ival_eq_valOf _ (arg_lt e s k j)]
  rfl

/-! ## Lane functions of numbers -/

theorem computes_fn1 {e : Entry1} {s : State} {f : Int → Int} (g : Int → Int) (hrun : Runs e s (fn1 e.ty f))
    (hlen : 0 < e.srcs.length) (hfg : ∀ a, f a = g a) :
    e.Computes s (fun j => wrapTo e.ty.width (g (e.num s 0 j))) noFlags own :=
  computes_of_runs hrun (fun j _ => by rw [fn1, ival_lv hlen, hfg, wrapI_eq_wrapTo, wrapTo_mod]) (fun _ _ => rfl) ownLane_iff

theorem computes_fn2 {e : Entry1} {s : State} {f : Int → Int → Int} (g : Int → Int → Int) (hrun : Runs e s (fn2 e.ty f))
    (hlen : 1 < e.srcs.length) (hfg : ∀ a b, f a b = g a b) :
    e.Computes s (fun j => wrapTo e.ty.width (g (e.num s 0 j) (e.num s 1 j))) noFlags own :=
  computes_of_runs hrun
    (fun j _ => by rw [fn2, ival_lv (by omega), ival_lv hlen, hfg, wrapI_eq_wrapTo, wrapTo_mod]) (fun _ _ => rfl) ownLane_iff

theorem computes_fn3 {e : Entry1} {s : State} {f : Int → Int → Int → Int} (g : Int → Int → Int → Int)
    (hrun : Runs e s (fn3 e.ty f)) (hlen : 2 < e.srcs.length) (hfg : ∀ a b c, f a b c = g a b c) :
    e.Computes s (fun j => wrapTo e.ty.width (g (e.num s 0 j) (e.num s 1 j) (e.num s 2 j))) noFlags own :=
  computes_of_runs hrun
    (fun j _ => by rw [fn3, ival_lv (by omega), ival_lv (by omega), ival_lv hlen, hfg, wrapI_eq_wrapTo, wrapTo_mod])
    (fun _ _ => rfl) ownLane_iff

/-! ## Saturation (R198) -/

theorem clip_fst {lo hi : Int} (h : lo ≤ hi) (v : Int) : (clip lo hi v).1 = max lo (min hi v) := by
  unfold clip
  split
  · omega
  · split <;> simp only <;> omega

theorem clip_snd (lo hi v : Int) : (clip lo hi v).2 = decide (v < lo ∨ hi < v) := by
  unfold clip
  split
  · next hlo => simp [hlo]
  · next hlo => split <;> next hhi => simp [hlo, hhi]

theorem iMin_le_iMax (t : ITy) : iMin t ≤ iMax t := by cases t <;> decide

theorem computes_satFn {e : Entry1} {s : State} {f : Int → Int → Int} {v : Nat → Int} (hrun : Runs e s (satFn e.ty f))
    (hlen : 1 < e.srcs.length) (hv : ∀ j, v j = f (e.num s 0 j) (e.num s 1 j)) :
    e.Computes s (fun j => wrapTo e.ty.width (max (iMin e.ty) (min (iMax e.ty) (v j))))
      (fun j => if v j < iMin e.ty ∨ iMax e.ty < v j then 0x20 else 0) own := by
  have hlane : ∀ j, satFn e.ty f (e.vals s) j =
      (wrapTo e.ty.width (max (iMin e.ty) (min (iMax e.ty) (v j))), fIf (decide (v j < iMin e.ty ∨ iMax e.ty < v j)) fSAT) := by
    intro j
    simp only [satFn, ival_lv hlen, ival_lv (Nat.zero_lt_of_lt hlen), ← hv, clip_fst (iMin_le_iMax _), clip_snd, wrapI_eq_wrapTo]
  exact computes_of_runs hrun (fun j _ => by rw [hlane, wrapTo_mod]) (fun j _ => by simp [hlane, fIf, fSAT]) ownLane_iff

/-! ## Sums (R198) -/

theorem additiveLanes : AdditiveLanes := by
  refine ⟨fun s o => ⟨?add, ?sub, ?min, ?max, ?avg⟩, fun s o => ⟨?neg, ?abs⟩, fun s o => ?clamp⟩
  case add => exact computes_fn2 (fun a b => a + b) rfl Nat.one_lt_two fun _ _ => rfl
  case sub => exact computes_fn2 (fun a b => a - b) rfl Nat.one_lt_two fun _ _ => rfl
  case min => exact computes_fn2 min rfl Nat.one_lt_two fun a b => by split <;> omega
  case max => exact computes_fn2 max rfl Nat.one_lt_two fun a b => by split <;> omega
  case avg =>
    exact computes_fn2 (fun a b => Int.fdiv (a + b + 1) 2) rfl Nat.one_lt_two fun a b =>
      (Int.fdiv_eq_ediv_of_nonneg _ (by decide)).symm
  case neg => exact computes_fn1 (fun a => -a) rfl Nat.one_pos fun a => Int.zero_sub a
  case abs => exact computes_fn1 (fun a => (a.natAbs : Int)) rfl Nat.one_pos fun _ => rfl
  case clamp =>
    exact computes_fn3 (fun a b c => min (max a b) c) rfl (Nat.lt_succ_self 2) fun a b c => by
      simp only
      split <;> split <;> omega

theorem saturatingLanes : SaturatingLanes := by
  rintro s o v e (⟨rfl, hv⟩ | ⟨rfl, hv⟩)
  · exact computes_satFn (f := fun a b => a + b) rfl Nat.one_lt_two hv
  · exact computes_satFn (f := fun a b => a - b) rfl Nat.one_lt_two hv

/-- Settles O1: every entry but the saturating two is a lane function of numbers; those two clip it. -/
theorem laneSums : Obligations.LaneSums := ⟨additiveLanes, saturatingLanes⟩

/-! ## Products (R199, R200) -/

/-- A byte of a 32-bit lane under its type's signedness, as O2 writes it. -/
theorem dotByte_eq (t : ITy) {x : Nat} (hx : x < 2 ^ 32) (k : Nat) :
    dotByte t x k =
      if t.signed then ((BitVec.ofNat 32 x).extractLsb' (8 * k) 8).toInt else ((BitVec.ofNat 32 x).extractLsb' (8 * k) 8).toNat := by
  have hbyte : ((BitVec.ofNat 32 x).extractLsb' (8 * k) 8) = BitVec.ofNat 8 (fld x (8 * k) 8) := by
    apply BitVec.eq_of_toNat_eq
    rw [BitVec.extractLsb'_toNat, BitVec.toNat_ofNat, BitVec.toNat_ofNat, Nat.mod_eq_of_lt hx, Nat.shiftRight_eq_div_pow]
    exact (Nat.mod_mod _ _).symm
  have hlt : fld x (8 * k) 8 < 2 ^ 8 := Nat.mod_lt _ (by decide)
  rw [hbyte, dotByte, sgn_eq_toInt (by decide) hlt, BitVec.toNat_ofNat, Nat.mod_eq_of_lt hlt]

/-- The lane function of `dot4`. -/
def dot4Lane (t : ITy) : LaneFn := fun vs j =>
  (wrapI 32 ((List.range 4).foldl (fun acc k => acc + dotByte t (lv 32 vs 0 j) k * dotByte t (lv 32 vs 1 j) k)
    (ival t (lv 32 vs 2 j))), 0)

theorem runs_dot4 (o : OpI3) (s : State) : Runs (of3 .dot4 o 2) s (dot4Lane o.ty) := rfl

theorem dot4Lane_fst (t : ITy) (vs : List Val) (j : Nat) {p : Nat → Int}
    (hp : ∀ k, dotByte t (lv 32 vs 0 j) k * dotByte t (lv 32 vs 1 j) k = p k) :
    (dot4Lane t vs j).1 = wrapTo 32 (p 0 + p 1 + p 2 + p 3 + ival t (lv 32 vs 2 j)) := by
  simp only [dot4Lane, hp, wrapI_eq_wrapTo, List.range_succ, List.range_zero, List.nil_append, List.cons_append,
    List.foldl_cons, List.foldl_nil]
  congr 1
  omega

/-- Settles O2: products are lane functions of numbers, and `dot4` adds its four products to the accumulator. -/
theorem productLanes : Obligations.ProductLanes := by
  refine ⟨fun s o => ⟨?mul, ?mulh⟩, fun s o => ⟨?mad, ?sad, ?dot4⟩⟩
  case mul => exact computes_fn2 (fun a b => a * b) rfl Nat.one_lt_two fun _ _ => rfl
  case mulh =>
    exact computes_fn2 (fun a b => Int.fdiv (a * b) (2 ^ o.ty.width)) rfl Nat.one_lt_two fun a b =>
      (Int.fdiv_eq_ediv_of_nonneg _ (Int.le_of_lt (Int.pow_pos (by decide)))).symm
  case mad => exact computes_fn3 (fun a b c => a * b + c) rfl (Nat.lt_succ_self 2) fun _ _ _ => rfl
  case sad =>
    exact computes_fn3 (fun a b c => ((a - b).natAbs : Int) + c) rfl (Nat.lt_succ_self 2) fun _ _ _ => rfl
  case dot4 =>
    intro e byte part hw
    have hlen : e.srcs.length = 3 := rfl
    have hlt : ∀ k j, e.arg s k j < 2 ^ 32 := fun k j => hw ▸ arg_lt e s k j
    have hpart : ∀ j k, dotByte o.ty (lv 32 (e.vals s) 0 j) k * dotByte o.ty (lv 32 (e.vals s) 1 j) k = part k j := fun j k => by
      rw [lv_vals (by omega) hw, lv_vals (by omega) hw, dotByte_eq _ (hlt 0 j), dotByte_eq _ (hlt 1 j)]
    have hnum : ∀ j, ival o.ty (lv 32 (e.vals s) 2 j) = e.num s 2 j := fun j => by
      rw [lv_vals (by omega) hw]
      exact ival_eq_valOf o.ty (arg_lt e s 2 j)
    refine computes_of_runs (runs_dot4 o s) (fun j _ => ?_) (fun _ _ => rfl) ownLane_iff
    rw [dot4Lane_fst o.ty (e.vals s) j (hpart j), hnum, show e.ty.width = 32 from hw, wrapTo_mod]

end Sys2Proof.IntegerLanes
end

section
/-! Logic, shifts, counts of bits and bit fields of the integer lanes (R201 to R204): each of the model's functions of a
lane's bits is the operation on bit vectors that the statements name. -/

open Sys2Proof Sys2Proof.Machine Sys2Proof.Slice0 Sys2Proof.ElementEntries

namespace Sys2Proof.IntegerLanes

/-! ## Lane functions of bits -/

theorem toNat_ofNat_arg (e : Entry1) (s : State) (k j : Nat) : (BitVec.ofNat e.ty.width (e.arg s k j)).toNat = e.arg s k j := by
  rw [BitVec.toNat_ofNat, Nat.mod_eq_of_lt (arg_lt e s k j)]

theorem computes_bits1 {e : Entry1} {s : State} {f : Nat → Nat} (g : BitVec e.ty.width → Nat) (hrun : Runs e s (bits1 e.ty f))
    (hlen : 0 < e.srcs.length) (hfg : ∀ x, f x.toNat % 2 ^ e.ty.width = g x) :
    e.Computes s (fun j => g (BitVec.ofNat e.ty.width (e.arg s 0 j))) noFlags own :=
  computes_of_runs hrun (fun j _ => by rw [bits1, lv_vals hlen rfl, ← hfg, toNat_ofNat_arg]) (fun _ _ => rfl) ownLane_iff

theorem computes_bits2 {e : Entry1} {s : State} {f : Nat → Nat → Nat} (g : BitVec e.ty.width → BitVec e.ty.width → BitVec e.ty.width)
    (hrun : Runs e s (bits2 e.ty f)) (hlen : 1 < e.srcs.length) (hfg : ∀ x y, f x.toNat y.toNat % 2 ^ e.ty.width = (g x y).toNat) :
    e.Computes s (fun j => (g (BitVec.ofNat e.ty.width (e.arg s 0 j)) (BitVec.ofNat e.ty.width (e.arg s 1 j))).toNat) noFlags own :=
  computes_of_runs hrun
    (fun j _ => by rw [bits2, lv_vals (by omega) rfl, lv_vals hlen rfl, ← hfg, toNat_ofNat_arg, toNat_ofNat_arg])
    (fun _ _ => rfl) ownLane_iff

theorem computes_bits3 {e : Entry1} {s : State} {f : Nat → Nat → Nat → Nat} (hrun : Runs e s (bits3 e.ty f))
    (hlen : 2 < e.srcs.length) :
    e.Computes s (fun j => f (e.arg s 0 j) (e.arg s 1 j) (e.arg s 2 j) % 2 ^ e.ty.width) noFlags own :=
  computes_of_runs hrun
    (fun j _ => by rw [bits3, lv_vals (by omega) rfl, lv_vals (by omega) rfl, lv_vals hlen rfl]) (fun _ _ => rfl) ownLane_iff

/-! ## Logic (R201) -/

variable {w : Nat}

theorem toNat_mod (x : BitVec w) : x.toNat % 2 ^ w = x.toNat := Nat.mod_eq_of_lt x.isLt

theorem and_bits (x y : BitVec w) : (x.toNat &&& y.toNat) % 2 ^ w = (x &&& y).toNat := by
  rw [← BitVec.toNat_and, toNat_mod]

theorem or_bits (x y : BitVec w) : (x.toNat ||| y.toNat) % 2 ^ w = (x ||| y).toNat := by
  rw [← BitVec.toNat_or, toNat_mod]

theorem xor_bits (x y : BitVec w) : (x.toNat ^^^ y.toNat) % 2 ^ w = (x ^^^ y).toNat := by
  rw [← BitVec.toNat_xor, toNat_mod]

theorem not_bits (x : BitVec w) : (2 ^ w - 1 - x.toNat) % 2 ^ w = (~~~x).toNat := by
  rw [← BitVec.toNat_not, toNat_mod]

theorem andn_bits (x y : BitVec w) : (x.toNat &&& (2 ^ w - 1 - y.toNat)) % 2 ^ w = (x &&& ~~~y).toNat := by
  rw [← BitVec.toNat_not, and_bits]

/-! ## Shifts by any amount (R202) -/

theorem shlBits_bits (x y : BitVec w) : shlBits w x.toNat y.toNat % 2 ^ w = (x <<< y.toNat).toNat := by
  rw [BitVec.toNat_shiftLeft, Nat.shiftLeft_eq, shlBits]
  split
  · next h =>
    obtain ⟨d, hd⟩ := Nat.pow_dvd_pow 2 h
    rw [hd, Nat.mul_left_comm, Nat.mul_mod_right, Nat.zero_mod]
  · exact Nat.mod_mod _ _

theorem shrBits_bits (x y : BitVec w) : shrBits w x.toNat y.toNat % 2 ^ w = (x >>> y.toNat).toNat := by
  have hdiv : shrBits w x.toNat y.toNat = (x >>> y.toNat).toNat := by
    rw [BitVec.toNat_ushiftRight, Nat.shiftRight_eq_div_pow, shrBits]
    split
    · next h => exact (Nat.div_eq_of_lt (Nat.lt_of_lt_of_le x.isLt (Nat.pow_le_pow_right Nat.two_pos h))).symm
    · rfl
  rw [hdiv, toNat_mod]

theorem int_two_pow (k : Nat) : ((2 ^ k : Nat) : Int) = 2 ^ k := Int.natCast_pow 2 k

/-- A number within ±2^n divided by any higher power of two leaves its sign alone. -/
theorem ediv_two_pow_of_le {v : Int} {n k : Nat} (hlo : -2 ^ n ≤ v) (hhi : v < 2 ^ n) (hnk : n ≤ k) :
    v / 2 ^ k = if v < 0 then -1 else 0 := by
  have hle : (2 : Int) ^ n ≤ 2 ^ k := by
    rw [← int_two_pow, ← int_two_pow]
    exact Int.ofNat_le.2 (Nat.pow_le_pow_right Nat.two_pos hnk)
  have hpos : (0 : Int) < 2 ^ k := Int.pow_pos (by decide)
  split
  · exact ((Int.ediv_emod_unique (r := v + 2 ^ k) hpos).2 ⟨by omega, by omega, by omega⟩).1
  · exact Int.ediv_eq_zero_of_lt (by omega) (by omega)

theorem shaBits_bits (hw : 0 < w) (x y : BitVec w) : shaBits w x.toNat y.toNat % 2 ^ w = (x.sshiftRight y.toNat).toNat := by
  have hx : sgn w x.toNat = x.toInt := by rw [sgn_eq_toInt hw x.isLt, BitVec.ofNat_toNat, BitVec.setWidth_eq]
  have hdiv : x.toInt / 2 ^ (if y.toNat < w - 1 then y.toNat else w - 1) = x.toInt >>> y.toNat := by
    rw [Int.shiftRight_eq_div_pow, int_two_pow]
    split
    · rfl
    · next h =>
      rw [ediv_two_pow_of_le x.le_toInt x.toInt_lt (Nat.le_refl _), ediv_two_pow_of_le x.le_toInt x.toInt_lt (Nat.le_of_not_lt h)]
  rw [shaBits, hx, hdiv, wrapI_eq_wrapTo, wrapTo_mod]
  rfl

/-- The two parts of a rotated lane do not overlap. -/
theorem rotBits_bits (hw : 0 < w) (x y : BitVec w) : rotBits w x.toNat y.toNat % 2 ^ w = (x.rotateLeft y.toNat).toNat := by
  have hr : y.toNat % w < w := Nat.mod_lt _ hw
  have hsplit : 2 ^ w = 2 ^ (w - y.toNat % w) * 2 ^ (y.toNat % w) := by rw [← Nat.pow_add]; congr 1; omega
  have hhigh : x.toNat * 2 ^ (y.toNat % w) % 2 ^ w = 2 ^ (y.toNat % w) * (x.toNat % 2 ^ (w - y.toNat % w)) := by
    rw [hsplit, Nat.mul_mod_mul_right, Nat.mul_comm]
  have hlow : x.toNat / 2 ^ (w - y.toNat % w) < 2 ^ (y.toNat % w) := by
    rw [Nat.div_lt_iff_lt_mul (Nat.two_pow_pos _), Nat.mul_comm, ← hsplit]
    exact x.isLt
  have hrot : rotBits w x.toNat y.toNat = (x.rotateLeft y.toNat).toNat := by
    rw [BitVec.toNat_rotateLeft, Nat.shiftLeft_eq, Nat.shiftRight_eq_div_pow, rotBits, hhigh, Nat.two_pow_add_eq_or_of_lt hlow]
  rw [hrot, toNat_mod]

/-! ## Counts of bits (R203) -/

theorem popBits_bits (x : BitVec w) : popBits w x.toNat % 2 ^ w = ((List.range w).filter fun i => x.getLsbD i).length := by
  have hle : popBits w x.toNat ≤ w := Nat.le_trans (List.length_filter_le _ _) (Nat.le_of_eq List.length_range)
  rw [Nat.mod_eq_of_lt (Nat.lt_of_le_of_lt hle Nat.lt_two_pow_self)]
  rfl

theorem brevBits_eq_sum (w a : Nat) :
    brevBits w a = ((List.range w).map fun i => if a.testBit i then 2 ^ (w - 1 - i) else 0).sum := by
  rw [brevBits, List.sum_eq_foldl, List.foldl_map]

theorem sum_map_two_mul (l : List Nat) (f : Nat → Nat) : (l.map fun i => 2 * f i).sum = 2 * (l.map f).sum := by
  induction l with
  | nil => rfl
  | cons i l ih => simp only [List.map_cons, List.sum_cons, ih, Nat.mul_add]

theorem brevBits_succ (w a : Nat) : brevBits (w + 1) a = brevBits w a * 2 + (a.testBit w).toNat := by
  have hlast : (if a.testBit w then 2 ^ (w + 1 - 1 - w) else 0) = (a.testBit w).toNat := by
    cases a.testBit w <;> simp
  have hshift : ((List.range w).map fun i => if a.testBit i then 2 ^ (w + 1 - 1 - i) else 0) =
      (List.range w).map fun i => 2 * if a.testBit i then 2 ^ (w - 1 - i) else 0 := by
    refine List.map_congr_left fun i hi => ?_
    have he : w + 1 - 1 - i = w - 1 - i + 1 := by have := List.mem_range.1 hi; omega
    rw [he, Nat.pow_succ']
    split
    · rfl
    · rfl
  rw [brevBits_eq_sum, brevBits_eq_sum, List.range_succ, List.map_append, List.sum_append, List.map_singleton, List.sum_singleton,
    hlast, hshift, sum_map_two_mul, Nat.mul_comm]

theorem brevBits_congr {a b : Nat} (h : ∀ i, i < w → a.testBit i = b.testBit i) : brevBits w a = brevBits w b := by
  rw [brevBits_eq_sum, brevBits_eq_sum]
  congr 1
  exact List.map_congr_left fun i hi => by rw [h i (List.mem_range.1 hi)]

theorem brevBits_eq_reverse : ∀ {w : Nat} (x : BitVec w), brevBits w x.toNat = x.reverse.toNat
  | 0, x => by rw [BitVec.eq_nil x]; rfl
  | w + 1, x => by
    have hlow : brevBits w x.toNat = brevBits w (x.setWidth w).toNat :=
      brevBits_congr fun i hi => by simp [BitVec.testBit_toNat, hi]
    rw [brevBits_succ, hlow, brevBits_eq_reverse, BitVec.reverse, BitVec.toNat_concat, BitVec.msb_eq_getLsbD_last,
      BitVec.testBit_toNat]
    rfl

theorem brevBits_bits (x : BitVec w) : brevBits w x.toNat % 2 ^ w = x.reverse.toNat := by
  rw [brevBits_eq_reverse, toNat_mod]

theorem clzBits_le (w a : Nat) : clzBits w a ≤ w := by
  unfold clzBits
  split <;> omega

theorem clzBits_bits (x : BitVec w) : clzBits w x.toNat % 2 ^ w = clzBits w x.toNat :=
  Nat.mod_eq_of_lt (Nat.lt_of_le_of_lt (clzBits_le w _) Nat.lt_two_pow_self)

/-- The bits before the leading one are zero. -/
theorem getMsbD_of_lt_clzBits (x : BitVec w) {i : Nat} (hi : i < clzBits w x.toNat) : x.getMsbD i = false := by
  rw [BitVec.getMsbD_eq_getLsbD, ← BitVec.testBit_toNat]
  by_cases hx : x.toNat = 0
  · simp [hx]
  · have hlog : x.toNat.log2 < w - 1 - i := by rw [clzBits, if_neg hx] at hi; omega
    rw [Nat.testBit_lt_two_pow ((Nat.log2_lt hx).1 hlog), Bool.and_false]

theorem getMsbD_clzBits (x : BitVec w) (h : clzBits w x.toNat < w) : x.getMsbD (clzBits w x.toNat) = true := by
  have hx : x.toNat ≠ 0 := fun hx => by simp [clzBits, hx] at h
  have hlog : x.toNat.log2 < w := (Nat.log2_lt hx).2 x.isLt
  have hclz : w - 1 - clzBits w x.toNat = x.toNat.log2 := by rw [clzBits, if_neg hx]; omega
  rw [BitVec.getMsbD_eq_getLsbD, ← BitVec.testBit_toNat, hclz, Nat.testBit_log2 hx, decide_eq_true h, Bool.true_and]

theorem bitLanes : BitLanes := by
  refine ⟨fun s o => ⟨?and, ?or, ?xor, ?andn, ?shl, ?shr, ?sha, ?rot⟩, fun s o => ⟨?not, ?brev, ?clz, ?pop⟩⟩
  case and => exact computes_bits2 (fun x y => x &&& y) rfl Nat.one_lt_two and_bits
  case or => exact computes_bits2 (fun x y => x ||| y) rfl Nat.one_lt_two or_bits
  case xor => exact computes_bits2 (fun x y => x ^^^ y) rfl Nat.one_lt_two xor_bits
  case andn => exact computes_bits2 (fun x y => x &&& ~~~y) rfl Nat.one_lt_two andn_bits
  case shl => exact computes_bits2 (fun x y => x <<< y.toNat) rfl Nat.one_lt_two shlBits_bits
  case shr => exact computes_bits2 (fun x y => x >>> y.toNat) rfl Nat.one_lt_two shrBits_bits
  case sha => exact computes_bits2 (fun x y => x.sshiftRight y.toNat) rfl Nat.one_lt_two (shaBits_bits (width_pos o.ty))
  case rot => exact computes_bits2 (fun x y => x.rotateLeft y.toNat) rfl Nat.one_lt_two (rotBits_bits (width_pos o.ty))
  case not => exact computes_bits1 (fun x => (~~~x).toNat) rfl Nat.one_pos not_bits
  case brev => exact computes_bits1 (fun x => x.reverse.toNat) rfl Nat.one_pos brevBits_bits
  case clz =>
    exact ⟨_, computes_bits1 (fun x => clzBits o.ty.width x.toNat) rfl Nat.one_pos clzBits_bits, fun j =>
      ⟨clzBits_le _ _, fun i hi => getMsbD_of_lt_clzBits _ hi, getMsbD_clzBits _⟩⟩
  case pop => exact computes_bits1 (fun x => ((List.range o.ty.width).filter fun i => x.getLsbD i).length) rfl Nat.one_pos popBits_bits

end Sys2Proof.IntegerLanes
end

section
/-! Bit fields of the integer lanes (R204), bit by bit, and the lane reductions (R213). -/

open Sys2Proof Sys2Proof.Machine Sys2Proof.Slice0 Sys2Proof.ElementEntries

namespace Sys2Proof.IntegerLanes

/-- Sign extension of an `n`-bit number to `w` bits, bit by bit. -/
theorem testBit_wrapI_sgn {n w f i : Nat} (hn : 0 < n) (hf : f < 2 ^ n) (hi : i < w) :
    (wrapI w (sgn n f)).testBit i = if i < n then f.testBit i else f.testBit (n - 1) := by
  have hext : wrapI w (sgn n f) = ((BitVec.ofNat n f).signExtend w).toNat := by
    rw [sgn_eq_toInt hn hf, wrapI_eq_wrapTo]
    rfl
  rw [hext, BitVec.testBit_toNat, BitVec.getLsbD_signExtend, decide_eq_true hi, Bool.true_and, BitVec.msb_eq_getLsbD_last,
    BitVec.getLsbD_ofNat, BitVec.getLsbD_ofNat]
  have hlast : n - 1 < n := by omega
  split <;> simp [*]

/-- The field's length after clipping is 0 just where the model's guard holds. -/
theorem clipped_len (w pos len : Nat) : (len = 0 || decide (w ≤ pos)) = decide (min len (w - pos) = 0) := by
  rw [Bool.eq_iff_iff]
  simp only [Bool.or_eq_true, decide_eq_true_eq]
  omega

theorem ite_lt_eq_min (len m : Nat) : (if len < m then len else m) = min len m := by
  split <;> omega

theorem bfxBits_testBit (t : ITy) (a pos len : Nat) {i : Nat} (hi : i < t.width) :
    (bfxBits t a pos len % 2 ^ t.width).testBit i =
      if min len (t.width - pos) = 0 then false
      else if i < min len (t.width - pos) then a.testBit (pos + i)
      else t.signed && a.testBit (pos + min len (t.width - pos) - 1) := by
  simp only [bfxBits, clipped_len, ite_lt_eq_min, Nat.testBit_mod_two_pow, hi, decide_true, Bool.true_and, decide_eq_true_eq]
  generalize min len (t.width - pos) = n
  by_cases hn : n = 0
  · simp [hn]
  · have hf : ∀ k, (a / 2 ^ pos % 2 ^ n).testBit k = (decide (k < n) && a.testBit (pos + k)) := fun k => by
      rw [Nat.testBit_mod_two_pow, Nat.testBit_div_two_pow, Nat.add_comm]
    have hlt : a / 2 ^ pos % 2 ^ n < 2 ^ n := Nat.mod_lt _ (Nat.two_pow_pos n)
    have hlast : n - 1 < n := by omega
    have htop : pos + (n - 1) = pos + n - 1 := by omega
    rw [if_neg hn, if_neg hn]
    cases t.signed with
    | true => rw [if_pos rfl, testBit_wrapI_sgn (Nat.pos_of_ne_zero hn) hlt hi, hf, hf, htop]; split <;> simp [*]
    | false => rw [if_neg Bool.false_ne_true, hf]; split <;> simp [*]

/-- The mask of a field of `n` bits at `pos`. -/
theorem testBit_fieldMask (n pos i : Nat) : ((2 ^ n - 1) * 2 ^ pos).testBit i = decide (pos ≤ i ∧ i < pos + n) := by
  rw [Nat.testBit_mul_two_pow, Nat.testBit_two_pow_sub_one, ← Bool.decide_and]
  exact decide_eq_decide.2 (by omega)

theorem fieldMask_lt {n pos w : Nat} (h : pos + n ≤ w) : (2 ^ n - 1) * 2 ^ pos < 2 ^ w :=
  calc (2 ^ n - 1) * 2 ^ pos < 2 ^ n * 2 ^ pos :=
        Nat.mul_lt_mul_of_pos_right (Nat.sub_lt (Nat.two_pow_pos n) Nat.one_pos) (Nat.two_pow_pos pos)
    _ = 2 ^ (pos + n) := by rw [← Nat.pow_add, Nat.add_comm]
    _ ≤ 2 ^ w := Nat.pow_le_pow_right Nat.two_pos h

theorem bfiBits_testBit (w a b c : Nat) {i : Nat} (hi : i < w) :
    (bfiBits w a b c % 2 ^ w).testBit i =
      if c % 2 ^ (w / 2) ≤ i ∧ i < c % 2 ^ (w / 2) + min (c / 2 ^ (w / 2)) (w - c % 2 ^ (w / 2)) then
        b.testBit (i - c % 2 ^ (w / 2))
      else a.testBit i := by
  simp only [bfiBits, clipped_len, ite_lt_eq_min, Nat.testBit_mod_two_pow, hi, decide_true, Bool.true_and, decide_eq_true_eq]
  generalize c % 2 ^ (w / 2) = pos
  generalize hn : min (c / 2 ^ (w / 2)) (w - pos) = n
  by_cases h0 : n = 0
  · rw [if_pos h0, if_neg (by omega)]
  · have hm : (2 ^ n - 1) * 2 ^ pos < 2 ^ w := fieldMask_lt (by omega)
    have hout : (2 ^ w - 1 - (2 ^ n - 1) * 2 ^ pos).testBit i = !decide (pos ≤ i ∧ i < pos + n) := by
      rw [Nat.sub_sub, Nat.add_comm 1, Nat.testBit_two_pow_sub_succ hm, testBit_fieldMask, decide_eq_true hi, Bool.true_and]
    rw [if_neg h0, Nat.testBit_or, Nat.testBit_and, Nat.testBit_and, hout, testBit_fieldMask, Nat.testBit_mul_two_pow]
    by_cases hin : pos ≤ i ∧ i < pos + n
    · simp [hin]
    · simp [hin]

theorem fieldLanes : FieldLanes := fun _ o =>
  ⟨⟨_, computes_bits3 (e := of3 .bfx o 1) (f := bfxBits o.ty) rfl (Nat.lt_succ_self 2), fun _ _ hi => bfxBits_testBit o.ty _ _ _ hi⟩,
    ⟨_, computes_bits3 (e := of3 .bfi o 1) (f := bfiBits o.ty.width) rfl (Nat.lt_succ_self 2), fun _ _ hi => bfiBits_testBit _ _ _ _ hi⟩⟩

/-- Settles O3: logic, shifts and counts as operations on bit vectors, and fields bit by bit. -/
theorem laneLogic : Obligations.LaneLogic := ⟨bitLanes, fieldLanes⟩

/-! ## Lane reductions (R213) -/

/-- The lane function of `lsum`. -/
def lsumLane (t : ITy) : LaneFn := fun vs _ =>
  (wrapI t.width ((List.range (laneCount t.width)).foldl (fun r i => r + ival t (lv t.width vs 0 i)) 0), 0)

/-- The greatest of the lanes, as `lmax` finds it. -/
def greatest (n : Nat) (f : Nat → Int) : Int := (List.range n).foldl (fun r i => if r < f i then f i else r) (f 0)

/-- The lane function of `lmax`. -/
def lmaxLane (t : ITy) : LaneFn := fun vs _ =>
  (wrapI t.width (greatest (laneCount t.width) fun i => ival t (lv t.width vs 0 i)), 0)

theorem runs_lsum (o : OpI1) (s : State) : Runs (of1 .lsum o 3) s (lsumLane o.ty) everyLane := rfl

theorem runs_lmax (o : OpI1) (s : State) : Runs (of1 .lmax o 3) s (lmaxLane o.ty) everyLane := rfl

/-- A running maximum bounds its start and every element, and is one of them. -/
theorem foldl_max_spec (f : Nat → Int) (l : List Nat) : ∀ r : Int,
    let m := l.foldl (fun r i => if r < f i then f i else r) r
    r ≤ m ∧ (∀ i ∈ l, f i ≤ m) ∧ (m = r ∨ ∃ i ∈ l, f i = m) := by
  induction l with
  | nil => simp
  | cons i l ih =>
    intro r
    obtain ⟨hge, hall, hin⟩ := ih (if r < f i then f i else r)
    have hstart : r ≤ (if r < f i then f i else r) ∧ f i ≤ (if r < f i then f i else r) := by split <;> omega
    refine ⟨Int.le_trans hstart.1 hge, List.forall_mem_cons.2 ⟨Int.le_trans hstart.2 hge, hall⟩, ?_⟩
    rcases hin with hin | ⟨k, hk, hin⟩
    · rw [List.foldl_cons, hin]
      split
      · exact .inr ⟨i, List.mem_cons_self, rfl⟩
      · exact .inl rfl
    · exact .inr ⟨k, List.mem_cons_of_mem _ hk, hin⟩

theorem le_greatest {n : Nat} (f : Nat → Int) {i : Nat} (hi : i < n) : f i ≤ greatest n f := by
  obtain ⟨-, hall, -⟩ := foldl_max_spec f (List.range n) (f 0)
  exact hall i (List.mem_range.2 hi)

theorem exists_eq_greatest {n : Nat} (hn : 0 < n) (f : Nat → Int) : ∃ i, i < n ∧ f i = greatest n f := by
  obtain ⟨-, -, h | ⟨i, hi, h⟩⟩ := foldl_max_spec f (List.range n) (f 0)
  · exact ⟨0, hn, h.symm⟩
  · exact ⟨i, List.mem_range.1 hi, h⟩

theorem laneCount_pos (t : ITy) : 0 < laneCount t.width := by cases t <;> decide

/-- Settles O7: the folds of `lsum` and `lmax` are the sum and the maximum of the lanes. -/
theorem laneReductions : Obligations.LaneReductions := by
  intro s o n e
  have hnum : ∀ i, ival o.ty (lv o.ty.width (e.vals s) 0 i) = e.num s 0 i := ival_lv (e := e) Nat.one_pos
  refine ⟨computes_of_runs (runs_lsum o s) (fun j _ => ?_) (fun _ _ => rfl) everyLane_iff, greatest n (e.num s 0),
    computes_of_runs (runs_lmax o s) (fun j _ => ?_) (fun _ _ => rfl) everyLane_iff, fun j hj => le_greatest _ hj,
    exists_eq_greatest (laneCount_pos o.ty) _⟩
  · have hsum : (lsumLane o.ty (e.vals s) j).1 = wrapTo o.ty.width (((List.range n).map (e.num s 0)).sum) := by
      simp only [lsumLane, hnum, wrapI_eq_wrapTo, List.sum_eq_foldl, List.foldl_map]
      rfl
    exact hsum ▸ wrapTo_mod _ _
  · have hmax : (lmaxLane o.ty (e.vals s) j).1 = wrapTo o.ty.width (greatest n (e.num s 0)) := by
      simp only [lmaxLane, hnum, wrapI_eq_wrapTo]
      rfl
    exact hmax ▸ wrapTo_mod _ _

end Sys2Proof.IntegerLanes
end

section
/-! `sel` (R207), trits (R214) and packed elements (R216, R217). -/

open Sys2Proof Sys2Proof.Machine Sys2Proof.Slice0 Sys2Proof.ElementEntries

namespace Sys2Proof.IntegerLanes

/-! ## Selects (R207) -/

/-- What `sel` delivers to a lane. -/
def selected (s : State) (o : OpI2) (j : Nat) : Val :=
  if guardBit (s.myGuard o.h) j then readI s o.ty o.a else readI s o.ty o.b

/-- A plane of the result of `sel`, or its bits: lane by lane from the value selected. -/
def selectedLanes (s : State) (o : OpI2) (f : Val → V128) : V128 :=
  ofLanes o.ty.width (laneCount o.ty.width) fun j => laneOfV o.ty.width (f (selected s o j)) j

theorem laneOfV_selectedLanes (s : State) (o : OpI2) (f : Val → V128) {j : Nat} (hj : j < laneCount o.ty.width) :
    laneOfV o.ty.width (selectedLanes s o f) j = laneOfV o.ty.width (f (selected s o j)) j := by
  rw [selectedLanes, laneOfV_ofLanes _ _ _ j hj (Nat.le_of_eq (width_mul_laneCount o.ty)), Nat.mod_eq_of_lt (laneOfV_lt ..)]

theorem selectedTag_eq (s : State) (o : OpI2) : ((List.range (laneCount o.ty.width)).any fun j => (selected s o j).scaled) =
    decide (∃ j, j < laneCount o.ty.width ∧ (selected s o j).scaled = true) := by
  rw [Bool.eq_iff_iff]
  simp

theorem execSel_next {s : State} {o : OpI2} (htags : TagsAgree o.tag [readI s o.ty o.a, readI s o.ty o.b]) :
    exec (.sel o) s = .next (sendElem (clearFresh s o.h [o.a, o.b]) 1 o.ty.width (fun _ => true) o.d (selectedLanes s o Val.bits)
      (decide (∃ j, j < laneCount o.ty.width ∧ (selected s o j).scaled = true))
      (planesOf s fun p => selectedLanes s o fun v => v.plane p) 0 0) := by
  rw [show exec (.sel o) s = execSel o s from rfl, execSel, ← selectedTag_eq]
  simp only [(tagOk_iff _ _).2 htags]
  rfl

/-- Settles O5: every lane, plane and the tag come from the value the guard selects. -/
theorem selectLanes : Obligations.SelectLanes := fun s o htags =>
  ⟨_, _, _, _, _, execSel_next htags, onlySends_sendElem ..,
    result_sendElem (Nat.le_of_eq (width_mul_laneCount o.ty)) (fun _ hj _ => laneOfV_selectedLanes s o Val.bits hj)
      fun p _ hj _ => laneOfV_selectedLanes s o (fun v => v.plane p) hj⟩

/-! ## Trits (R39, R214) -/

/-- The decoder's multiplication is the division by three for every byte. -/
theorem mul_171_div_512 {b : Nat} (hb : b < 256) : b * 171 / 512 = b / 3 := by omega

theorem tritsFrom_succ (k : Nat) {b : Nat} (hb : b < 256) :
    tritsFrom (k + 1) b = (((b % 3 : Nat) : Int) - 1) :: tritsFrom k (b / 3) := by
  have hmod : (b : Int) - 3 * (b / 3 : Nat) - 1 = (b % 3 : Nat) - 1 := by omega
  rw [tritsFrom, mul_171_div_512 hb]
  exact congrArg (· :: _) hmod

theorem length_tritsFrom (k b : Nat) : (tritsFrom k b).length = k := by
  induction k generalizing b with
  | zero => rfl
  | succ k ih => simp [tritsFrom, ih]

theorem trit_range (k : Nat) : ∀ {b : Nat}, b < 256 → ∀ v ∈ tritsFrom k b, v = -1 ∨ v = 0 ∨ v = 1 := by
  induction k with
  | zero => simp [tritsFrom]
  | succ k ih =>
    intro b hb v hv
    rw [tritsFrom_succ k hb, List.mem_cons] at hv
    rcases hv with rfl | hv
    · omega
    · exact ih (by omega) v hv

/-- Five trits give back their byte. -/
theorem byte_eq_trits {b : Nat} (hb : b < 243) :
    let ts := tritsFrom 5 b
    (b : Int) = (ts.getD 0 0 + 1) + 3 * (ts.getD 1 0 + 1) + 9 * (ts.getD 2 0 + 1) + 27 * (ts.getD 3 0 + 1) +
      81 * (ts.getD 4 0 + 1) := by
  rw [tritsFrom_succ 4 (by omega), tritsFrom_succ 3 (by omega), tritsFrom_succ 2 (by omega), tritsFrom_succ 1 (by omega),
    tritsFrom_succ 0 (by omega)]
  simp only [List.getD_cons_zero, List.getD_cons_succ]
  omega

theorem trit_illegal {b : Nat} (hb : 243 ≤ b) (i : Nat) : trit b i = 0 := if_pos hb

theorem tritsFrom_getElem {b i : Nat} (hb : b < 243) (hi : i < 5) : (tritsFrom 5 b)[i]? = some (trit b i) := by
  have hlen : i < (tritsFrom 5 b).length := by rwa [length_tritsFrom]
  rw [trit, if_neg (by omega), List.getElem?_eq_getElem hlen, Option.getD_some]

/-- The lane function of `tri5`. -/
def tri5Lane (g : Nat) : LaneFn := fun vs j =>
  (wrapI 8 (trit (lv 8 vs 0 ((16 * g + j) / 5)) ((16 * g + j) % 5)), fIf (243 ≤ lv 8 vs 0 ((16 * g + j) / 5)) fCODE)

/-- The byte of the source that a lane of `tri5` reads. -/
def tri5Reads (g j _k i : Nat) : Bool := i == (16 * g + j) / 5

theorem exec_tri5 (o : OpTri) (s : State) :
    exec (.tri5 o) s = laneOp s o.h 8 2 o.d [o.a] [readI s .i8 o.a] .any (readI s .i8 o.a).scaled (tri5Lane o.g)
      (tri5Reads o.g) := rfl

theorem tritLanes : TritLanes := by
  intro s o _ hsome a byte
  obtain ⟨t, nf, tf, x, m, b, ps, hnext, honly, hres, hflags, -⟩ := laneOp_sends (s := s) (h := o.h) (w := 8) (lat := 2) (d := o.d)
    (srcs := [o.a]) (rtag := a.scaled) (f := tri5Lane o.g) (reads := tri5Reads o.g)
    (val := fun j => wrapTo 8 (trit (byte j) ((16 * o.g + j) % 5))) (raised := fun j => if 243 ≤ byte j then 0x40 else 0)
    rfl hsome (tagsAgree_any [a]) (fun j _ => by rw [tri5Lane, wrapI_eq_wrapTo, wrapTo_mod]; rfl)
    (fun j _ => by simp only [tri5Lane, fIf, decide_eq_true_eq]; rfl)
  refine ⟨fun j => trit (byte j) ((16 * o.g + j) % 5), t, nf, tf, x, m, b, ps, (exec_tri5 o s).trans hnext, honly, hres, hflags,
    fun j _ hj => trit_illegal hj _, fun j _ hj => ⟨tritsFrom 5 (byte j), length_tritsFrom 5 _, ?_, ?_, byte_eq_trits hj⟩⟩
  · exact trit_range 5 (by omega)
  · exact tritsFrom_getElem hj (Nat.mod_lt _ (by decide))

/-! ## Packed elements (R215 to R217) -/

/-- The range of a packed format (R215). -/
def pfLo (f : PFmt) : Int := if f = .nat4 then 0 else -(2 ^ (pfBits f - 1))
def pfHi (f : PFmt) : Int := if f = .nat4 then 15 else 2 ^ (pfBits f - 1) - 1

/-- The code of an element, and whether it is clipped, in the terms of R216. -/
def codeOf (f : PFmt) (x : Int) : Nat :=
  if f = .bin1 then (if 0 ≤ x then 1 else 0) else wrapTo (pfBits f) (max (pfLo f) (min (pfHi f) x))
def clipsOf (f : PFmt) (x : Int) : Bool :=
  if f = .bin1 then decide (x ≠ 1 ∧ x ≠ -1) else decide (x < pfLo f ∨ pfHi f < x)

theorem packCode_eq (f : PFmt) (x : Int) : packCode f x = (codeOf f x, clipsOf f x) := by
  cases f with
  | bin1 => exact Prod.ext rfl (Bool.eq_iff_iff.2 (by simp [packCode, clipsOf]))
  | nat4 | int4 | int2 =>
    simp [packCode, codeOf, clipsOf, pfLo, pfHi, pfBits, clip_fst, clip_snd, wrapI_eq_wrapTo]

theorem codeOf_lt (f : PFmt) (x : Int) : codeOf f x < 2 ^ pfBits f := by
  unfold codeOf
  split
  · next h => subst h; split <;> decide
  · exact wrapTo_lt _ _

/-- Codes laid one after another, from the lowest bits up. -/
theorem testBit_foldr_codes {b : Nat} (hb : 0 < b) (l : List (Nat × Bool)) (hl : ∀ c ∈ l, c.1 < 2 ^ b) : ∀ i,
    (l.foldr (fun (c : Nat × Bool) acc => acc * 2 ^ b + c.1) 0).testBit i = ((l[i / b]?).getD (0, false)).1.testBit (i % b) := by
  induction l with
  | nil => simp
  | cons c l ih =>
    intro i
    rw [List.foldr_cons, Nat.mul_comm, Nat.testBit_two_pow_mul_add _ (hl c List.mem_cons_self)]
    split
    · next hi => rw [Nat.div_eq_of_lt hi, Nat.mod_eq_of_lt hi]; rfl
    · next hi =>
      have hib : b ≤ i := Nat.le_of_not_lt hi
      rw [ih fun c hc => hl c (List.mem_cons_of_mem _ hc), Nat.div_eq_sub_div hb hib, List.getElem?_cons_succ,
        Nat.mod_eq_sub_mod hib]

/-- The codes of a byte of `pack`, with what each clips. -/
def packCodes (f : PFmt) (vs : List Val) (j : Nat) : List (Nat × Bool) :=
  (List.range (8 / pfBits f)).map fun e =>
    if j * (8 / pfBits f) + e < 32 then packCode f (packElem (pfTy f) vs (j * (8 / pfBits f) + e)) else (0, false)

/-- The lane function of `pack`. -/
def packLane (f : PFmt) : LaneFn := fun vs j =>
  ((packCodes f vs j).foldr (fun (c : Nat × Bool) acc => acc * 2 ^ pfBits f + c.1) 0, fIf ((packCodes f vs j).any (·.2)) fSAT)

/-- The lanes of A and B whose elements stand in a byte of `pack`. -/
def packReads (f : PFmt) (j k i : Nat) : Bool :=
  let e := 16 * k + i
  j * (8 / pfBits f) ≤ e && e < j * (8 / pfBits f) + 8 / pfBits f

theorem exec_pack (o : OpPack) (s : State) :
    exec (.pack o) s = laneOp s o.h 8 2 o.d [o.a, o.b] [readI s (pfTy o.fmt) o.a, readI s (pfTy o.fmt) o.b] .any
      (anyScaled [readI s (pfTy o.fmt) o.a, readI s (pfTy o.fmt) o.b]) (packLane o.fmt)
      (packReads o.fmt) := rfl

theorem pfBits_pos (f : PFmt) : 0 < pfBits f := by cases f <;> decide

theorem packCodes_lt (f : PFmt) (vs : List Val) (j : Nat) : ∀ c ∈ packCodes f vs j, c.1 < 2 ^ pfBits f := by
  intro c hc
  obtain ⟨e, -, rfl⟩ := List.mem_map.1 hc
  split
  · rw [packCode_eq]; exact codeOf_lt f _
  · exact Nat.two_pow_pos _

theorem div_pfBits_lt (f : PFmt) {i : Nat} (hi : i < 8) : i / pfBits f < 8 / pfBits f := by
  cases f <;> simp only [pfBits] <;> omega

theorem testBit_packLane (f : PFmt) (vs : List Val) (j : Nat) {i : Nat} (hi : i < 8) :
    (packLane f vs j).1.testBit i =
      if j * (8 / pfBits f) + i / pfBits f < 32 then
        (codeOf f (packElem (pfTy f) vs (j * (8 / pfBits f) + i / pfBits f))).testBit (i % pfBits f)
      else false := by
  rw [packLane, testBit_foldr_codes (pfBits_pos f) _ (packCodes_lt f vs j), packCodes, List.getElem?_map,
    List.getElem?_range (div_pfBits_lt f hi), Option.map_some, Option.getD_some]
  split
  · rw [packCode_eq]
  · exact Nat.zero_testBit _

theorem any_packCodes (f : PFmt) (vs : List Val) (j : Nat) :
    (packCodes f vs j).any (·.2) = true ↔
      ∃ k, k < 8 / pfBits f ∧ j * (8 / pfBits f) + k < 32 ∧ clipsOf f (packElem (pfTy f) vs (j * (8 / pfBits f) + k)) = true := by
  simp only [packCodes, List.any_map, List.any_eq_true, List.mem_range, Function.comp_apply, packCode_eq]
  refine exists_congr fun k => and_congr_right fun _ => ?_
  split <;> simp [*]

/-- Element `e` of the 32 that `pack` reads, as a number. -/
def packNum (s : State) (o : OpPack) (e : Nat) : Int :=
  let v (k j : Nat) : Int := valOf (pfTy o.fmt) (laneOfV 8 (readI s (pfTy o.fmt) (if k = 0 then o.a else o.b)).bits j)
  if e < 16 then v 0 e else v 1 (e - 16)

theorem width_pfTy (f : PFmt) : (pfTy f).width = 8 := by cases f <;> rfl

theorem packElem_eq (s : State) (o : OpPack) (e : Nat) :
    packElem (pfTy o.fmt) [readI s (pfTy o.fmt) o.a, readI s (pfTy o.fmt) o.b] e = packNum s o e := by
  have hval : ∀ (v : V128) (j : Nat), ival (pfTy o.fmt) (laneOfV 8 v j) = valOf (pfTy o.fmt) (laneOfV 8 v j) := fun v j =>
    ival_eq_valOf _ (by rw [width_pfTy]; exact laneOfV_lt 8 v j)
  unfold packElem packNum
  split
  · exact hval _ _
  · exact hval _ _

theorem pack_sends (s : State) (o : OpPack) (hsome : SomeLane s o.h 16) :
    let per := 8 / pfBits o.fmt
    ∃ t nf tf x m b ps r, exec (.pack o) s = .next t ∧ OnlySends s t o.h [o.a, o.b] ∧
      Result s t 2 8 o.d (guardBit (s.myGuard o.h)) r ((readI s (pfTy o.fmt) o.a).scaled || (readI s (pfTy o.fmt) o.b).scaled)
        (fun _ _ => 0) nf tf x m b ps ∧
      (∀ j, j < 16 → ∀ i, i < 8 → (r j).testBit i =
        if j * per + i / pfBits o.fmt < 32 then (codeOf o.fmt (packNum s o (j * per + i / pfBits o.fmt))).testBit (i % pfBits o.fmt)
        else false) ∧
      UnionOf s o.h 16 nf
        (fun j => if ∃ k, k < per ∧ j * per + k < 32 ∧ clipsOf o.fmt (packNum s o (j * per + k)) = true then 0x20 else 0) := by
  intro per
  obtain ⟨t, nf, tf, x, m, b, ps, hnext, honly, hres, hflags, -⟩ := laneOp_sends (s := s) (h := o.h) (w := 8) (lat := 2) (d := o.d)
    (srcs := [o.a, o.b]) (rtag := anyScaled [readI s (pfTy o.fmt) o.a, readI s (pfTy o.fmt) o.b]) (f := packLane o.fmt)
    (reads := packReads o.fmt) rfl hsome
    (tagsAgree_any [readI s (pfTy o.fmt) o.a, readI s (pfTy o.fmt) o.b]) (fun _ _ => rfl) (fun _ _ => rfl)
  have htag : anyScaled [readI s (pfTy o.fmt) o.a, readI s (pfTy o.fmt) o.b] =
      ((readI s (pfTy o.fmt) o.a).scaled || (readI s (pfTy o.fmt) o.b).scaled) := by simp [anyScaled]
  refine ⟨t, nf, tf, x, m, b, ps, _, (exec_pack o s).trans hnext, honly, htag ▸ hres, fun j _ i hi => ?_,
    unionOf_congr hflags fun j _ => ?_⟩
  · rw [Nat.testBit_mod_two_pow, decide_eq_true hi, Bool.true_and, testBit_packLane _ _ _ hi, packElem_eq]
  · simp only [packLane, fIf, any_packCodes, packElem_eq]
    rfl

/-- The lane function of `unpk`. -/
def unpkLane (f : PFmt) : LaneFn := fun vs j =>
  (match f with
   | .bin1 => if laneOfV (pfBits f) ((vs[0]?).getD ({} : Val)).bits j = 1 then 1 else 0xFF
   | .nat4 => laneOfV (pfBits f) ((vs[0]?).getD ({} : Val)).bits j
   | .int4 | .int2 => wrapI 8 (sgn (pfBits f) (laneOfV (pfBits f) ((vs[0]?).getD ({} : Val)).bits j)), 0)

/-- The lane of the source that holds the code of a lane of `unpk`. -/
def unpkReads (f : PFmt) (j _k i : Nat) : Bool := i == j * pfBits f / 8

theorem exec_unpk (o : OpUnpk) (s : State) :
    exec (.unpk o) s = laneOp s o.h 8 2 o.d [o.a] [readI s (pfTy o.fmt) o.a] .any (readI s (pfTy o.fmt) o.a).scaled
      (unpkLane o.fmt) (unpkReads o.fmt) := by
  rcases o with ⟨h, f, d, a⟩
  cases f <;> rfl

/-- The number a code of a packed format stands for (R217). -/
def numOf (f : PFmt) (c : BitVec (pfBits f)) : Int :=
  if f = .bin1 then (if c.toNat = 1 then 1 else -1) else if f = .nat4 then c.toNat else c.toInt

theorem laneOfV_eq_extract (w : Nat) (v : V128) (j : Nat) : laneOfV w v j = (v.extractLsb' (w * j) w).toNat := by
  rw [BitVec.extractLsb'_toNat, Nat.shiftRight_eq_div_pow, laneOfV]

theorem unpkLane_fst (f : PFmt) (v : Val) (j : Nat) :
    (unpkLane f [v] j).1 % 2 ^ 8 = wrapTo 8 (numOf f (v.bits.extractLsb' (pfBits f * j) (pfBits f))) := by
  have hsgn : wrapI 8 (sgn (pfBits f) (v.bits.extractLsb' (pfBits f * j) (pfBits f)).toNat) % 2 ^ 8 =
      wrapTo 8 (v.bits.extractLsb' (pfBits f * j) (pfBits f)).toInt := by
    rw [sgn_eq_toInt (pfBits_pos f) (BitVec.isLt _), BitVec.ofNat_toNat, BitVec.setWidth_eq, wrapI_eq_wrapTo, wrapTo_mod]
  simp only [unpkLane, List.getElem?_cons_zero, Option.getD_some, laneOfV_eq_extract]
  cases f with
  | bin1 =>
    simp only [numOf, if_true]
    split <;> rfl
  | nat4 => exact (wrapTo_natCast 8 _).symm
  | int4 | int2 => exact hsgn

theorem unpk_sends (s : State) (o : OpUnpk) (hsome : SomeLane s o.h 16) :
    let a := readI s (pfTy o.fmt) o.a
    ∃ t tf x m b ps, exec (.unpk o) s = .next t ∧ OnlySends s t o.h [o.a] ∧
      Result s t 2 8 o.d (guardBit (s.myGuard o.h))
        (fun j => wrapTo 8 (numOf o.fmt (a.bits.extractLsb' (pfBits o.fmt * j) (pfBits o.fmt)))) a.scaled (fun _ _ => 0) 0 tf
        x m b ps := by
  intro a
  obtain ⟨t, nf, tf, x, m, b, ps, hnext, honly, hres, hflags, -⟩ := laneOp_sends (s := s) (h := o.h) (w := 8) (lat := 2) (d := o.d)
    (srcs := [o.a]) (rtag := a.scaled) (f := unpkLane o.fmt) (reads := unpkReads o.fmt) (raised := noFlags)
    rfl hsome (tagsAgree_any [a]) (fun j _ => unpkLane_fst o.fmt a j) (fun _ _ => rfl)
  exact ⟨t, tf, x, m, b, ps, (exec_unpk o s).trans hnext, honly, eq_zero_of_unionOf hflags ▸ hres⟩

theorem packedLanes : PackedLanes := by
  refine ⟨fun s o hsome => ?_, fun s o hsome => ?_⟩
  · rcases o with ⟨h, f, d, a, b⟩
    cases f <;> exact pack_sends s _ hsome
  · rcases o with ⟨h, f, d, a⟩
    cases f <;> exact unpk_sends s _ hsome

/-- Settles O8: trits by division by three, and packed elements bit by bit. -/
theorem narrowElements : Obligations.NarrowElements := ⟨tritLanes, packedLanes⟩

end Sys2Proof.IntegerLanes
end
